-- ==== Sys2Proof/Word.lean ====
section
/-! DEFINITION. The word types of the Tilyon M8 and the sparse table type, nothing else. -/

namespace Sys2Proof

/-- One byte of memory. -/
abbrev Byte := BitVec 8

/-- A register word (00 R2: 32-bit lanes). -/
abbrev Word := BitVec 32

/-- A 64-bit value, held in an even/odd pair of registers (02 R64). -/
abbrev DWord := BitVec 64

/-- A sparse table: pairs of an index and a value; an index that is not listed holds a default
value named where the table is read. -/
abbrev Tbl (α : Type) := List (Nat × α)

end Sys2Proof
end

