-- ==== Sys2Proof/Machine/Aes.lean ====
section
/-! DEFINITION. AES, counter mode, GMAC and XTS, which the spec names for the memory and the cache die (19 R400, R405) and leaves to their
public standards (log 20: PRESUMED). Blocks are lists of 16 bytes, the most significant byte of a number first. -/

namespace Sys2Proof.Machine

/-! ## The field of AES -/

/-- Times x. -/
def aesTwice (a : Byte) : Byte := if a.getLsbD 7 then (a <<< 1) ^^^ 0x1B else a <<< 1

/-- The product of two elements; n bits of the second one are left. -/
def aesMulN : Nat → Byte → Byte → Byte
  | 0, _, _ => 0
  | n + 1, a, b => (if b.getLsbD 0 then a else 0) ^^^ aesMulN n (aesTwice a) (b >>> 1)

/-- The product of two elements. -/
def aesMul (a b : Byte) : Byte := aesMulN 8 a b

/-- The inverse of an element, its 254th power; 0 for 0. -/
def aesInv (a : Byte) : Byte :=
  let sq := fun (x : Byte) => aesMul x x
  let p := (List.range 6).foldl (fun (x : Byte) _ => aesMul (sq x) a) a
  sq p

/-- SubBytes of a byte. -/
def aesSub (a : Byte) : Byte :=
  let b := aesInv a
  b ^^^ b.rotateLeft 1 ^^^ b.rotateLeft 2 ^^^ b.rotateLeft 3 ^^^ b.rotateLeft 4 ^^^ 0x63

/-- InvSubBytes of a byte. -/
def aesUnsub (a : Byte) : Byte := aesInv (a.rotateLeft 1 ^^^ a.rotateLeft 3 ^^^ a.rotateLeft 6 ^^^ 0x05)

/-! ## Rounds -/

/-- Two lists of bytes added. -/
def xorBytes (a b : List Byte) : List Byte := (a.zip b).map fun e => e.1 ^^^ e.2

/-- ShiftRows, or its inverse with `d` = 12: byte r + 4c comes from column c + r, or c - r. -/
def aesShift (d : Nat) (s : List Byte) : List Byte :=
  (List.range 16).map fun i => s.getD ((i + (if d = 12 then 12 else 4) * (i % 4)) % 16) 0

/-- MixColumns with the first row of its matrix. -/
def aesMix (m : List Byte) (s : List Byte) : List Byte :=
  (List.range 16).map fun i =>
    (List.range 4).foldl (fun (x : Byte) j => x ^^^ aesMul (m.getD ((j + 4 - i % 4) % 4) 0) (s.getD (i / 4 * 4 + j) 0)) 0

/-- The words of a key schedule, newest first: `fuel` more of them, for a key of nk words; i is the number of the next one. -/
def aesExpand (nk : Nat) : Nat → Nat → Byte → List (List Byte) → List (List Byte)
  | 0, _, _, w => w
  | fuel + 1, i, rcon, w =>
    let t := w.headD []
    let t := if i % nk = 0 then
        xorBytes ((t.drop 1 ++ t.take 1).map aesSub) [rcon, 0, 0, 0]
      else if 6 < nk ∧ i % nk = 4 then t.map aesSub
      else t
    aesExpand nk fuel (i + 1) (if i % nk = 0 then aesTwice rcon else rcon) (xorBytes (w.getD (nk - 1) []) t :: w)

/-- The round keys of a key of 16 or 32 bytes. -/
def aesKeys (key : List Byte) : List (List Byte) :=
  let nk := key.length / 4
  let first := ((List.range nk).map fun i => (key.drop (4 * i)).take 4).reverse
  let ws := (aesExpand nk (4 * (nk + 7) - nk) nk 1 first).reverse
  (List.range (nk + 7)).map fun r => ((ws.drop (4 * r)).take 4).flatten

/-- AES of a block under round keys. -/
def aesRounds (ks : List (List Byte)) (b : List Byte) : List Byte :=
  let n := ks.length - 1
  (List.range n).foldl (fun s i =>
    let t := aesShift 4 (s.map aesSub)
    xorBytes (if i + 1 = n then t else aesMix [2, 3, 1, 1] t) (ks.getD (i + 1) [])) (xorBytes b (ks.getD 0 []))

/-- The inverse of AES under round keys. -/
def aesUnrounds (ks : List (List Byte)) (b : List Byte) : List Byte :=
  let n := ks.length - 1
  (List.range n).foldl (fun s i =>
    let t := xorBytes ((aesShift 12 s).map aesUnsub) (ks.getD (n - 1 - i) [])
    if i + 1 = n then t else aesMix [14, 11, 13, 9] t) (xorBytes b (ks.getD n []))

/-! ## Numbers and blocks -/

/-- A number as n bytes, the most significant first. -/
def beBytes (n v : Nat) : List Byte := (List.range n).map fun i => BitVec.ofNat 8 (v / 256 ^ (n - 1 - i))

/-- The number of bytes that stand most significant first. -/
def beNat (b : List Byte) : Nat := b.foldl (fun v x => 256 * v + x.toNat) 0

/-! ## GMAC -/

/-- The product of two blocks in the field of GCM, whose first bit is the coefficient of 1; n bits of the second one are left. -/
def ghashMulN : Nat → BitVec 128 → BitVec 128 → BitVec 128
  | 0, _, _ => 0
  | n + 1, a, b =>
    (if b.getLsbD n then a else 0) ^^^
      ghashMulN n (if a.getLsbD 0 then (a >>> 1) ^^^ (0xE1#128 <<< 120) else a >>> 1) b

/-- GHASH of blocks under a hash key. -/
def ghash (h : BitVec 128) (bs : List (BitVec 128)) : BitVec 128 := bs.foldl (fun y b => ghashMulN 128 h (y ^^^ b)) 0

/-- The AES-GMAC tag of a message of whole blocks under a nonce of n bits, at most 128 and not 96, that stands in the upper bits of a block. -/
def gmac (key : List Byte) (n : Nat) (nonce : BitVec 128) (msg : List Byte) : BitVec 128 :=
  let ks := aesKeys key
  let enc := fun (b : BitVec 128) => BitVec.ofNat 128 (beNat (aesRounds ks (beBytes 16 b.toNat)))
  let h := enc 0
  let blocks := (List.range (msg.length / 16)).map fun i => BitVec.ofNat 128 (beNat ((msg.drop (16 * i)).take 16))
  ghash h (blocks ++ [BitVec.ofNat 128 (8 * msg.length * 2 ^ 64)]) ^^^ enc (ghash h [nonce, BitVec.ofNat 128 n])

/-! ## XTS -/

/-- Times x in the field of XTS, whose first byte is the least significant. -/
def xtsTwice (t : BitVec 128) : BitVec 128 := if t.getLsbD 127 then (t <<< 1) ^^^ 0x87 else t <<< 1

/-- The mask of block j of data unit u: the encrypted unit number, j times doubled. -/
def xtsMask (ks : List (List Byte)) (u j : Nat) : List Byte :=
  let t := aesRounds ks (beBytes 16 u).reverse
  let m := (List.range j).foldl (fun t _ => xtsTwice t) (BitVec.ofNat 128 (beNat t.reverse))
  (beBytes 16 m.toNat).reverse

/-- A data unit of whole blocks in XTS, encrypted or decrypted. The key of 128 bits stands for both keys of XTS: the spec names one (log 68:
DESIGN CHOICE). -/
def xts (dec : Bool) (key : List Byte) (u : Nat) (bs : List Byte) : List Byte :=
  let ks := aesKeys key
  (List.range (bs.length / 16)).flatMap fun j =>
    let m := xtsMask ks u j
    let b := xorBytes ((bs.drop (16 * j)).take 16) m
    xorBytes (if dec then aesUnrounds ks b else aesRounds ks b) m

end Sys2Proof.Machine
end

