-- ==== Sys2Proof/Syntax.lean ====
section
/-! DEFINITION. The syntax of the machine: the operands and fields of the Wilbex instructions, the frames and
packets that the machine's events carry, and the ONE inductive `Instr`, one constructor per row of the opcode table. -/

namespace Sys2Proof

/-! ## Fields of the long word -/

/-- The type codes TY and TY2 (08 R181). -/
inductive Ty where
  | none | i8 | n8 | i16 | n16 | i32 | n32 | i64 | n64 | b32 | b64
  | f32 | f16 | bf16 | e4m3 | e5m2 | q4 | f16x2 | bf16x2 | e4m3x4 | e5m2x4
  deriving DecidableEq, Repr, Inhabited

/-- The rounding codes RND (06 R145). -/
inductive Rnd where
  | rn | rz | rd | ru
  deriving DecidableEq, Repr, Inhabited

/-- Guard, guard negate and hints: bits 85 to 72 of every long word (08 R174). -/
structure Hdr where
  guard : BitVec 4
  neg : Bool
  hints : BitVec 9
  deriving DecidableEq, Repr, Inhabited

/-- A lane or uniform register operand, kinds 000 and 001 (08 R185). -/
inductive Reg where
  | g (n : BitVec 6) (pair : Bool)
  | s (n : BitVec 5) (pair : Bool)
  deriving DecidableEq, Repr, Inhabited

/-- The special read-only operands (07 R161). -/
inductive Special where
  | lane | grpX | grpY | grpZ | team | role | core | pkg | width | vf | depth | principal
  | param | data | clk
  deriving DecidableEq, Repr, Inhabited

/-- A value source: register, special or 12-bit immediate (08 R186). -/
inductive Src where
  | reg (r : Reg)
  | special (x : Special) (pair : Bool)
  | imm (v : BitVec 12)
  deriving DecidableEq, Repr, Inhabited

/-- A predicate operand p0 to p15, kind 011. -/
abbrev PReg := BitVec 4
/-- A tile operand t0 to t7, kind 010. -/
abbrev Tile := BitVec 3
/-- An accumulator row operand, kind 110. -/
abbrev Row := BitVec 12
/-- A single lane register named by number alone (tokens, tag groups). -/
abbrev GReg := BitVec 6

/-- The destination of `lpred`: a register or a predicate (11 R258). -/
inductive VDst where
  | reg (r : Reg)
  | pred (p : PReg)
  deriving DecidableEq, Repr, Inhabited

/-- Comparison codes of `setp` (09 R218). -/
inductive Cmp where
  | eq | ne | lt | le | gt | ge
  deriving DecidableEq, Repr, Inhabited

/-- Operation codes of the atomics (08 R182, 10 R234). -/
inductive AtomOp where
  | add | min | max | and | or | xor | exch | cas | incb | decb | addComb
  deriving DecidableEq, Repr, Inhabited

/-- Scope codes (08 R182). -/
inductive Scope where
  | core | die | pkg | fab | win
  deriving DecidableEq, Repr, Inhabited

/-- The modes of `shfl` (11 R258). -/
inductive ShflMode where
  | idx | up | down | xor
  deriving DecidableEq, Repr, Inhabited

/-- The operations of `lpred` (11 R260). -/
inductive LpredOp where
  | mask | count | first | every | some | same
  deriving DecidableEq, Repr, Inhabited

/-- The operations of `redux` and `scan` (11 R261). -/
inductive RedOp where
  | add | min | max | minn | maxn | and | or | xor
  deriving DecidableEq, Repr, Inhabited

/-- The operations of `peers` (11 R264). -/
inductive PeersOp where
  | mask | leader | rank | uniform
  deriving DecidableEq, Repr, Inhabited

/-- The operations of a Harvest cursor (05 R125, R131). -/
inductive CrdOp where
  | enum | intersect | union | diff | expand
  deriving DecidableEq, Repr, Inhabited

/-! ## What the events carry -/

/-- The Novder frame (01 R26). `gregs` lists g0 to g15. -/
structure Frame where
  pc : Word
  pred : BitVec 16
  depth : BitVec 4
  principal : BitVec 12
  kind : BitVec 4
  vf : BitVec 10
  khandle : BitVec 16
  grid : Word
  target : BitVec 56
  srcPkg : BitVec 16
  bounce : Bool
  poison : Bool
  srcCore : BitVec 9
  vfPkg : BitVec 16
  gregs : List Word
  deriving DecidableEq, Repr, Inhabited

/-- The selector registers of the privileged view (19 R415, R416). -/
structure Sel where
  vf : BitVec 10
  core : BitVec 9
  port : BitVec 12
  part : BitVec 6
  win : BitVec 10
  frame : BitVec 24
  tag : BitVec 3
  deriving DecidableEq, Repr, Inhabited

/-- What an access does at its home (10 R226, R229). -/
inductive AccKind where
  | load | ro | prefetch | store | atomic | red | mcst
  deriving DecidableEq, Repr, Inhabited

/-- A request as it travels to a home of another package (02 R52), with its locality hint (10 R231) and the thread it comes from: its
context and how often that was resumed or admitted (10 R249). `engine` is 0 for a thread, 1 for an engine, 2 for a read of Harvest in
a page whose class its operation has checked (05 R122). -/
structure WireReq where
  id : Nat
  ctx : Nat
  round : Nat
  engine : BitVec 2
  hint : BitVec 2
  kind : AccKind
  vf : BitVec 10
  principal : BitVec 12
  khandle : BitVec 16
  grid : Word
  pc : Word
  srcCore : BitVec 9
  core : BitVec 9
  va : BitVec 64
  size : Nat
  ty : Ty
  op : AtomOp
  data : BitVec 128
  expected : DWord
  win : Bool
  tf : Bool
  deriving DecidableEq, Repr, Inhabited

/-- The outcome that a response carries: a value (02 R52), a value with the sector of a read-only page and its class (02 R57), the class
and page size of a page that an engine may not read (02 R70), a request returned unperformed (10 R249), or a trap with its cause and
subkind. -/
inductive WireResp where
  | value (v : BitVec 128)
  | sector (v : BitVec 128) (cls : BitVec 12) (bytes : List Byte)
  | denied (cls : BitVec 12) (size : Nat)
  | returned
  | trap (cause kind : Nat)
  deriving DecidableEq, Repr, Inhabited

/-- What a device asks of a page of a VF at its home in another package: bytes stored, step 2 of the append of a block to a chain (18
R380), step 1 of a denial (02 R72), the header's step of a fault record (20 R419). -/
inductive DevOp where
  | store (va : BitVec 64) (bytes : List Byte)
  | append (chain : Nat) (block : BitVec 64)
  | deny
  | post
  deriving DecidableEq, Repr, Inhabited

/-- What one fabric packet carries (21 R439): a frame, a request, a response, an engine element (as a request), a
flush marker, or a barrier or management message (a reservation, its grant, a grid count decrement, a forwarded
`mcst` write and its acknowledgement, which is a response, a device's access for a VF). -/
inductive Payload where
  | frame (f : Frame) (core : BitVec 9)
  | request (r : WireReq)
  | response (id : Nat) (r : WireResp)
  | marker (core : BitVec 9) (ctx : Nat)
  | markerAck (core : BitVec 9) (ctx : Nat)
  | reserve (core : BitVec 9) (ctx : Nat) (vf : BitVec 10) (grid : Word) (tf : Bool)
  | grant (core : BitVec 9) (ctx : Nat) (ok : Bool)
  | decrement (vf : BitVec 10) (grid : Word) (count units : Bool)
  | device (core : BitVec 9) (vf : BitVec 10) (op : DevOp)
  deriving DecidableEq, Repr, Inhabited

/-- A packet between two Ethernet ports (21 R439, R440), with the entropy value on which it travels. -/
structure Packet where
  srcPkg : BitVec 16
  srcPort : BitVec 4
  dstPkg : BitVec 16
  dstPort : BitVec 4
  cls : BitVec 3
  seq : Nat
  entropy : Nat
  body : Payload
  deriving DecidableEq, Repr, Inhabited

/-- The units of the error log (20 R437). -/
inductive ErrUnit where
  | hbm | sram | register | accumulator | dieLink | vertLink | ucie | ethernet | hostLink
  deriving DecidableEq, Repr, Inhabited

/-- A unit of a halted footprint that another party claims (20 R427). -/
inductive EvictUnit where
  | context (n : Nat)
  | row (n : Nat)
  | spBlock (team block : Nat)
  | accBlock (team block : Nat)
  | uniform (row : Nat)
  | cursor (slot : Nat)
  | buffer (entry : Nat)
  deriving DecidableEq, Repr, Inhabited

/-! ## The instructions and events: one constructor per row of the opcode table -/

/-- One constructor per row of spec/opcode_table.json, in its order. The long-word instructions carry their frame
(`Hdr`) and operands; the machine's events carry what they concern. -/
inductive Instr where
  -- 08 R172
  | shortParcel (n : BitVec 10)
  -- class 0: integer (09 R199 to R206)
  | add (h : Hdr) (ty : Ty) (d : Reg) (a b : Src)
  | addXi (h : Hdr) (ty : Ty) (d : Reg) (a : Src) (imm : Word)
  | sub (h : Hdr) (ty : Ty) (d : Reg) (a b : Src)
  | subXi (h : Hdr) (ty : Ty) (d : Reg) (a : Src) (imm : Word)
  | addc (h : Hdr) (ty : Ty) (d : Reg) (a b : Src) (pc : PReg)
  | subb (h : Hdr) (ty : Ty) (d : Reg) (a b : Src) (pc : PReg)
  | iadd3 (h : Hdr) (ty : Ty) (d : Reg) (a b c : Src)
  | mulLo (h : Hdr) (ty : Ty) (d : Reg) (a b : Src)
  | mulLoXi (h : Hdr) (ty : Ty) (d : Reg) (a : Src) (imm : Word)
  | mulHi (h : Hdr) (ty : Ty) (d : Reg) (a b : Src)
  | mulWide (h : Hdr) (ty : Ty) (d : Reg) (a b : Src)
  | madLo (h : Hdr) (ty : Ty) (d : Reg) (a b c : Src)
  | madHi (h : Hdr) (ty : Ty) (d : Reg) (a b c : Src)
  | madWide (h : Hdr) (ty : Ty) (d : Reg) (a b c : Src)
  | div (h : Hdr) (ty : Ty) (d : Reg) (a b : Src)
  | rem (h : Hdr) (ty : Ty) (d : Reg) (a b : Src)
  | min (h : Hdr) (ty : Ty) (d : Reg) (a b : Src)
  | minXi (h : Hdr) (ty : Ty) (d : Reg) (a : Src) (imm : Word)
  | max (h : Hdr) (ty : Ty) (d : Reg) (a b : Src)
  | maxXi (h : Hdr) (ty : Ty) (d : Reg) (a : Src) (imm : Word)
  | abs (h : Hdr) (ty : Ty) (d : Reg) (a : Src)
  | neg (h : Hdr) (ty : Ty) (d : Reg) (a : Src)
  | saddSat (h : Hdr) (ty : Ty) (d : Reg) (a b : Src)
  | ssubSat (h : Hdr) (ty : Ty) (d : Reg) (a b : Src)
  | and (h : Hdr) (ty : Ty) (d : Reg) (a b : Src)
  | andXi (h : Hdr) (ty : Ty) (d : Reg) (a : Src) (imm : Word)
  | or (h : Hdr) (ty : Ty) (d : Reg) (a b : Src)
  | orXi (h : Hdr) (ty : Ty) (d : Reg) (a : Src) (imm : Word)
  | xor (h : Hdr) (ty : Ty) (d : Reg) (a b : Src)
  | xorXi (h : Hdr) (ty : Ty) (d : Reg) (a : Src) (imm : Word)
  | not (h : Hdr) (ty : Ty) (d : Reg) (a : Src)
  | andn (h : Hdr) (ty : Ty) (d : Reg) (a b : Src)
  | shl (h : Hdr) (ty : Ty) (d : Reg) (a b : Src)
  | shr (h : Hdr) (ty : Ty) (d : Reg) (a b : Src)
  | sar (h : Hdr) (ty : Ty) (d : Reg) (a b : Src)
  | rol (h : Hdr) (ty : Ty) (d : Reg) (a b : Src)
  | ror (h : Hdr) (ty : Ty) (d : Reg) (a b : Src)
  | bfe (h : Hdr) (ty : Ty) (d : Reg) (a b : Src)
  | bfi (h : Hdr) (ty : Ty) (d : Reg) (a b c : Src)
  | bfrev (h : Hdr) (ty : Ty) (d : Reg) (a : Src)
  | popc (h : Hdr) (ty : Ty) (d : Reg) (a : Src)
  | clz (h : Hdr) (ty : Ty) (d : Reg) (a : Src)
  | ctz (h : Hdr) (ty : Ty) (d : Reg) (a : Src)
  | lea (h : Hdr) (ty : Ty) (d : Reg) (a b c : Src)
  | mov (h : Hdr) (d : Reg) (a : Src)
  | movi (h : Hdr) (d : Reg) (imm : Word)
  | sel (h : Hdr) (d : Reg) (a b : Src) (pc : PReg)
  -- class 1: floating point (09 R206 to R211)
  | fadd (h : Hdr) (ty : Ty) (m : Rnd) (d : Reg) (a b : Src)
  | faddXi (h : Hdr) (ty : Ty) (m : Rnd) (d : Reg) (a : Src) (imm : Word)
  | fsub (h : Hdr) (m : Rnd) (d : Reg) (a b : Src)
  | fmul (h : Hdr) (ty : Ty) (m : Rnd) (d : Reg) (a b : Src)
  | fmulXi (h : Hdr) (ty : Ty) (m : Rnd) (d : Reg) (a : Src) (imm : Word)
  | ffma (h : Hdr) (ty : Ty) (m : Rnd) (d : Reg) (a b c : Src)
  | fmin (h : Hdr) (ty : Ty) (d : Reg) (a b : Src)
  | fminXi (h : Hdr) (ty : Ty) (d : Reg) (a : Src) (imm : Word)
  | fmax (h : Hdr) (ty : Ty) (d : Reg) (a b : Src)
  | fmaxXi (h : Hdr) (ty : Ty) (d : Reg) (a : Src) (imm : Word)
  | fminn (h : Hdr) (ty : Ty) (d : Reg) (a b : Src)
  | fmaxn (h : Hdr) (ty : Ty) (d : Reg) (a b : Src)
  | fabs (h : Hdr) (ty : Ty) (d : Reg) (a : Src)
  | fneg (h : Hdr) (ty : Ty) (d : Reg) (a : Src)
  | fsgn (h : Hdr) (ty : Ty) (d : Reg) (a b : Src)
  | fdiv (h : Hdr) (m : Rnd) (d : Reg) (a b : Src)
  | fsqrt (h : Hdr) (m : Rnd) (d : Reg) (a : Src)
  | frcp (h : Hdr) (m : Rnd) (d : Reg) (a : Src)
  | frsq (h : Hdr) (m : Rnd) (d : Reg) (a : Src)
  | fex2 (h : Hdr) (m : Rnd) (d : Reg) (a : Src)
  | flg2 (h : Hdr) (m : Rnd) (d : Reg) (a : Src)
  | fsin (h : Hdr) (m : Rnd) (d : Reg) (a : Src)
  | fcos (h : Hdr) (m : Rnd) (d : Reg) (a : Src)
  | ftanh (h : Hdr) (m : Rnd) (d : Reg) (a : Src)
  | frnd (h : Hdr) (m : Rnd) (d : Reg) (a : Src)
  | ffrc (h : Hdr) (m : Rnd) (d : Reg) (a : Src)
  | fscale (h : Hdr) (m : Rnd) (d : Reg) (a b : Src)
  | fdot2 (h : Hdr) (ty : Ty) (m : Rnd) (d : Reg) (a b c : Src)
  -- class 2: conversion and packing (09 R212 to R217)
  | cvt (h : Hdr) (t s : Ty) (m : Rnd) (sat : Bool) (d : Reg) (a : Src)
  | cvtPack (h : Hdr) (ty : Ty) (m : Rnd) (d : Reg) (a b c : Src)
  | qpack (h : Hdr) (d a : Reg) (b : Src) (c : Reg)
  | qunpack (h : Hdr) (m : Rnd) (d : Reg) (a b : Src)
  | bsel (h : Hdr) (d : Reg) (a b c : Src)
  | pack (h : Hdr) (ty : Ty) (sat : Bool) (d : Reg) (a b c : Src)
  | unpack (h : Hdr) (ty : Ty) (d : Reg) (a b : Src)
  -- class 3: predicates and control (09 R218 to R225)
  | setp (h : Hdr) (cmp : Cmp) (ty : Ty) (p : PReg) (a b : Src)
  | fsetp (h : Hdr) (mask : BitVec 4) (p : PReg) (a b : Src)
  | fclass (h : Hdr) (p : PReg) (a b : Src)
  | pand (h : Hdr) (p a b : PReg) (na nb : Bool)
  | por (h : Hdr) (p a b : PReg) (na nb : Bool)
  | pxor (h : Hdr) (p a b : PReg) (na nb : Bool)
  | pnot (h : Hdr) (p a : PReg)
  | pmov (h : Hdr) (p a : PReg)
  | pmovGet (h : Hdr) (d : Reg)
  | pmovPut (h : Hdr) (d : Reg) (a : Src)
  | bra (h : Hdr) (off : Word)
  | braInd (h : Hdr) (a : Src)
  | call (h : Hdr) (off : Word)
  | callInd (h : Hdr) (a : Src)
  | ret (h : Hdr)
  | exit (h : Hdr)
  | yield (h : Hdr)
  | nop (h : Hdr)
  -- class 4: memory, migration and work creation (10)
  | ldG (h : Hdr) (ty : Ty) (tf : Bool) (d base : Reg) (disp : BitVec 10)
  | stG (h : Hdr) (ty : Ty) (tf : Bool) (v : Src) (base : Reg) (disp : BitVec 10)
  | ldS (h : Hdr) (ty : Ty) (d base : Reg) (disp : BitVec 10)
  | stS (h : Hdr) (ty : Ty) (v : Src) (base : Reg) (disp : BitVec 10)
  | ldRo (h : Hdr) (ty : Ty) (tf : Bool) (d base : Reg) (disp : BitVec 10)
  | pfRo (h : Hdr) (base : Reg) (disp : BitVec 10)
  | atomG (h : Hdr) (op : AtomOp) (ty : Ty) (tf : Bool) (d base : Reg) (disp : BitVec 10) (v : Src)
  | atomS (h : Hdr) (op : AtomOp) (ty : Ty) (d base : Reg) (disp : BitVec 10) (v : Src)
  | redG (h : Hdr) (op : AtomOp) (ty : Ty) (tf : Bool) (v : Src) (base : Reg) (disp : BitVec 10)
  | mcst (h : Hdr) (ty : Ty) (v : Src) (base : Reg) (disp : BitVec 10)
  | fence (h : Hdr) (scope : Scope)
  | ldAcq (h : Hdr) (ty : Ty) (tf : Bool) (d base : Reg) (disp : BitVec 10)
  | stRel (h : Hdr) (scope : Scope) (ty : Ty) (tf : Bool) (v : Src) (base : Reg) (disp : BitVec 10)
  | mig (h : Hdr) (base : Reg) (disp : BitVec 10)
  | detach (h : Hdr) (tf : Bool)
  | spawn (h : Hdr) (off : Word) (nreg : BitVec 4) (tf : Bool)
  | spawnAt (h : Hdr) (off : Word) (a : Reg) (nreg : BitVec 4) (tf : Bool)
  | launch (h : Hdr) (d : Reg) (a b : Src)
  -- class 5: cross-lane and matrix (11)
  | shfl (h : Hdr) (mode : ShflMode) (ty : Ty) (d : Reg) (a b c : Src)
  | lpred (h : Hdr) (op : LpredOp) (d : VDst) (a : PReg)
  | redux (h : Hdr) (op : RedOp) (ty : Ty) (m : Rnd) (d : Reg) (a : Src)
  | scan (h : Hdr) (op : RedOp) (ex : Bool) (ty : Ty) (m : Rnd) (d : Reg) (a : Src)
  | segscan (h : Hdr) (ex : Bool) (ty : Ty) (d : Reg) (a : Src) (b : PReg) (c : Src)
  | segred (h : Hdr) (ty : Ty) (d : Reg) (a : Src) (b : PReg) (c : Src)
  | peers (h : Hdr) (op : PeersOp) (ty : Ty) (d : Reg) (a : Src)
  | lcompress (h : Hdr) (ty : Ty) (d : Reg) (a : Src) (b : PReg) (c : Reg)
  | lexpand (h : Hdr) (ty : Ty) (d : Reg) (a : Src) (b : PReg) (c : Src)
  | gwait (h : Hdr)
  | mma (h : Hdr) (z : Bool) (ty : Ty) (row : Row) (a : Tile) (off : Src) (tag : GReg)
  | mmaSp (h : Hdr) (z : Bool) (ty : Ty) (row : Row) (a : Tile) (off : Src) (md : Tile)
  | sprune (h : Hdr) (ty : Ty) (d a c : Tile)
  | mdist (h : Hdr) (z : Bool) (ty : Ty) (row : Row) (a : Tile) (off : Src)
  | mtopk (h : Hdr) (max : Bool) (ty : Ty) (d : Tile) (row : Row) (g0 k : Src)
  | acz (h : Hdr) (row : Row) (n : Src)
  | acld (h : Hdr) (row : Row) (off n : Src) (tok : GReg)
  | acst (h : Hdr) (row : Row) (off n : Src) (tok : GReg)
  | accp (h : Hdr) (ty : Ty) (d b : Row) (n : Src)
  | acsc (h : Hdr) (ty : Ty) (var : BitVec 2) (off : Src) (row : Row) (n f : Src)
  -- class 6: engines and registers (12 R278 to R291)
  | tcopy (h : Hdr) (tok : GReg) (off : Src)
  | gather (h : Hdr) (tok : GReg) (off : Src)
  | crdOpen (h : Hdr) (op : CrdOp) (c da db : Src)
  | crdSplit (h : Hdr) (c n i : Src)
  | crdNext (h : Hdr) (d : GReg) (c : Src) (p : PReg)
  | crdSave (h : Hdr) (sp : Bool) (c : Src) (b : Reg)
  | crdLoad (h : Hdr) (sp : Bool) (c : Src) (b : Reg)
  | crdClose (h : Hdr) (c : Src)
  | spill (h : Hdr) (sp : Bool) (tok : GReg) (a : Tile) (b n : Src)
  | fill (h : Hdr) (sp : Bool) (tok : GReg) (a : Tile) (b n : Src)
  | rclaim (h : Hdr) (k : Src)
  | rgive (h : Hdr) (k : Src)
  -- class 7: synchronisation and system (12 R292 to R300)
  | barTeam (h : Hdr)
  | barRole (h : Hdr)
  | barTree (h : Hdr) (tag : Src)
  | arrive (h : Hdr) (off n : Src)
  | waitCtr (h : Hdr) (off target : Src)
  | trap (h : Hdr) (code : Src)
  | brk (h : Hdr)
  | srd (h : Hdr) (wide : Bool) (d : Reg) (num : Word)
  | swr (h : Hdr) (wide : Bool) (num : Word) (a : Src)
  | halt (h : Hdr)
  | tlbinvAll (h : Hdr) (v : Src)
  | tlbinvPage (h : Hdr) (v a : Src)
  | roinvAll (h : Hdr) (v : Src)
  | roinvPage (h : Hdr) (v a : Src)
  -- the machine's events (95)
  | pick (core half : Nat)
  | firstHopAccept (core ctx : Nat)
  | frameArrival (n : Nat)
  | admitCore (core : Nat)
  | firewallBounce (n : Nat)
  | firewallDrop (req : Nat)
  | teamPlacement (vf : Nat)
  | reservationRequest (n : Nat)
  | reservationGrant (n : Nat)
  | gridCountDecrement (n : Nat)
  | gridComplete (grid : Nat)
  | claimServed (core team : Nat)
  | releaseComplete (core team : Nat)
  | teamDeadlock (core team : Nat)
  | treeRelease (part tag : Nat)
  | dictionaryLoad (core vf handle : Nat)
  | remoteRequestSend (req : Nat)
  | perform (req : Nat)
  | tableWalk (core vf : Nat) (va : BitVec 64)
  | requestResponse (req : Nat)
  | roSectorFill (n : Nat)
  | mcstForward (req die : Nat)
  | flushMarkerAck (core ctx n : Nat)
  | copyElement (core op elem : Nat)
  | gatherRow (core op row : Nat)
  | copyComplete (core op : Nat)
  | spillComplete (core op : Nat)
  | matrixOpStart (core : Nat)
  | matrixOpComplete (core : Nat)
  | engineReset (core : Nat)
  | crdNextComplete (core slot : Nat)
  | crdSplitComplete (core slot : Nat)
  | unitPark (issue key : Nat)
  | faultQueueRetry (n : Nat)
  | replay (vf : Nat) (seq : DWord)
  | kill (vf : Nat) (seq : DWord)
  | slotEnd (part : Nat)
  | forcedHalt (part : Nat)
  | lazyEviction (core : Nat) (u : EvictUnit)
  | teamRestore (core team : Nat)
  | freeThreadRestore (core ctx : Nat)
  | calendarRun (part : Nat) (v : Word)
  | calendarStop (part : Nat) (v : Word)
  | calslotWrite (part slot : Nat) (v : Word)
  | vfReset (vf : Nat)
  | vfResetComplete (vf : Nat)
  | doorbellAppend (vf chain : Nat) (v : DWord)
  | unsupportedRequest (vf off size : Nat) (write : Bool)
  | blockStart (vf chain : Nat)
  | chainAdvance (vf chain : Nat)
  | kernelRegister (vf : Nat)
  | kernelUnregister (vf : Nat) (handle : BitVec 16)
  | regionTableLoad (vf : Nat)
  | keyGenerate (vf : Nat)
  | keyDestroy (vf : Nat)
  | pcinv (vf : Nat)
  | ownerWrite (core frame : Nat) (v : BitVec 16)
  | frameScrub (core frame : Nat) (v : BitVec 16)
  | scrubComplete (core frame : Nat)
  | winpageAdd (win : Nat) (v : DWord)
  | winpageClear (win : Nat)
  | windowOpen (win : Nat) (v : DWord)
  | windowCloseRekey (win : Nat) (v : DWord)
  | windowCloseDestroy (win : Nat) (v : DWord)
  | rekeyComplete (win : Nat)
  | octmapWrite (i : Nat) (v : DWord)
  | partcfgWrite (part : Nat) (v : Word)
  | ethcfgWrite (port : Nat) (v : DWord)
  | privilegedRegisterWrite (sel : Sel) (num : BitVec 16) (v : DWord)
  | cxlMemRead (addr n : Nat)
  | cxlMemWrite (addr : Nat) (data : List Byte)
  | cxlCacheSnoop (addr : Nat)
  | attestationRequest (nonce : List Byte)
  | powerOn
  | dieResetRelease
  | firmwareImageLoad (die : Nat) (image : List (List Byte)) (sig : List Byte)
  | powerInterval (watts : Nat)
  | thermalThrottle (temp : Nat)
  | thermalStop (temp : Nat)
  | thermalResume (temp : Nat)
  | firmwareWake (core ctx : Nat)
  | errorDetected (core : Nat) (u : ErrUnit) (loc : BitVec 48) (outcome : BitVec 4) (syndrome : DWord)
  | selfTestTrial (n : Nat) (reproduced : Bool)
  | linkRetry (link : Nat) (ok : Bool)
  | packetReceive (port : Nat) (p : Packet)
  | packetAck (port n : Nat)
  | retransmit (port n : Nat)
  | lowmaxService (port cls : Nat)
  deriving DecidableEq, Repr, Inhabited

end Sys2Proof
end

