-- ==== Sys2Proof/Config.lean ====
section
/-! DEFINITION. What the manual leaves open: constants without a body. Nothing can be proved about the value of any
of them, so a statement about the machine holds whatever they are. -/

namespace Sys2Proof

/-- Free choice of which of several enabled events of different agents comes first (03 R74: any performance order that
keeps the rules is allowed). Applied to the model's counter `State.tick`. Log 1. -/
opaque Config.choose : Nat → Nat

/-- Whether a core combines an outbound `.comb`, integer, bitwise or min/max reduction with another one (03 R95: a
core MAY combine). Applied to `State.tick`. Log 11. -/
opaque Config.combine : Nat → Bool

/-- The value a special function takes where the model's 400-bit enclosure leaves its rounding undecided: function
number and argument. 06 R152 fixes the value; no argument is known to come here. Log 9. -/
opaque Config.specialTail : Nat → Word → Word

/-- The check of a firmware image's SLH-DSA-SHA2-128s signature against the key hash in the fuses (21 R445): digest
and signature. Log 20. -/
opaque Config.verifyImage : List Byte → List Byte → Bool

/-- The device identity key's SLH-DSA-SHA2-128s signature (7,856 bytes) over the bytes of a report (21 R448): byte
number and message. Log 20. -/
opaque Config.signByte : Nat → List Byte → Byte

/-- The public half of the device identity key, 32 bytes (21 R448): byte number. Log 20. -/
opaque Config.idKeyByte : Nat → Byte

/-- The partition of an octant of another package (19 R390): that package's OCTMAP, which this one does not hold. Package and octant. Log
12. -/
opaque Config.farPart : Nat → Nat → Nat

/-- A byte that another package holds, as the device reads it there (18 R380, R386, 02 R72, 20 R419): tick, cycle, package, address. Log
27. -/
opaque Config.farByte : Nat → Nat → Nat → Nat → Byte

/-- The cause and KIND with which another package turns a device access of one of its pages away (18 R386); a number that is none of
those causes is no failure. Tick, cycle, package, address. Log 27. -/
opaque Config.farFault : Nat → Nat → Nat → Nat → Nat × Nat

/-- `$param` of a free thread whose grid another package holds (07 R161): package, VF, grid tag. Log 15. -/
opaque Config.farParam : Nat → Nat → Word → DWord

/-- The live free-thread count that the VF's home package holds (12 R298, 01 R23): tick, cycle, VF. Log 76. -/
opaque Config.farLive : Nat → Nat → Nat → Word

/-- The output of the key generator (19 R406): kind of key, slot, generation. Log 20. -/
opaque Config.drbg : Nat → Nat → Nat → BitVec 256

/-- The CMAC and NMAC of the tree (19 R402), whose function the manual does not name: key, nonce, message. Log 20. -/
opaque Config.tag : BitVec 256 → Nat → Nat → BitVec 64

/-- The cache-die address of a sector, die and 21-bit index (19 R405), of a team's scratchpad, of a read-only line or of the save area: the
manual gives no place of them. Kind, core, place. Log 68. -/
opaque Config.cacheSector : Nat → Nat → Nat → Nat

/-- A byte of what the manual lists in a place of the save area without a layout: a context, the pending items of a cursor, a replay buffer
entry (20 R428). Tick and byte. Log 52. -/
opaque Config.savedByte : Nat → Nat → Byte

/-- The die that an access to a replicated region with no replica die (DIEMASK 0, which 02 R47 and R451 accept) goes to: 02 R50 names
none. Log 66. -/
opaque Config.noReplicaDie : Nat

/-- The macro that a LOCATION of an SRAM, register or accumulator error names (20 R437: macro and row, in bits that the manual does not
give). Unit and LOCATION. Log 82. -/
opaque Config.macroOf : Nat → BitVec 48 → Nat

/-- Whether a macro holds registers, scratchpad units or accumulator rows that a context or a team uses (20 R435), or a line of a cache
slice: the manual gives no place of them. Core, unit, macro, context, team or line. Log 82. -/
opaque Config.macroHolds : Nat → Nat → Nat → Nat → Bool

/-- What the host stores to a 16-byte unit of its memory by the time of a snoop, if it stores there (18 R376): the tick and the unit's
number. Log 7. -/
opaque Config.hostStore : Nat → Nat → Option (BitVec 128)

/-- The frames of the retirement list that the host supplies at a start (20 R436, 21 R445). Log 84. -/
opaque Config.retirementList : List Nat

/-- The watts that the package draws over an interval (21 R446). Applied to `State.tick`. Log 104. -/
opaque Config.watts : Nat → Nat

/-- The bytes of a packet on the wire, which the router ports weigh (21 R443); the manual does not give them. Log 79. -/
opaque Config.wireBytes : Payload → Nat

/-- The port and lane of an error on a link, as an error log record holds them (20 R437): the link and the tick. Log 82. -/
opaque Config.linkPlace : Nat → Nat → BitVec 48

/-- The word stored for a value that the manual leaves open while the machine goes on, one for each use. Applied to
`State.tick`. Log 2. -/
opaque Config.freeWord : Nat → Word

end Sys2Proof
end

