-- ==== Sys2Proof/Machine/State.lean ====
section
/-! DEFINITION. The state of one QX-TM8 package as plain data, the reasons a step can stop, and the state after
reset. Sparse tables (`Tbl`) hold what is indexed; an index that is not listed holds the default named by its
accessor in Machine/Ops.lean. -/

namespace Sys2Proof.Machine

/-! ## Stops -/

/-- The reasons a step stops with a fault: there are none. Every trap of the manual is taken as a next state (12 R301), and an idle
package still counts cycles (01 R3). -/
inductive Fault where
  deriving DecidableEq, Repr

/-- The reasons a step is refused. -/
inductive Refusal where
  /-- Raised by an arm of `exec` whose instruction has no meaning yet. Safe. -/
  | notModelled (mnemonic : String)
  deriving DecidableEq, Repr

/-! ## Traps (12 R301, R303) -/

/-- The trap causes of 12 R301, codes 1 to 24 in order. -/
inductive Cause where
  | illegalOp | regRange | emptyRead | unboundLaneop | pageFault | prot | permWrite | align
  | poison | replicaStore | windowClosed | firewall | crdUnsorted | crdFormat | cvtTag | mmaMeta
  | accRange | spawnDepth | spawnLimit | teamDeadlock | engineReset | swTrap | breakpoint | priv
  deriving DecidableEq, Repr, Inhabited

/-- A trap: cause, KIND (12 R303), and the ADDR and INFO that its record carries (12 R302). -/
structure Trap where
  cause : Cause
  kind : Nat
  addr : BitVec 64
  info : Word
  deriving DecidableEq, Repr, Inhabited

/-- A home (02 R49): a core of this package, the host, or a core of another package. -/
inductive Home where
  | core (n : Nat)
  | host
  | far (pkg core : Nat)
  deriving DecidableEq, Repr, Inhabited

/-! ## Registers and threads -/

/-- The state of a register word (02 R66): FULL, EMPTY, or LOCKED by a number of queued engine reads. -/
inductive WState where
  | full
  | empty
  | locked (n : Nat)
  deriving DecidableEq, Repr, Inhabited

/-- A register word: value, state (02 R66), poison (20 R433), and the mark of an engine token, which holds the
descriptor offset that the record of a trapping read names (04 R103). -/
structure RegWord where
  val : Word
  st : WState
  poison : Bool
  token : Option Word
  deriving DecidableEq, Repr, Inhabited

/-- A register word or predicate that an instruction waits for: lane register, uniform register, predicate. -/
inductive WRef where
  | g (n : Nat)
  | s (n : Nat)
  | p (n : Nat)
  deriving DecidableEq, Repr, Inhabited

/-- What a waiting thread waits for (01 R39, R40). -/
inductive Wait where
  /-- the words to be FULL, or LOCKED where `locked` lets it proceed (02 R67) -/
  | words (l : List WRef)
  /-- at a group-scoped instruction (01 R12) -/
  | gscope
  /-- in a released set whose sources or resources are not available yet (11 R255, R268) -/
  | set
  | barTeam
  | barRole
  | barTree (tag : Nat)
  /-- in the pool's queue of blocked claims (01 R18); the PC after its `rclaim` -/
  | claim (next : Word)
  /-- `wait.ctr` (12 R296): offset, target, the PC after it -/
  | counter (off target next : Word)
  /-- earlier requests to have their outcomes (02 R68, 01 R24) -/
  | drained
  /-- a fence of a scope (03 R83) -/
  | fence (scope : Scope)
  /-- the flush markers of a `fence.fab` (03 R85) -/
  | flush
  /-- the grant of a reservation (01 R23) -/
  | reserve
  /-- requests of the lane not yet sent (10 R231) -/
  | send
  /-- destination of an `ld.acq` (03 R84) -/
  | acquire
  /-- `crd.next` or `crd.split` in progress (12 R286, R287) -/
  | harvest
  /-- an absent dictionary (13 R310) -/
  | dict
  /-- `halt` of a firmware thread (12 R300) -/
  | firmware
  /-- the lanes before it, or after it, of an instruction whose lanes act one after another (10 R242, 12 R279) -/
  | fork
  /-- a resource of the core, tried again every cycle -/
  | retry
  deriving DecidableEq, Repr, Inhabited

/-- The state of a thread that holds a context (01 R39). A thread in flight, queued or overflowed is a frame, and an
exited thread holds nothing. A departing thread keeps its frame's address and the home that Migrate fixed (01 R24). -/
inductive TState where
  | none
  | ready
  | waiting (w : Wait)
  | departing (va : BitVec 64) (home : Home)
  | parked
  | halted (w : Option Wait)
  deriving DecidableEq, Repr, Inhabited

/-- The flush set of a thread (03 R85): other packages written to since its last `fence.fab`, the full mark, and the
markers sent and not yet acknowledged. -/
structure Flush where
  pkgs : List Nat
  full : Bool
  out : Option Nat
  deriving DecidableEq, Repr, Inhabited

/-- What a parked instruction was issued with (10 R248): lane registers, uniform registers, `$clk`. -/
structure Snap where
  regs : Tbl RegWord
  sregs : Tbl RegWord
  clk : DWord
  deriving DecidableEq, Repr, Inhabited

/-- A thread context (01 R7), with what the core keeps beside it. `group` is the uniform set and lane of a bound
thread; `resv` says that the units of 01 R23 are reserved; `acq` lists the destinations of an `ld.acq` not yet FULL;
`units` are the parked units that hold the thread, `kept` what a parked or ready thread goes on waiting for; `slot` is a
free thread's free slot (01 R8), `yld` says that its last issue carried the yield hint (08 R176); `priv` is the mode of 08 R190; `haltBy` is the cycle at which it halted, `atSafe` whether at a safe point (13 R312); `fork` is the issue of an instruction whose lanes
act one after another, and whether this lane has acted; `round` tells apart the runs between which the thread was parked (10 R249); `snap`
is what a replay of its instruction reads (10 R248); `read` holds the descriptor or record that its instruction has read, with the page
that denied it, while it waits on (04 R97, 12 R283, R288); `marks` lists the registers that were EMPTY or LOCKED at its halt (13 R313); `rets` holds what its
lane of an instruction whose lanes act one after another returns, written when all have acted (10 R248); `name` is the number by which
messages under way name the thread. -/
structure Thread where
  st : TState
  pc : Word
  regs : Tbl RegWord
  preds : BitVec 16
  pempty : BitVec 16
  principal : BitVec 12
  vf : BitVec 10
  khandle : BitVec 16
  depth : BitVec 4
  grid : Word
  vfPkg : BitVec 16
  priv : Bool
  sel : Sel
  group : Option (Nat × Nat)
  stamp : Nat
  srcCore : BitVec 9
  srcPkg : BitVec 16
  acq : List WRef
  flush : Flush
  resv : Bool
  denied : Bool
  seq : Nat
  units : List Nat
  kept : Option Wait
  haltBy : Option DWord
  atSafe : Bool
  fork : Option (Nat × Bool)
  slot : Option Nat
  yld : Bool
  round : Nat
  snap : Option Snap
  read : List Byte
  readDenied : Option DWord
  marks : List Nat
  rets : List (WRef × Word)
  name : Option Nat
  deriving DecidableEq, Repr, Inhabited

/-- A lane set being issued (01 R34): core, picker, contexts oldest first (ascending lane order for a group), the PC,
the number of the issue, the dictionary word of a short parcel, the parcels that the instruction takes, and whether
it is a set that 01 R12 releases. -/
structure Issue where
  core : Nat
  half : Nat
  lanes : List Nat
  pc : Word
  num : Nat
  word : Option (BitVec 96)
  len : Nat
  released : Bool
  deriving DecidableEq, Repr, Inhabited

/-! ## Groups and teams -/

/-- A group (01 R11). `pend` holds released sets that still wait (01 R12); `set` is its uniform set (02 R63), which `setGone` says lies in the
save area (20 R427); `marks` lists the uniform registers that were EMPTY or LOCKED at the halt (13 R313). A group is known by the number of its set
at admission, or by a number from 512 on where an evicted group keeps that one. -/
structure Group where
  live : Bool
  width : Nat
  team : Nat
  role : Nat
  num : Nat
  gx : Word
  gy : Word
  gz : Word
  budget : Nat
  members : List Nat
  exited : List Nat
  sregs : Tbl RegWord
  cursors : Tbl (Option Nat)
  arrTeam : Bool
  arrRole : Bool
  pend : List Issue
  claim : Option Nat
  set : Nat
  setGone : Bool
  marks : List Nat
  deriving DecidableEq, Repr, Inhabited

/-- An accumulator row (02 R62): 64 columns, and its poison. -/
structure AccRow where
  cols : Tbl Word
  poison : Bool
  deriving DecidableEq, Repr, Inhabited

/-- A release by `rgive` whose words are not all FULL yet (01 R17): group, old budget, new budget. -/
structure Release where
  gset : Nat
  hi : Nat
  lo : Nat
  deriving DecidableEq, Repr, Inhabited

/-- A resident team (01 R14). `sp` is the scratchpad, `spPoison` its poisoned 16-byte units, `claims` the blocked
claims oldest first (group, registers per thread); `rowNums` are its register rows; `spGone` and `accGone` name the blocks that lie in the save area, `rowsOut` counts the rows there (20
R427). -/
structure Team where
  live : Bool
  vf : Nat
  grid : Nat
  index : Word
  groups : List Nat
  khandle : BitVec 16
  param : BitVec 64
  data : BitVec 64
  sp : List Host.Cell
  spBlocks : Nat
  spPoison : List Nat
  spGone : List Nat
  acc : Tbl AccRow
  accBlocks : Nat
  accGone : List Nat
  poolRows : Nat
  rowNums : List Nat
  free : Nat
  claims : List (Nat × Nat)
  releases : List Release
  rowsOut : Nat
  deriving DecidableEq, Repr, Inhabited

/-! ## Requests (02 R52) -/

/-- Where a request stands: not yet sent (10 R231), on its way, performed, faulted, returned unperformed (10 R249), combined into another
one (03 R95), or an engine's read of a page that it may not read, with the page's class and size (02 R70). -/
inductive RStat where
  | unsent
  | sent
  | performed
  | faulted (t : Trap)
  | returned
  | merged (into : Nat)
  | denied (cls : BitVec 12) (size : Nat)
  deriving DecidableEq, Repr, Inhabited

/-- An access that a thread issued and that has not returned (02 R52, 10 R229). `issue` and `key` name its fault unit
(10 R246), `seq` its place in the thread's program order, `dst` the register it returns to, `top` whether its lane is
the highest active one (08 R187), `next` the PC after its instruction and `held` whether its thread still stands at it, `reps` the replicas
still to be written by an `mcst` (03 R93): package × 8 + die, plus 2^19 once sent to another package, `far` the identity
of a request that came from another package, `known` whether the issuing core has learnt of the request's outcome, `round` and `engine` those of the wire, `again` whether a replay redoes it (03 R96), `sector` the class and the
bytes of a read-only page's sector for another package (02 R57). -/
structure Req where
  id : Nat
  issue : Nat
  key : Nat
  core : Nat
  ctx : Nat
  lane : Nat
  seq : Nat
  vf : BitVec 10
  principal : BitVec 12
  khandle : BitVec 16
  grid : Word
  pc : Word
  next : Word
  held : Bool
  kind : AccKind
  va : BitVec 64
  size : Nat
  ty : Ty
  op : AtomOp
  data : BitVec 128
  expected : DWord
  tf : Bool
  hint : BitVec 2
  home : Home
  isLocal : Bool
  win : Bool
  dst : Option Reg
  top : Bool
  acq : Bool
  stat : RStat
  value : BitVec 128
  reps : List Nat
  far : Option (Nat × Nat × Nat)
  srcCore : BitVec 9
  srcPkg : BitVec 16
  known : Bool
  round : Nat
  engine : BitVec 2
  again : Bool
  sector : Option (BitVec 12 × List Byte)
  deriving DecidableEq, Repr, Inhabited

/-- A request of a thread of another package that faulted here or was returned behind one (10 R249): package, core and context of the
thread, its round, the request's number. -/
structure Turned where
  pkg : Nat
  core : Nat
  ctx : Nat
  round : Nat
  id : Nat
  deriving DecidableEq, Repr, Inhabited

/-- A sector on its way to a read-only cache slice (02 R57): slice, VF, sector number, class, bytes, hint, and for a host page the
host-physical address of its 1 KiB line. -/
structure Fill where
  slice : Nat
  vf : Nat
  sector : Nat
  cls : BitVec 12
  bytes : List Byte
  hint : BitVec 2
  host : Option Nat
  deriving DecidableEq, Repr, Inhabited

/-- A frame on its way (01 R25): destination package and core, the Ethernet port it came in by (16 inside the package), and whether
Arrive refused it, its link credit withheld (01 R31). -/
structure Flight where
  frame : Frame
  pkg : Nat
  core : Nat
  port : BitVec 8
  refused : Bool
  deriving DecidableEq, Repr, Inhabited

/-! ## Fault units (10 R246 to R250) -/

/-- How a replay resumes a parked unit: execute the instruction again at the parked PC, finish the kept requests, go on
after the instruction (`trap`, `brk`: PARKPC), submit the claim again (12 R291), go on with an engine's element (04 R108) or
a stream page of a cursor slot (05 R132), or decode again for the members that wait (05 R132). -/
inductive Resume where
  | reexec
  | requests
  | next
  | claim
  | element (core op elem : Nat)
  | stream (core slot : Nat)
  | harvest (core slot : Nat)
  | none
  deriving DecidableEq, Repr, Inhabited

/-- A parked fault unit, or an engine element that waits for the driver (04 R108): the number of its record, its
threads (lane, context), the lane sets of 10 R247, its kept requests and its replay buffer entry; `issue` is the issue of its
instruction, `tokens` the returns that wait in its buffer entry for its performed lanes (10 R248, 12 R281): context, register, word; `saved`
says that its entry was moved to the save area (10 R248). -/
structure FUnit where
  id : Nat
  seq : Option DWord
  vf : Nat
  core : Nat
  gset : Option Nat
  threads : List (Nat × Nat)
  trap : Trap
  origin : Nat
  pc : Word
  parkPc : Word
  performed : BitVec 64
  faulting : BitVec 64
  pending : BitVec 64
  active : BitVec 64
  buf : Option Nat
  reqs : List Req
  resume : Resume
  busy : Bool
  issue : Option Nat
  tokens : List (Nat × WRef × RegWord)
  saved : Bool := false
  due : Option Bool := none
  deriving DecidableEq, Repr, Inhabited

/-- A fault record that waits for room in the VF's queue (20 R419): its unit, VF, the core that holds it (none for the
grid scheduler), the 128 bytes without SEQ, and the cycle of the next retry. -/
structure Held where
  unit : Option Nat
  vf : Nat
  core : Option Nat
  bytes : List Byte
  retry : DWord
  deriving DecidableEq, Repr, Inhabited

/-! ## Engines -/

/-- A copy or gather operation (04 R97 to R108). `left` lists the elements (rows) not yet done, `stuck` those that wait
for the driver, `denied` the records appended, `deniedPages` the pages already recorded, `index` the list entries that rows under way have
read (04 R107). -/
structure CopyOp where
  id : Nat
  isGather : Bool
  ctx : Nat
  gset : Nat
  lane : Nat
  team : Nat
  issue : Nat
  seq : Nat
  vf : BitVec 10
  principal : BitVec 12
  khandle : BitVec 16
  grid : Word
  pc : Word
  desc : List Byte
  off : Word
  left : List Nat
  stuck : List Nat
  denied : Nat
  deniedPages : List Nat
  index : List (Nat × Nat)
  bytesLeft : Nat
  err : Option Cause
  tok : Option Nat
  deriving DecidableEq, Repr, Inhabited

/-- A spill or fill operation (04 R109, 12 R290): the words of its registers in order; `left` lists the tile units not yet
moved, `stuck` those that wait for the driver, `halves` those whose first 16 bytes are moved, with what was read, `lost` those that an error
left unmoved. -/
structure SpillOp where
  id : Nat
  isFill : Bool
  toSp : Bool
  ctx : Nat
  gset : Option Nat
  lane : Nat
  width : Nat
  issue : Nat
  seq : Nat
  vf : BitVec 10
  principal : BitVec 12
  khandle : BitVec 16
  grid : Word
  pc : Word
  tile : Nat
  n : Nat
  addr : BitVec 64
  words : List RegWord
  tok : Option Nat
  left : List Nat
  stuck : List Nat
  halves : List (Nat × Nat)
  lost : List Nat
  err : Option Cause
  denied : Nat
  deriving DecidableEq, Repr, Inhabited

/-- The matrix operations that join the queue (04 R110 to R114). -/
inductive MKind where
  | mma | mmaSp | mdist | mtopk | acz | acld | acst | accp | acsc
  deriving DecidableEq, Repr, Inhabited

/-- What one active lane hands to a matrix operation: lane, context, and the words of its operands, read when the
operation starts (A rows, metadata, tags) or when it is queued (the `mtopk` list). -/
structure MLane where
  lane : Nat
  ctx : Nat
  g0 : Word
  k : Nat
  a : List Word
  md : List Word
  deriving DecidableEq, Repr, Inhabited

/-- A queued or executing matrix operation. `bad` says that a register operand was poisoned when it was read (20 R433); `units` are the 16-byte units of its scratchpad operand read so far, with their bytes and poison,
or the units of its target written so far (11 R275). -/
structure MatOp where
  kind : MKind
  gset : Nat
  team : Nat
  vf : Nat
  ty : Ty
  flag : Bool
  var : Nat
  row : Nat
  row2 : Nat
  off : Nat
  n : Nat
  f : Word
  tile : Nat
  mdReg : Nat
  lanes : List MLane
  grid : Word
  bad : Bool
  tok : Nat
  reuseA : Bool
  reuseB : Bool
  start : Option DWord
  pc : Word
  units : List (Nat × List Byte × Bool)
  deriving DecidableEq, Repr, Inhabited

/-- A latch (04 R115): the group and the operand that it holds, as the first register or scratchpad byte and their number. -/
structure Latch where
  gset : Nat
  operand : Nat
  len : Nat
  deriving DecidableEq, Repr, Inhabited

/-- One stream of a cursor (05 R131). `unknown` marks positions after a denied page (05 R118). -/
structure Stream where
  baddr : BitVec 56
  idx : Nat
  left : Nat
  pos : Word
  unknown : Bool
  last : Word
  roff : Word
  new : Bool
  multi : Bool
  deriving DecidableEq, Repr, Inhabited

/-- An item of a cursor with its segment flags for EXPAND (05 R125, R127). -/
structure Item where
  c : Word
  a : Word
  b : Word
  segs : Bool
  sege : Bool
  deriving DecidableEq, Repr, Inhabited

/-- What a cursor has consumed (05 R126, R131). -/
structure CState where
  op : CrdOp
  a : Stream
  b : Stream
  cEnd : Word
  endAll : Bool
  knext : Word
  kend : Word
  rowStart : Word
  row : Word
  deriving DecidableEq, Repr, Inhabited

/-- A `crd.next` or `crd.split` in progress (12 R286, R287): issue, active lanes (lane, context), destinations. -/
inductive CrdBusy where
  | none
  | next (num : Nat) (lanes : List (Nat × Nat)) (d p : Nat) (pc : Word) (len : Nat)
  | split (num : Nat) (lanes : List (Nat × Nat)) (n i : Word) (pc : Word) (len : Nat)
  deriving DecidableEq, Repr, Inhabited

/-- A cursor slot (05 R123, R131). `look` is the look-ahead item with the state after it (05 R128); a `paused` cursor waits
for its VF's slot (05 R134), a `stuck` one for the driver (05 R132). Of the operation in progress, `got` holds the stream units read so
far (05 R133), `pages` the pages whose class was checked, with the class and denier of a denied one (05 R122): package and core, `begun` the
streams as they stand at the blocks whose decoding has begun (05 R134); `hint` is its locality hint (08 R176). -/
structure Cursor where
  live : Bool
  gset : Nat
  num : Nat
  vf : BitVec 10
  principal : BitVec 12
  khandle : BitVec 16
  grid : Word
  cur : CState
  look : Option (Item × CState)
  outNew : Bool
  lastOut : Word
  emitted : Word
  busy : CrdBusy
  paused : Bool
  stuck : Bool
  got : List (Nat × Nat)
  pages : List (Nat × Option (BitVec 12 × BitVec 16 × Nat))
  begun : List Stream
  hint : BitVec 2
  deriving DecidableEq, Repr, Inhabited

/-! ## Caches and evicted state -/

/-- A TLB entry (19 R396 to R398): VF, first page number, PTE, and the results of the owner checks made through it, one for each 64
KiB frame of the page that was touched (19 R396). -/
structure TlbEntry where
  vf : Nat
  page : Nat
  pte : DWord
  owned : Tbl Bool
  deriving DecidableEq, Repr, Inhabited

/-- A line of the read-only cache (02 R56): VF, line number, class, valid sectors with their bytes, the host-physical address of a
host page's line (18 R376), keep mark (08 R176), place in the replacement order. -/
structure RoLine where
  vf : Nat
  line : Nat
  cls : BitVec 12
  sectors : Tbl (List Byte)
  host : Option Nat
  keep : Bool
  age : Int
  deriving DecidableEq, Repr, Inhabited

/-- A loaded dictionary (13 R310): VF, handle, whether an instruction of the kernel has issued since the load, and the
count of the last issue. -/
structure Dict where
  vf : Nat
  handle : Nat
  used : Bool
  last : Nat
  deriving DecidableEq, Repr, Inhabited

/-- A slot of the overflow ring (01 R29). -/
structure Slot where
  frame : Frame
  num : DWord
  port : BitVec 8
  deriving DecidableEq, Repr, Inhabited

/-- A core (01 R8). `ringHead` is the overflow ring's slot of the oldest frame (01 R29); `maps` is its cache of 64-byte lines of allow maps (19 R411): (VF × 4,096 + principal) × 8 + line, bytes. -/
structure Core where
  ctxs : Tbl Thread
  groups : Tbl Group
  teams : Tbl Team
  teamWait : List (Nat × Nat)
  d0 : Nat
  d1 : Nat
  queue : List Slot
  overflow : List Slot
  ringHead : Nat
  arrSeq : DWord
  tlb : List TlbEntry
  ro : List RoLine
  roClk : Nat
  dicts : List Dict
  dictWant : List (Nat × Nat)
  khere : List (Nat × Nat)
  rbuf : Tbl (Option Nat)
  mq : List MatOp
  latchA : Option Latch
  latchB : Option Latch
  copies : List CopyOp
  spills : List SpillOp
  cursors : Tbl Cursor
  maps : List (Nat × List Byte)
  errIdx : Nat
  deriving DecidableEq, Repr, Inhabited

/-! ## Virtual devices, kernels, chains and grids -/

/-- A role entry (13 R306). -/
structure Role where
  entry : Word
  budget : Nat
  groups : Nat
  deriving DecidableEq, Repr, Inhabited

/-- A safe-point entry (13 R311). -/
structure SafePt where
  pc : Word
  slive : Word
  glive : DWord
  aclive : Word
  splive : BitVec 96
  deriving DecidableEq, Repr, Inhabited

/-- A registered kernel (13 R305 to R308). -/
structure Kernel where
  live : Bool
  image : BitVec 56
  data : BitVec 64
  princ : Nat
  widths : BitVec 4
  migratory : Bool
  code : List (BitVec 16)
  dict : List (BitVec 96)
  safe : List SafePt
  scratch : Nat
  acc : Nat
  reserve : Nat
  roles : List Role
  deriving DecidableEq, Repr, Inhabited

/-- A placement region (02 R47). -/
structure Region where
  base : Nat
  func : Nat
  grain : Bool
  win : Bool
  size : Nat
  nc : Nat
  core0 : Nat
  pstr : Nat
  npkg : Nat
  pkg0 : Nat
  cstr : Nat
  dieMask : BitVec 8
  share : Nat
  deriving DecidableEq, Repr, Inhabited

/-- A block of a chain that the scheduler has examined (18 R382, R384): sequence number, complete or not, interrupt
flag and vector. -/
structure Block where
  s : DWord
  done : Bool
  irq : Bool
  vec : Nat
  deriving DecidableEq, Repr, Inhabited

/-- Where the scheduler stands in a chain (18 R382): the block started whose NEXT it waits for, the blocks examined that DONE does not
cover yet, and whether the chain stopped (18 R386). -/
structure Chain where
  cur : Option (BitVec 56)
  blocks : List Block
  stopped : Bool
  deriving DecidableEq, Repr, Inhabited

/-- A grid (01 R20, R21, 18 R382): its block's values, the next team to place, and its counts. -/
structure Grid where
  id : Nat
  vf : Nat
  tag : Word
  chain : Nat
  s : DWord
  khandle : BitVec 16
  width : Nat
  order : Nat
  swz : Nat
  affinity : Bool
  pmode : Nat
  pdefault : BitVec 12
  princs : List (BitVec 12)
  affs : List (BitVec 56)
  gx : Nat
  gy : Nat
  gz : Nat
  param : BitVec 64
  ftcap : Nat
  roles : List Role
  next : Nat
  teams : Nat
  live : Nat
  free : Nat
  complete : Bool
  deriving DecidableEq, Repr, Inhabited

/-- A reservation that waits at the scheduler (01 R23): the thread's package, core and context, VF, grid, trapping
form. -/
structure Resv where
  pkg : Nat
  core : Nat
  ctx : Nat
  vf : Nat
  grid : Word
  tf : Bool
  deriving DecidableEq, Repr, Inhabited

/-- The answer to a reservation on its way to the issuing core (01 R23). -/
structure Grant where
  core : Nat
  ctx : Nat
  ok : Bool
  deriving DecidableEq, Repr, Inhabited

/-- A decrement message of an exit (01 R21): VF, grid tag, whether the grid count falls, whether free-thread units
return. -/
structure Decr where
  vf : Nat
  grid : Word
  count : Bool
  units : Bool
  deriving DecidableEq, Repr, Inhabited

/-- The registers and tables of a virtual device (19 R415, 20 R438, 13 R308). -/
structure Vf where
  enable : Bool
  vfrun : DWord
  regTab : BitVec 64
  regLoad : Word
  regs : Tbl Region
  roots : Tbl (BitVec 32)
  tlbq : Nat
  walkq : Nat
  ptSize : Nat
  ptDie : Tbl Word
  dlog : BitVec 64
  dlogK : Nat
  chainBase : BitVec 64
  faultQ : DWord
  ftCap : Nat
  ftLive : Nat
  cal : Word
  fqSeq : DWord
  fqStat : Nat
  save : Tbl Word
  rst : Bool
  rstRep : DWord
  kimg : BitVec 64
  kdata : BitVec 64
  kreg : Word
  kernels : Tbl Kernel
  irqLost : DWord
  chains : Tbl Chain
  nfStart : Nat
  deriving DecidableEq, Repr, Inhabited

/-! ## Partitions, windows, ports, power -/

/-- A Solstice route tag (19 R416, 12 R294): expected counts, arrivals as (core, group, round), the open round, and the
release times of completed rounds. -/
structure Tree where
  valid : Bool
  exp : Tbl Nat
  arrivals : List (Nat × Nat × Nat)
  round : Nat
  releases : List (Nat × DWord)
  deriving DecidableEq, Repr, Inhabited

/-- A partition (19 R388, 20 R422, R423). `outgoing` lists the VFs that a slot end takes out, with the cycle of their
forced halt (20 R425). -/
structure Part where
  s : Nat
  slots : Tbl Word
  cur : Nat
  start : Nat
  run : Bool
  idle : Bool
  slotWord : Word
  slotEnd : Option DWord
  outgoing : List (Nat × DWord)
  turn : Nat
  trees : Tbl Tree
  deriving DecidableEq, Repr, Inhabited

/-- The state of a window (19 R407). -/
inductive WinState where
  | closed | opening | isOpen | closing
  deriving DecidableEq, Repr, Inhabited

/-- A window (19 R407): its registers, page list (core × 32,768 + frame), and the command in progress. -/
structure Window where
  state : WinState
  ncons : Nat
  producer : Nat
  cons0 : DWord
  cons1 : DWord
  cons2 : DWord
  pages : List Nat
  cmd : Nat
  deriving DecidableEq, Repr, Inhabited

/-- An owner entry (19 R397). -/
structure Owner where
  hostOk : Bool
  rekey : Bool
  init : Bool
  key : Nat
  deriving DecidableEq, Repr, Inhabited

/-- A key slot (19 R406): whether its keys exist, and how often they were generated. -/
structure KeySlot where
  present : Bool
  gen : Nat
  deriving DecidableEq, Repr, Inhabited

/-- A counter block of a 4 KiB page (19 R402): MAJOR, the minor counter of each sector, and the version counter of its
level-1 tree child. -/
structure Ctr where
  major : Nat
  minor : Tbl Nat
  version : Nat
  deriving DecidableEq, Repr, Inhabited

/-- An Ethernet port (21 R439 to R441, R450). `unacked` holds sent packets with their retransmissions, `rxSeen` the
sequence numbers received per source port (package × 16 + port), `rxReqs` the received requests with their numbers in
`State.reqs`, `rxMarkers` the flush markers not yet acknowledged, `nextSeq` the next number per destination port; `queue` are the packets
that wait to leave, each with its entropy value where it is not taken in rotation, `spray` the next value of the rotation per destination
port (R439), `acks` the acknowledgements sent, each with its packet's source port and sequence number. -/
structure Port where
  cfg : DWord
  txPkt : DWord
  rxPkt : DWord
  reTx : DWord
  discard : DWord
  unreach : DWord
  away : List Nat
  nextSeq : Tbl Nat
  unacked : List (Packet × Nat)
  rxSeen : List (Nat × Nat)
  rxReqs : List (Nat × Nat × Nat)
  rxMarkers : List (Nat × Nat)
  queue : List (Packet × Option Nat)
  spray : Tbl Nat
  acks : List (Nat × Nat)
  deriving DecidableEq, Repr, Inhabited

/-- A router port (21 R443): class weights, LOWMAX, the cycle at which each low class's head packet began to wait, and
how often it was served ahead; for each group, 0 high and 1 low, the weights and LOWMAX of its round (`now`) and the class whose turn it
is, and for each class the bytes that it may still send. -/
structure Router where
  weights : DWord
  lowMax : Nat
  since : Tbl DWord
  served : Tbl Nat
  now : Tbl (DWord × Nat)
  turn : Tbl Nat
  deficit : Tbl Nat
  deriving DecidableEq, Repr, Inhabited

/-- The stages of the power-on sequence (21 R445). -/
inductive PowerStage where
  | off | dies | boot | running
  deriving DecidableEq, Repr, Inhabited

/-- Power, thermal state and the power-on sequence (21 R445 to R447); `hotSince` is the cycle from which 110 °C has been held. -/
structure Power where
  stage : PowerStage
  dies : Nat
  nextDie : DWord
  verified : List Nat
  fwMeas : List Byte
  cap : Nat
  now : Nat
  g : Nat
  overCap : Bool
  nextInterval : DWord
  therm : Bool
  temp : Nat
  gaps : DWord
  starts : Tbl (List DWord)
  hotSince : Option DWord
  deriving DecidableEq, Repr, Inhabited

/-- A self-test under way (20 R435), with the number of its error's record in the log (20 R437). -/
structure SelfTest where
  core : Nat
  unit : ErrUnit
  loc : BitVec 48
  good : Nat
  bad : Nat
  syndrome : DWord
  entry : Nat
  deriving DecidableEq, Repr, Inhabited

/-- What the device returned to the host. -/
inductive HostMsg where
  | readData (addr : Nat) (bytes : List Byte)
  | readPoison (addr : Nat)
  | writeDone (addr : Nat)
  | unsupported (vf off : Nat)
  | pageData (vf off : Nat) (data : DWord)
  | report (bytes : List Byte)
  deriving DecidableEq, Repr, Inhabited

/-- An MSI-X message: the function (none for the physical function, else the VF) and its vector. -/
structure Irq where
  vf : Option Nat
  vec : Nat
  deriving DecidableEq, Repr, Inhabited

/-- The package. `retList` is the retirement list applied at the start (21 R445, R448); `worn` are the frames retired because a counter would overflow, whose error records are still to be written (19 R404), `failed` the sectors that a read found bad, whose errors are still to be handled (19 R403); `waitIn` are host accesses held by a self-test (20 R434); `chosen` are the lane sets decided in this cycle that are not issued yet (01 R34); `tick`, `issues`, `events`, `inputs` and the `next…` numbers are the model's own (log 1): the counter of
the free choices, the lane sets being issued, the rest of this cycle's agenda, the inputs still to arrive (one list a
cycle) and the fresh numbers. -/
structure State where
  clk : DWord
  tick : Nat
  issues : List Issue
  chosen : List Issue
  events : List Instr
  inputs : List (List Instr)
  waitIn : List Instr
  nextReq : Nat
  nextUnit : Nat
  nextIssue : Nat
  cores : Tbl Core
  mem : List Host.Cell
  hostMem : List Host.Cell
  fabnum : BitVec 16
  fabtab : DWord
  vfs : Tbl Vf
  parts : Tbl Part
  octmap : Tbl (Option Nat)
  partpair : Tbl DWord
  fwctl : Tbl DWord
  fwdrop : Tbl DWord
  fwbounce : Tbl DWord
  owners : Tbl Owner
  enc : Tbl (Nat × Nat × Nat)
  keys : Tbl KeySlot
  ctrs : Tbl Ctr
  poison : List Nat
  retired : List Nat
  retList : List Nat
  worn : List Nat
  failed : List Nat
  windows : Tbl Window
  reqs : List Req
  turned : List Turned
  fills : List Fill
  flights : List Flight
  ports : Tbl Port
  routers : Tbl Router
  grids : List Grid
  nextTag : Word
  resvQ : List Resv
  grants : List Grant
  decs : List Decr
  units : List FUnit
  held : List Held
  tests : List SelfTest
  linkRetry : Tbl Nat
  power : Power
  hostDeny : DWord
  irqs : List Irq
  hostOut : List HostMsg
  deriving DecidableEq, Repr, Inhabited

/-- The package right after reset: the values of 21 R445 (PWRCAP 1,500 W) and 18 R382 (grid tags from 1), everything
else as `INVENTORY.md` lists it: empty tables, whose entries read as the accessors' defaults. -/
def State.reset : State :=
  { (default : State) with
    nextTag := 1#32
    power := { (default : Power) with cap := 1500 } }

end Sys2Proof.Machine
end

