-- ==== Sys2Proof/Machine/Table.lean ====
section
/-! DEFINITION. Sparse tables and byte memories as plain lists in canonical form, and numbers as little-endian bytes. -/

namespace Sys2Proof.Machine

/-! ## Sparse tables -/

/-- The entry of an index, or the default. -/
def Tbl.get {α : Type} (d : α) : Tbl α → Nat → α
  | [], _ => d
  | e :: t, i => if e.1 = i then e.2 else Tbl.get d t i

/-- The table with one entry set; indexes stay in rising order. -/
def Tbl.set {α : Type} : Tbl α → Nat → α → Tbl α
  | [], i, v => [(i, v)]
  | e :: t, i, v =>
    if i < e.1 then (i, v) :: e :: t
    else if e.1 = i then (i, v) :: t
    else e :: Tbl.set t i v

/-- The table without an index. -/
def Tbl.del {α : Type} (t : Tbl α) (i : Nat) : Tbl α := t.filter fun e => e.1 != i

/-- An index is listed. -/
def Tbl.has {α : Type} (t : Tbl α) (i : Nat) : Bool := t.any fun e => e.1 == i

/-! ## Byte memories -/

/-- What an unlisted address reads as (logs 6 and 7). -/
def Mem.blank : Byte := 0

/-- The byte at an address. -/
def Mem.get : List Host.Cell → Nat → Byte
  | [], _ => Mem.blank
  | c :: m, a => if c.1 = a then c.2 else Mem.get m a

/-- The memory with a byte that is not blank put at an address. -/
def Mem.put : List Host.Cell → Nat → Byte → List Host.Cell
  | [], a, b => [(a, b)]
  | c :: m, a, b =>
    if a < c.1 then (a, b) :: c :: m
    else if c.1 = a then (a, b) :: m
    else c :: Mem.put m a b

/-- The memory with one byte written; a blank byte is not listed. -/
def Mem.set (m : List Host.Cell) (a : Nat) (b : Byte) : List Host.Cell :=
  if b = Mem.blank then m.filter fun c => c.1 != a else Mem.put m a b

/-- `n` bytes from an address. -/
def Mem.read (m : List Host.Cell) : Nat → Nat → List Byte
  | _, 0 => []
  | a, n + 1 => Mem.get m a :: Mem.read m (a + 1) n

/-- Bytes written from an address. -/
def Mem.write (m : List Host.Cell) : Nat → List Byte → List Host.Cell
  | _, [] => m
  | a, b :: bs => Mem.write (Mem.set m a b) (a + 1) bs

/-- A range of addresses made blank. -/
def Mem.clear (m : List Host.Cell) (a n : Nat) : List Host.Cell :=
  m.filter fun c => !(a ≤ c.1 && c.1 < a + n)

/-- Every address of a memory lies above a bound, in rising order, and no byte is blank. -/
def Mem.wfAbove : List Host.Cell → Nat → Bool
  | [], _ => true
  | c :: m, lo => lo ≤ c.1 && c.2 != Mem.blank && Mem.wfAbove m (c.1 + 1)

/-- The canonical form of a memory: addresses strictly rising, no byte equal to what an unlisted address reads as. -/
def Memory.wf (m : List Host.Cell) : Bool := Mem.wfAbove m 0

/-! ## Numbers as bytes (00 R4: little-endian) -/

/-- The number of a byte list, the first byte least significant. -/
def leNat : List Byte → Nat
  | [] => 0
  | b :: bs => b.toNat + 256 * leNat bs

/-- `n` bytes of a number, the least significant first. -/
def leBytes : Nat → Nat → List Byte
  | 0, _ => []
  | n + 1, v => BitVec.ofNat 8 v :: leBytes n (v / 256)

/-- `n` bytes read as a number. -/
def Mem.readNat (m : List Host.Cell) (a n : Nat) : Nat := leNat (Mem.read m a n)

/-- Bits `lo` to `lo + len − 1` of a number. -/
def bits (v lo len : Nat) : Nat := v / 2 ^ lo % 2 ^ len

/-- Bit `i` of a number as 0 or 1. -/
def bitN (b : Bool) (i : Nat) : Nat := if b then 2 ^ i else 0

/-- A little-endian field of a byte list: `n` bytes at an offset. -/
def fieldAt (bs : List Byte) (off n : Nat) : Nat := leNat ((bs.drop off).take n)

/-- A list with the first `n` elements that satisfy a test. -/
def takeN {α : Type} (n : Nat) (p : α → Bool) (l : List α) : List α := (l.filter p).take n

/-- The least index of a range that a test accepts. -/
def leastFree (n : Nat) (p : Nat → Bool) : Option Nat := (List.range n).find? p

/-- A mask with the bits of a list of lanes. -/
def maskOf (lanes : List Nat) : BitVec 64 :=
  lanes.foldl (fun m l => m ||| BitVec.twoPow 64 l) 0

end Sys2Proof.Machine
end

