-- ==== Sys2Proof/Machine/Ops.lean ====
section
/-! DEFINITION. The named operations over the state's tables: cores, contexts, groups, teams, virtual devices, registers
and predicates. Every read and write of a register goes through here. -/

namespace Sys2Proof.Machine

/-! ## Tables of the package -/

/-- A core (01 R8). -/
def State.core (s : State) (c : Nat) : Core := Tbl.get default s.cores c

/-- The state with a core replaced. -/
def State.setCore (s : State) (c : Nat) (v : Core) : State := { s with cores := Tbl.set s.cores c v }

/-- The state with a core changed. -/
def State.modCore (s : State) (c : Nat) (f : Core → Core) : State := s.setCore c (f (s.core c))

/-- A thread context. -/
def State.thread (s : State) (c x : Nat) : Thread := Tbl.get default (s.core c).ctxs x

/-- The state with a context replaced. -/
def State.setThread (s : State) (c x : Nat) (t : Thread) : State :=
  s.modCore c fun k => { k with ctxs := Tbl.set k.ctxs x t }

/-- The state with a context changed. -/
def State.modThread (s : State) (c x : Nat) (f : Thread → Thread) : State :=
  s.setThread c x (f (s.thread c x))

/-- A group, by its uniform set. -/
def State.group (s : State) (c g : Nat) : Group := Tbl.get default (s.core c).groups g

/-- The state with a group replaced. -/
def State.setGroup (s : State) (c g : Nat) (v : Group) : State :=
  s.modCore c fun k => { k with groups := Tbl.set k.groups g v }

/-- The state with a group changed. -/
def State.modGroup (s : State) (c g : Nat) (f : Group → Group) : State :=
  s.setGroup c g (f (s.group c g))

/-- A resident team. -/
def State.team (s : State) (c t : Nat) : Team := Tbl.get default (s.core c).teams t

/-- The state with a team changed. -/
def State.modTeam (s : State) (c t : Nat) (f : Team → Team) : State :=
  s.modCore c fun k => { k with teams := Tbl.set k.teams t (f (Tbl.get default k.teams t)) }

/-- A virtual device with nothing written to its registers; the least legal quotas and log size (log 5). -/
def Vf.blank : Vf := { (default : Vf) with tlbq := 1, walkq := 1, dlogK := 6 }

/-- A virtual device. -/
def State.vf (s : State) (v : Nat) : Vf := Tbl.get Vf.blank s.vfs v

/-- The state with a virtual device changed. -/
def State.modVf (s : State) (v : Nat) (f : Vf → Vf) : State :=
  { s with vfs := Tbl.set s.vfs v (f (s.vf v)) }

/-- A partition with nothing written: S = 1 MiB (log 5). -/
def Part.blank : Part := { (default : Part) with s := 1 }

/-- A partition. -/
def State.part (s : State) (p : Nat) : Part := Tbl.get Part.blank s.parts p

/-- The state with a partition changed. -/
def State.modPart (s : State) (p : Nat) (f : Part → Part) : State :=
  { s with parts := Tbl.set s.parts p (f (s.part p)) }

/-- The partition of an octant (19 R388). -/
def State.partOfOctant (s : State) (o : Nat) : Option Nat := Tbl.get none s.octmap o

/-- The partition of a core. -/
def State.partOf (s : State) (c : Nat) : Option Nat := s.partOfOctant (c / 8)

/-- A window. -/
def State.window (s : State) (w : Nat) : Window :=
  Tbl.get ⟨.closed, 0, 0, 0, 0, 0, [], 0⟩ s.windows w

/-- The state with a window changed. -/
def State.modWindow (s : State) (w : Nat) (f : Window → Window) : State :=
  { s with windows := Tbl.set s.windows w (f (s.window w)) }

/-- An Ethernet port. -/
def State.port (s : State) (p : Nat) : Port := Tbl.get default s.ports p

/-- The state with a port changed. -/
def State.modPort (s : State) (p : Nat) (f : Port → Port) : State :=
  { s with ports := Tbl.set s.ports p (f (s.port p)) }

/-- A router port with the least legal weights and LOWMAX (log 5). -/
def Router.blank : Router := { (default : Router) with weights := 0x0101010101010101#64, lowMax := 256 }

/-- A router port. -/
def State.router (s : State) (p : Nat) : Router := Tbl.get Router.blank s.routers p

/-- The state with a router port changed. -/
def State.modRouter (s : State) (p : Nat) (f : Router → Router) : State :=
  { s with routers := Tbl.set s.routers p (f (s.router p)) }

/-- A registered kernel of a VF; handle 0 is never registered (13 R308). -/
def State.kernel (s : State) (v h : Nat) : Kernel := Tbl.get default (s.vf v).kernels h

/-! ## Threads and groups -/

/-- A free thread's budget is 16 (01 R9); a bound thread has its group's. -/
def State.budget (s : State) (c : Nat) (t : Thread) : Nat :=
  match t.group with
  | some g => (s.group c g.1).budget
  | none => 16

/-- The picker half of a context (01 R8). -/
def halfOf (x : Nat) : Nat := x % 2

/-- The decision count of a picker (01 R34). -/
def Core.count (k : Core) (half : Nat) : Nat := if half = 0 then k.d0 else k.d1

/-- The age stamp of a thread that becomes ready now (01 R34): this cycle's decisions are made, since the picks come first in a
cycle; `yield` is the hint of 08 R176. -/
def State.stampAt (s : State) (c x : Nat) (yield : Bool) : Nat :=
  (s.core c).count (halfOf x) + if yield then 64 else 0

/-- The thread becomes ready with a stamp of now; one issued with the yield hint takes that hint's stamp, also after a wait. -/
def State.ready (s : State) (c x : Nat) (yield : Bool := false) : State :=
  s.modThread c x fun t => { t with st := .ready, stamp := s.stampAt c x (yield || t.yld) }

/-- The thread becomes ready with a wait that it goes back to when it is next picked (01 R40). -/
def State.holdReady (s : State) (c x : Nat) (w : Option Wait) : State :=
  (s.modThread c x fun t => { t with kept := w }).ready c x

/-- The thread waits. -/
def State.waits (s : State) (c x : Nat) (w : Wait) : State :=
  s.modThread c x fun t => { t with st := .waiting w }

/-- The thread stands at a PC with nothing kept of an instruction before it. -/
def Thread.moveTo (t : Thread) (pc : Word) : Thread := { t with pc := pc, snap := none, read := [], readDenied := none }

/-- A thread completes its instruction: its next PC, ready. -/
def State.goesOn (s : State) (c x : Nat) (pc : Word) (yield : Bool := false) : State :=
  (s.modThread c x fun t => t.moveTo pc).ready c x yield

/-! ## Register words (02 R63 to R67) -/

/-- A register word at admission: zero and FULL (02 R66). -/
def RegWord.zero : RegWord := ⟨0, .full, false, none⟩

/-- A FULL word with a value. -/
def RegWord.ofVal (v : Word) : RegWord := ⟨v, .full, false, none⟩

/-- The words of a thread's lane registers. -/
def Thread.reg (t : Thread) (n : Nat) : RegWord := Tbl.get RegWord.zero t.regs n

/-- The thread with a register word replaced. -/
def Thread.setReg (t : Thread) (n : Nat) (w : RegWord) : Thread :=
  { t with regs := Tbl.set t.regs n w }

/-- The words of a group's uniform registers. -/
def Group.sreg (g : Group) (n : Nat) : RegWord := Tbl.get RegWord.zero g.sregs n

/-- A predicate of a thread; p0 reads true (01 R7). -/
def Thread.pred (t : Thread) (n : Nat) : Bool := n == 0 || t.preds.getLsbD n

/-- A predicate is EMPTY; p0 never is (02 R66). -/
def Thread.predEmpty (t : Thread) (n : Nat) : Bool := n != 0 && t.pempty.getLsbD n

/-- Bit `n` of a mask set to a value. -/
def setBit16 (m : BitVec 16) (n : Nat) (b : Bool) : BitVec 16 :=
  if b then m ||| BitVec.twoPow 16 n else m &&& ~~~ BitVec.twoPow 16 n

/-- The thread with a predicate written and FULL; a write to p0 is discarded (08 R187). -/
def Thread.setPred (t : Thread) (n : Nat) (b : Bool) : Thread :=
  if n = 0 then t
  else { t with preds := setBit16 t.preds n b, pempty := setBit16 t.pempty n false }

/-- The thread with a predicate EMPTY. -/
def Thread.emptyPred (t : Thread) (n : Nat) : Thread :=
  if n = 0 then t else { t with pempty := setBit16 t.pempty n true }

/-- A word with the value that a replay keeps for it (10 R248): that of the word as it was FULL at the park. -/
def RegWord.keep (w : RegWord) (old : RegWord) : RegWord := if old.st = .full then { w with val := old.val } else w

/-- A register word that an operand names: a lane register of the thread, or a uniform register of its group, with the value that a
replay of the instruction keeps. A predicate has no word. -/
def State.word (s : State) (c : Nat) (t : Thread) : WRef → RegWord
  | .g n =>
    match t.snap with
    | some k => (t.reg n).keep (Tbl.get RegWord.zero k.regs n)
    | none => t.reg n
  | .s n =>
    match t.group, t.snap with
    | some g, some k => ((s.group c g.1).sreg n).keep (Tbl.get RegWord.zero k.sregs n)
    | some g, none => (s.group c g.1).sreg n
    | none, _ => RegWord.zero
  | .p _ => RegWord.zero

/-- A latch holds one of n registers or bytes from a place on. -/
def Latch.holds (l : Latch) (lo n : Nat) : Bool := lo < l.operand + l.len && l.operand < lo + n

/-- A write to a register of a group that latch A holds releases it (04 R115). -/
def State.releaseA (s : State) (c n : Nat) (group : Option (Nat × Nat)) : State :=
  match group with
  | none => s
  | some g => s.modCore c fun k => { k with latchA := k.latchA.filter fun l => !(l.gset == g.1 && l.holds n 1) }

/-- The state with a register word or predicate of a context replaced; a value for a thread that has exited is discarded
(02 R68). -/
def State.setWord (s : State) (c x : Nat) (r : WRef) (w : RegWord) : State :=
  if (s.thread c x).st = .none then s
  else
  match r with
  | .g n => (s.modThread c x fun t => t.setReg n w).releaseA c n (s.thread c x).group
  | .s n =>
    match (s.thread c x).group with
    | some g => s.modGroup c g.1 fun k => { k with sregs := Tbl.set k.sregs n w }
    | none => s
  | .p n => s.modThread c x fun t => t.setPred n (w.val.getLsbD 0)

/-- The value of a reference as an instruction writes it. -/
def State.writeWord (s : State) (c x : Nat) (r : WRef) (v : Word) : State :=
  s.setWord c x r (RegWord.ofVal v)

/-- A reference is EMPTY. -/
def State.isEmpty (s : State) (c : Nat) (t : Thread) (r : WRef) : Bool :=
  match r with
  | .p n => t.predEmpty n
  | _ => (s.word c t r).st == .empty

/-- A reference is FULL. -/
def State.isFull (s : State) (c : Nat) (t : Thread) (r : WRef) : Bool :=
  match r with
  | .p n => !t.predEmpty n
  | _ => (s.word c t r).st == .full

/-- A word made EMPTY; its value stays until the producer writes it. -/
def State.emptyWord (s : State) (c x : Nat) (r : WRef) : State :=
  match r with
  | .p n => s.modThread c x fun t => t.emptyPred n
  | _ => s.setWord c x r { s.word c (s.thread c x) r with st := .empty, token := none }

/-- A word LOCKED by one more queued read (02 R67). -/
def lockState : WState → WState
  | .locked n => .locked (n + 1)
  | _ => .locked 1

/-- A word released by one queued read. -/
def unlockState : WState → WState
  | .locked (n + 2) => .locked (n + 1)
  | .locked _ => .full
  | w => w

/-- The state with a lane register's word state changed. -/
def State.modRegSt (s : State) (c x n : Nat) (f : WState → WState) : State :=
  if (s.thread c x).st = .none then s
  else s.modThread c x fun t => t.setReg n { t.reg n with st := f (t.reg n).st }

/-- Every word a thread owns is FULL, and every predicate (02 R68). -/
def State.allFull (s : State) (c : Nat) (t : Thread) (preds : Bool) : Bool :=
  (List.range (s.budget c t)).all (fun n => (t.reg n).st == .full) &&
    (!preds || t.pempty == 0)

/-! ## Fresh numbers -/

/-- The number of the cycle as the free choices see it (log 1). -/
def State.ticked (s : State) : State := { s with tick := s.tick + 1 }

end Sys2Proof.Machine
end

