-- ==== Sys2Proof/Machine/Place.lean ====
section
/-! DEFINITION. Placement and translation: homes (02 R46 to R51, R451), partitions (19 R388 to R390), page tables and
the owner check (19 R393 to R397), physical memory with its keys and counters (19 R400 to R406), permission classes
(02 R69). -/

namespace Sys2Proof.Machine

/-! ## Traps -/

/-- A trap with an address. -/
def trapAt (c : Cause) (kind : Nat) (a : Nat) : Trap := ⟨c, kind, BitVec.ofNat 64 a, 0⟩

/-- A trap without an address. -/
def trapOf (c : Cause) (kind : Nat := 0) : Trap := ⟨c, kind, 0, 0⟩

/-- The code of a cause (12 R301). -/
def Cause.code : Cause → Nat
  | .illegalOp => 1 | .regRange => 2 | .emptyRead => 3 | .unboundLaneop => 4 | .pageFault => 5
  | .prot => 6 | .permWrite => 7 | .align => 8 | .poison => 9 | .replicaStore => 10
  | .windowClosed => 11 | .firewall => 12 | .crdUnsorted => 13 | .crdFormat => 14 | .cvtTag => 15
  | .mmaMeta => 16 | .accRange => 17 | .spawnDepth => 18 | .spawnLimit => 19 | .teamDeadlock => 20
  | .engineReset => 21 | .swTrap => 22 | .breakpoint => 23 | .priv => 24

/-- The cause of a code (12 R301). -/
def Cause.ofCode (n : Nat) : Option Cause :=
  [Cause.illegalOp, .regRange, .emptyRead, .unboundLaneop, .pageFault, .prot, .permWrite, .align,
   .poison, .replicaStore, .windowClosed, .firewall, .crdUnsorted, .crdFormat, .cvtTag, .mmaMeta,
   .accRange, .spawnDepth, .spawnLimit, .teamDeadlock, .engineReset, .swTrap, .breakpoint,
   .priv].find? fun c => c.code == n

/-! ## Homes -/

/-- The die of a core (02 R46). -/
def dieOf (c : Nat) : Nat := c / 64

/-- The distance between two dies of a package (02 R46). -/
def dieDist (a b : Nat) : Nat :=
  ((a / 4 : Int) - (b / 4 : Int)).natAbs + ((a % 4 : Int) - (b % 4 : Int)).natAbs

/-- A region covers an address. -/
def Region.covers (g : Region) (a : Nat) : Bool :=
  g.func != 0 && g.base ≤ a && a < g.base + 65536 * g.size

/-- The region that governs an address: the lowest-numbered valid one (02 R49). -/
def State.regionOf (s : State) (v a : Nat) : Option Region :=
  ((s.vf v).regs.find? fun e => e.2.covers a).map fun e => e.2

/-- The region is replicated (02 R47). -/
def Region.replicated (g : Region) : Bool := g.func == 4
/-- The region is host memory (02 R47). -/
def Region.isHost (g : Region) : Bool := g.func == 5

/-- The packages of a replicated region (02 R48). -/
def Region.pkgs (g : Region) : List Nat := (List.range g.npkg).map fun j => g.pkg0 + j * g.pstr

/-- The replica dies of a package, in rising order. -/
def Region.dies (g : Region) : List Nat := (List.range 8).filter fun d => g.dieMask.getLsbD d

/-- A die for a region without replica dies (log 66). -/
def emptyDie : Nat := Config.noReplicaDie % 8

/-- NearestReplicaDie (02 R50), seen from a core of package `me`. -/
def Region.nearest (g : Region) (me c : Nat) : Nat × Nat :=
  if g.pkgs.contains me then
    if g.dies.contains (dieOf c) then (me, dieOf c)
    else
      let best := g.dies.foldl (fun m d => Nat.min m (dieDist (dieOf c) d)) 1000
      (me, ((g.dies.find? fun d => dieDist (dieOf c) d == best).getD emptyDie))
  else (g.pkg0, g.dies.headD emptyDie)

/-- The home of a package and core as this package sees it. -/
def State.homeAt (s : State) (pkg core : Nat) : Home :=
  if pkg = s.fabnum.toNat then .core core else .far pkg core

/-- HomeOf (02 R49), with the region. The address lies below 2^56. -/
def State.homeOf (s : State) (v a c : Nat) : Except Trap (Region × Home) :=
  match s.regionOf v a with
  | none => .error (trapAt .pageFault 2 a)
  | some g =>
    let off := a - g.base
    let member := fun (k : Nat) =>
      s.homeAt (g.pkg0 + k / g.nc * g.pstr) (g.core0 + k % g.nc * g.cstr)
    match g.func with
    | 1 =>
      let k := off / (65536 * g.share)
      if k ≥ g.nc * g.npkg then .error (trapAt .pageFault 3 a) else .ok (g, member k)
    | 2 => .ok (g, member (off / (if g.grain then 2097152 else 65536) % (g.nc * g.npkg)))
    | 3 => .ok (g, s.homeAt g.pkg0 g.core0)
    | 5 => .ok (g, .host)
    | _ =>
      let d := g.nearest s.fabnum.toNat c
      .ok (g, s.homeAt d.1 (64 * d.2 + off / 65536 % 64))

/-- The homes of every replica of an address, the primary one first (03 R93). -/
def State.replicaHomes (s : State) (g : Region) (a : Nat) : List Home :=
  let c := (a - g.base) / 65536 % 64
  g.pkgs.flatMap fun p => g.dies.map fun d => s.homeAt p (64 * d + c)

/-! ## Partitions -/

/-- MayRun of a VF in a partition of this package (19 R390). -/
def State.mayRun (s : State) (v : Nat) (p : Option Nat) : Bool :=
  match p with
  | some n => (s.vf v).vfrun.getLsbD n
  | none => false

/-- MayRun of a VF at a partition of another package: some PARTPAIR entry of a partition of VFRUN names it (19 R390). -/
def State.mayRunPair (s : State) (v pkg part : Nat) : Bool :=
  (List.range 64).any fun q =>
    (s.vf v).vfrun.getLsbD q && (List.range 4).any fun j =>
      let e := Tbl.get (0 : DWord) s.partpair (4 * q + j)
      e.getLsbD 63 && (e.extractLsb' 0 16).toNat == pkg && (e.extractLsb' 16 6).toNat == part

/-- MayRun at a home. Of another package, some PARTPAIR entry of a partition of VFRUN names it and the partition of the home there (log
12). -/
def State.mayRunAt (s : State) (v : Nat) (h : Home) : Bool :=
  match h with
  | .core c => s.mayRun v (s.partOf c)
  | .host => true
  | .far p d => s.mayRunPair v p (Config.farPart p (d / 8))

/-! ## Firewalls (19 R391, R392) -/

/-- The column of a core among the columns of all dies (02 R46). -/
def colOf (c : Nat) : Nat := 8 * (dieOf c % 4) + c % 8

/-- The row of a core among the rows of all dies. -/
def rowOfCore (c : Nat) : Nat := 8 * (dieOf c / 4) + c / 8 % 8

/-- The core at a column and a row. -/
def coreAt (x y : Nat) : Nat := 64 * (4 * (y / 8) + x / 8) + 8 * (y % 8) + x % 8

/-- The numbers passed from one to another, each with the next. -/
def stepsOf (a b : Nat) : List (Nat × Nat) :=
  if a ≤ b then (List.range (b - a)).map fun i => (a + i, a + i + 1) else (List.range (a - b)).map fun i => (a - i, a - i - 1)

/-- The steps of traffic from core to core, each with its router port: along the columns first, then along the rows (log 16). Between dies
the port is UCIe. -/
def routeOf (src dst : Nat) : List (Nat × Nat × Nat) :=
  let y := rowOfCore src
  let x := colOf dst
  ((stepsOf (colOf src) x).map fun e =>
    (coreAt e.1 y, coreAt e.2 y, if e.1 / 8 = e.2 / 8 then (if e.1 < e.2 then 1 else 3) else 5)) ++
  (stepsOf y (rowOfCore dst)).map fun e =>
    (coreAt x e.1, coreAt x e.2, if e.1 / 8 = e.2 / 8 then (if e.1 < e.2 then 0 else 2) else 5)

/-- Two cores lie in different partitions, or on an unassigned octant (19 R391). -/
def State.parted (s : State) (a b : Nat) : Bool := s.partOf a != s.partOf b || (s.partOf a).isNone || (s.partOf b).isNone

/-- The router port of an Ethernet port (log 71). -/
def ethRouter (p : Nat) : Nat := 8 * (64 * (p / 2) + p % 2) + 6

/-- The core whose router an Ethernet port stands at (log 71). -/
def ethCore (p : Nat) : Nat := 64 * (p / 2) + p % 2

/-- What lies beyond a router port for traffic that crosses it: a core's router of this package, or a package and the core there that
the traffic is for. -/
inductive Side where
  | core (c : Nat)
  | pkg (p d : Nat)
  deriving DecidableEq, Repr

/-- A crossing of a router port: the port, whether the traffic leaves its router there, and the router or package that the traffic comes to. -/
structure Crossing where
  port : Nat
  out : Bool
  side : Side
  deriving DecidableEq, Repr

/-- The router port that faces another one: across a die, or the UCIe port of the next die. -/
def facing (d : Nat) : Nat := if d < 4 then (d + 2) % 4 else d

/-- The port crossings of one step of a route: out of a router, into the next. -/
def crossStep (e : Nat × Nat × Nat) : List Crossing :=
  [⟨8 * e.1 + e.2.2, true, .core e.2.1⟩, ⟨8 * e.2.1 + facing e.2.2, false, .core e.2.1⟩]

/-- The port crossings of traffic from core to core, in order (19 R391; log 16). -/
def crossings (src dst : Nat) : List Crossing := (routeOf src dst).flatMap crossStep

/-- The port crossings of traffic from a core to another package by an Ethernet port. -/
def crossOut (src port pkg dst : Nat) : List Crossing := crossings src (ethCore port) ++ [⟨ethRouter port, true, .pkg pkg dst⟩]

/-- The port crossings of traffic from another package, which came in by an Ethernet port, to a core. -/
def crossIn (port dst : Nat) : List Crossing := ⟨ethRouter port, false, .core (ethCore port)⟩ :: crossings (ethCore port) dst

/-- The cores beyond a router port of this package. -/
def beyond (q : Nat) : List Nat :=
  let x := colOf (q / 8)
  let y := rowOfCore (q / 8)
  match q % 8 with
  | 0 => if y % 8 < 7 then [coreAt x (y + 1)] else []
  | 1 => if x % 8 < 7 then [coreAt (x + 1) y] else []
  | 2 => if 0 < y % 8 then [coreAt x (y - 1)] else []
  | 3 => if 0 < x % 8 then [coreAt (x - 1) y] else []
  | 5 => (if x % 8 = 7 ∧ x < 31 then [coreAt (x + 1) y] else []) ++ (if x % 8 = 0 ∧ 0 < x then [coreAt (x - 1) y] else []) ++
      (if y = 7 then [coreAt x 8] else []) ++ (if y = 8 then [coreAt x 7] else [])
  | _ => []

/-- What firmware writes to FWCTL of a port, from OCTMAP and PARTPAIR (19 R391, R392): a port whose sides differ filters, and lets
management traffic pass. -/
def State.fwDerived (s : State) (q : Nat) : DWord :=
  let near := (s.partOf (q / 8)).getD 0
  let on := 2 ^ 63 + 2 ^ 61 + 2 ^ 8 * near
  if q % 8 = 6 then
    if q / 8 % 64 < 2 then
      let e := ((List.range 4).map fun j => Tbl.get (0 : DWord) s.partpair (4 * near + j)).find? fun e => e.getLsbD 63
      BitVec.ofNat 64 (on + 2 ^ 22 + 2 ^ 16 * ((e.map fun e => (e.extractLsb' 16 6).toNat).getD 0))
    else 0
  else if q % 8 = 4 then
    if (s.partOf (q / 8)).isNone then BitVec.ofNat 64 on else 0
  else
    match (beyond q).find? fun c => s.parted (q / 8) c with
    | none => 0
    | some c => BitVec.ofNat 64 (on + 2 ^ 16 * (s.partOf c).getD 0)

/-- FWCTL of a port: what firmware derives, until the register is written. -/
def State.fwOf (s : State) (q : Nat) : DWord := if Tbl.has s.fwctl q then Tbl.get 0 s.fwctl q else s.fwDerived q

/-- Firmware writes FWCTL again after a change of OCTMAP or PARTPAIR (19 R391); PASSWIN and PASSMGMT stand. -/
def State.reFw (s : State) : State :=
  let pass : DWord := 0x6000000000000000#64
  { s with fwctl := s.fwctl.map fun e => (e.1, (e.2 &&& pass) ||| (s.fwDerived e.1 &&& ~~~ pass)) }

/-- The partition beyond a crossing: FARPART of a port that the traffic leaves by, NEARPART of one that it comes in by, where FWCTL was
written; else what OCTMAP says; an unassigned octant is of no partition (19 R392; log 16). -/
def State.sideOf (s : State) (q : Nat) (out : Bool) (c : Nat) : Option Nat :=
  if (s.partOf c).isNone then none
  else if Tbl.has s.fwctl q then some (bits (s.fwOf q).toNat (if out then 16 else 8) 6)
  else s.partOf c

/-- MayRun holds beyond a crossing (19 R390 to R392). An Ethernet port of derived FWCTL lies before the partition of the
core that the traffic is for, a written one with FARREMOTE before FARPART of that package. -/
def State.mayPass (s : State) (v : Nat) (x : Crossing) : Bool :=
  match x.side with
  | .core c => s.mayRun v (s.sideOf x.port x.out c)
  | .pkg p d =>
    let w := s.fwOf x.port
    if Tbl.has s.fwctl x.port then
      if w.getLsbD 22 then s.mayRunPair v p (bits w.toNat 16 6) else s.mayRun v (some (bits w.toNat 16 6))
    else s.mayRunAt v (.far p d)

/-- A crossing is filtered: the port's ENABLE is set, the VF may not run beyond, and it is no window read that passes (19 R391). -/
def State.fwStops (s : State) (v : Nat) (winRead : Bool) (x : Crossing) : Bool :=
  let w := s.fwOf x.port
  w.getLsbD 63 && !s.mayPass v x && !(winRead && w.getLsbD 62)

/-- The first port on a way that keeps traffic of a VF back (19 R391). -/
def State.wallOn (s : State) (v : Nat) (winRead : Bool) (way : List Crossing) : Option Nat :=
  (way.find? (s.fwStops v winRead)).map Crossing.port

/-- The state with a traffic dropped at a port counted. -/
def State.countDrop (s : State) (q : Nat) : State :=
  { s with fwdrop := Tbl.set s.fwdrop q (Tbl.get (0 : DWord) s.fwdrop q + 1) }

/-- The current slot of a running calendar names a VF, or is open to it (20 R424). -/
def Part.names (p : Part) (v : Nat) (isOpen : Bool) : Bool :=
  p.run && !p.idle &&
    match bits p.slotWord.toNat 30 2 with
    | 1 => bits p.slotWord.toNat 16 10 == v
    | 2 => isOpen
    | _ => false

/-- The VF is active in the current slot of a core's partition (01 R30, 20 R424). -/
def State.vfActive (s : State) (v c : Nat) : Bool :=
  match s.partOf c with
  | none => false
  | some p => (s.part p).names v ((s.vf v).cal.getLsbD 0) && !(s.vf v).rst

/-! ## Physical memory -/

/-- The address of a byte of a core's slice in `State.mem`. -/
def physAddr (core off : Nat) : Nat := core * 2 ^ 31 + off

/-- The frame number of a physical address, over all slices. -/
def frameOf (p : Nat) : Nat := p / 65536

/-- The 256-byte sector of a physical address, over all slices. -/
def sectorOf (p : Nat) : Nat := p / 256

/-- The owner entry of a frame: key 0, open to the host below the reserve (19 R397). -/
def State.owner (s : State) (f : Nat) : Owner :=
  Tbl.get ⟨f % 32768 < 30720, false, false, 0⟩ s.owners f

/-- A key slot; key 0 exists from power-on (19 R406). -/
def State.keySlot (s : State) (k : Nat) : KeySlot := Tbl.get ⟨k == 0, 0⟩ s.keys k

/-- What a sector was last written under: key, generation, and the package's fabric number then (19 R400; log 20): its own entry, else its
frame's. -/
def State.encAt (s : State) (p : Nat) : Nat × Nat × Nat :=
  Tbl.get (Tbl.get (0, 0, 0) s.enc (frameOf p)) s.enc (2 ^ 25 + sectorOf p)

/-- The key and generation that a sector was last written under. -/
def State.encOf (s : State) (p : Nat) : Nat × Nat := ((s.encAt p).1, (s.encAt p).2.1)

/-- The generation of a slot's keys; 0 for the zeros of a slot other than key 0 that was destroyed, or never generated (19 R406). -/
def KeySlot.now (k : KeySlot) : Nat := if k.present then k.gen else 0

/-- The key and generation of a sector as its frame's owner names them now. -/
def State.keyOf (s : State) (p : Nat) : Nat × Nat :=
  let k := (s.owner (frameOf p)).key
  (k, (s.keySlot k).now)

/-- The sector of an address is poisoned, its frame is retired, or its MAC fails (19 R403, R406, 20 R433, R436). -/
def State.poisoned (s : State) (p : Nat) : Bool :=
  s.poison.contains (sectorOf p) || s.retired.contains (frameOf p) || s.encOf p != s.keyOf p

/-- The counter block of a 4 KiB page (19 R402). -/
def State.ctr (s : State) (page : Nat) : Ctr := Tbl.get ⟨0, [], 0⟩ s.ctrs page

/-- A frame is worn out now: a MAJOR would pass its 56 bits, a lasting error (19 R404) that retires it, with a record still to be written
(20 R436, R437). -/
def State.wearsOut (s : State) (f major : Nat) : Bool := 2 ^ 56 ≤ major && !s.retired.contains f

/-- The counters after one write of a sector (19 R402, R404); a page whose MAJOR would pass its 56 bits is retired. -/
def State.bumpCtr (s : State) (p : Nat) : State :=
  let c := s.ctr (p / 4096)
  let i := p / 256 % 16
  let m := Tbl.get 0 c.minor i + 1
  let c := if m > 127 then { c with major := c.major + 1, minor := [(i, 1)], version := c.version + 17 }
    else { c with minor := Tbl.set c.minor i m, version := c.version + 1 }
  let spent := s.wearsOut (frameOf p) c.major
  { s with
    ctrs := Tbl.set s.ctrs (p / 4096) c
    retired := if spent then frameOf p :: s.retired else s.retired
    worn := if spent then s.worn ++ [frameOf p] else s.worn }

/-- Bytes written at a physical address within one sector: stored, encrypted under the frame's key. -/
def State.physWrite (s : State) (p : Nat) (bs : List Byte) : State :=
  let k := ((s.keyOf p).1, (s.keyOf p).2, s.fabnum.toNat)
  let s := s.bumpCtr p
  { s with
    mem := Mem.write s.mem p bs
    enc := if Tbl.get (0, 0, 0) s.enc (frameOf p) = k then Tbl.del s.enc (2 ^ 25 + sectorOf p)
      else Tbl.set s.enc (2 ^ 25 + sectorOf p) k }

/-- Every sector of a frame rewritten under the key of its owner, with MAJOR + 1 (19 R397, R402, R408), which retires a frame where it
would pass its 56 bits (19 R404). -/
def State.rekeyFrame (s : State) (f : Nat) : State :=
  let spent := (List.range 16).any fun i => s.wearsOut f ((s.ctr (f * 16 + i)).major + 1)
  { s with
    retired := if spent then f :: s.retired else s.retired
    worn := if spent then s.worn ++ [f] else s.worn
    enc := Tbl.set (s.enc.filter fun e => e.1 < 2 ^ 25 || (e.1 - 2 ^ 25) / 256 != f) f
      ((s.keyOf (f * 65536)).1, (s.keyOf (f * 65536)).2, s.fabnum.toNat)
    ctrs := (List.range 16).foldl (fun t i =>
      let c := Tbl.get ⟨0, [], 0⟩ t (f * 16 + i)
      Tbl.set t (f * 16 + i) ⟨c.major + 1, [], c.version + 16⟩) s.ctrs }

/-- A frame that waits for a scrub reads as it will when the scrub ends: an access to it comes after (19 R397). -/
def State.stillNat (s : State) (p n : Nat) : Nat := if (s.owner (frameOf p)).init then 0 else Mem.readNat s.mem p n

/-- Bytes of such a frame. -/
def State.stillBytes (s : State) (p n : Nat) : List Byte :=
  if (s.owner (frameOf p)).init then List.replicate n 0 else Mem.read s.mem p n

/-- The sector of an address may be read under key 0. -/
def State.readableKey0 (s : State) (p : Nat) : Bool :=
  !s.poison.contains (sectorOf p) && !s.retired.contains (frameOf p) &&
    ((s.owner (frameOf p)).init || s.encOf p == (0, (s.keySlot 0).now))

/-- A scrub of a frame: zeros under its key, with poison cleared (19 R397). -/
def State.scrub (s : State) (f : Nat) : State :=
  { s.rekeyFrame f with
    mem := Mem.clear s.mem (f * 65536) 65536
    poison := s.poison.filter fun q => q / 256 != f }

/-- The scrub of a frame ends: zeros under its key, and INIT reads 0 (19 R397). -/
def State.endScrub (s : State) (f : Nat) : State :=
  if (s.owner f).init then
    { s.scrub f with owners := Tbl.set s.owners f { s.owner f with init := false } }
  else s

/-! ## Page tables -/

/-- The fields of a page-table entry (19 R395). -/
structure Pte where
  cls : Nat
  size : Nat
  host : Bool
  window : Bool
  replica : Bool
  ro : Bool
  frame : Nat
  deriving DecidableEq, Repr

/-- A leaf entry read from its bits. -/
def Pte.ofNat (e : Nat) : Pte :=
  { cls := bits e 52 12, size := bits e 50 2, host := e.testBit 49, window := e.testBit 48
    replica := e.testBit 47, ro := e.testBit 46, frame := bits e 4 36 }

/-- The number of 64 KiB frames of a page (19 R395). -/
def Pte.frames (e : Pte) : Nat :=
  match e.size with
  | 0 => 1
  | 1 => 32
  | _ => 16384

/-- The physical offset of an address in its page's slice (19 R396). -/
def Pte.offset (e : Pte) (a : Nat) : Nat :=
  e.frame / e.frames * e.frames * 65536 + a % (65536 * e.frames)

/-- The largest page a region's placement allows, in 64 KiB frames (02 R53). -/
def Region.granule (g : Region) : Nat :=
  match g.func with
  | 1 => g.share
  | 2 => if g.grain then 32 else 1
  | 4 => 1
  | _ => 16384

/-- One level of the walk (19 R394, R395), read under key 0 (19 R396): a leaf entry, or the next table; a poisoned sector, or one
that key 0 did not write, traps POISON (20 R433). -/
def State.walkLevel (s : State) (h a level t : Nat) (isHost : Bool) : Except Trap (Pte ⊕ Nat) :=
  let absent := Except.error (trapAt .pageFault 0 a)
  let i := bits a (16 + 10 * level) 10
  let e := s.stillNat (physAddr h (t + 8 * i)) 8
  if !s.readableKey0 (physAddr h (t + 8 * i)) then .error (trapAt .poison 0 a)
  else if !e.testBit 0 then absent
  else if e.testBit 1 then
    let p := Pte.ofNat e
    if bits e 40 6 != 0 || bits e 2 2 != 0 then absent
    else if !((level == 0 && p.size ≤ 1) || (level == 1 && p.size == 2)) then absent
    else if p.host != isHost then absent
    else if !p.host && p.frame ≥ 32768 then absent
    else .ok (.inl p)
  else if bits e 31 33 != 0 || bits e 2 11 != 0 || level == 0 then absent
  else .ok (.inr (bits e 13 18 * 8192))

/-- The walk from a level down (19 R396). -/
def State.walkFrom (s : State) (h a : Nat) (isHost : Bool) : Nat → Nat → Except Trap Pte
  | 0, _ => .error (trapAt .pageFault 0 a)
  | n + 1, t =>
    match s.walkLevel h a n t isHost with
    | .error e => .error e
    | .ok (.inl p) => .ok p
    | .ok (.inr t') => s.walkFrom h a isHost n t'

/-- Walk (19 R396). -/
def State.walk (s : State) (v a h : Nat) (isHost : Bool) : Except Trap Pte :=
  let root := (Tbl.get (0 : BitVec 32) (s.vf v).roots h).toNat
  if root = 0 then .error (trapAt .pageFault 0 a) else s.walkFrom h a isHost 4 root

/-- A VF number is a consumer of a window (19 R407). -/
def Window.consumers (w : Window) : List Nat :=
  (List.range (Nat.min w.ncons 15)).map fun i =>
    if i < 6 then bits w.cons0.toNat (10 * i) 10
    else if i < 12 then bits w.cons1.toNat (10 * (i - 6)) 10
    else bits w.cons2.toNat (10 * (i - 12)) 10

/-- The key counts as the VF's (19 R397). A window that is opening or closing keeps its key's standing, so that accesses
to it wait (log 13). -/
def State.keyCounts (s : State) (v k : Nat) : Bool :=
  k == v + 1 ||
    (1025 ≤ k &&
      let w := s.window (k - 1024)
      w.state != .closed && (w.producer == v || w.consumers.contains v))

/-- The TLB entry of a page at a core. -/
def State.tlbFind (s : State) (v a h : Nat) : Option TlbEntry :=
  (s.core h).tlb.find? fun e =>
    e.vf == v && a / (65536 * (Pte.ofNat e.pte.toNat).frames) * (Pte.ofNat e.pte.toNat).frames ==
      e.page

/-- The bits of a leaf entry as the TLB keeps them. -/
def Pte.toBits (e : Pte) : DWord :=
  BitVec.ofNat 64 (e.cls * 2 ^ 52 + e.size * 2 ^ 50 + bitN e.host 49 + bitN e.window 48 +
    bitN e.replica 47 + bitN e.ro 46 + e.frame * 16 + 3)

/-- Translate (02 R53): the TLB entry, else a walk; then the granule and the owner check of the frame touched, whose result the
entry keeps (19 R396, R397). -/
def State.translate (s : State) (v a h : Nat) (g : Region) : Except Trap Pte :=
  let found : Except Trap (Pte × Tbl Bool) :=
    match s.tlbFind v a h with
    | some e => .ok (Pte.ofNat e.pte.toNat, e.owned)
    | none => (s.walk v a h g.isHost).map fun p => (p, [])
  match found with
  | .error t => .error t
  | .ok (p, owned) =>
    if p.frames > g.granule then .error (trapAt .pageFault 4 a)
    else if p.host then .ok p
    else
      let f := frameOf (physAddr h (p.offset a))
      let own := Tbl.get (s.keyCounts v (s.owner f).key) owned f
      if own then .ok p else .error (trapAt .firewall 1 a)

/-- A VF's entries in a core's TLB brought within its quota, its own least recently used ones dropped (19 R398). -/
def State.tlbTrim (s : State) (v n h : Nat) : State :=
  let drop := ((s.core h).tlb.filter fun x => x.vf == v).drop n
  s.modCore h fun k => { k with tlb := k.tlb.filter fun x => !drop.contains x }

/-- The state with the translation of an address held in the TLB (19 R398): a VF at its quota replaces its own least recently used
entries; entries stand most recent first. A core holds 2,048 in all (00 R2): where quotas that a later VFRUN or OCTMAP write brought
together add to more, a VF never evicts another one's entry, so it replaces its own last one, or holds none (log 100: DESIGN CHOICE). -/
def State.tlbFill (s : State) (v a h : Nat) (g : Region) : State :=
  let check := fun (p : Pte) (owned : Tbl Bool) =>
    let f := frameOf (physAddr h (p.offset a))
    if p.host || Tbl.has owned f then owned else Tbl.set owned f (s.keyCounts v (s.owner f).key)
  match s.tlbFind v a h with
  | some e =>
    let e' := { e with owned := check (Pte.ofNat e.pte.toNat) e.owned }
    s.modCore h fun k => { k with tlb := e' :: k.tlb.filter (· != e) }
  | none =>
    match s.walk v a h g.isHost with
    | .error _ => s
    | .ok p =>
      let e : TlbEntry := ⟨v, a / (65536 * p.frames) * p.frames, p.toBits, check p []⟩
      let others := (s.core h).tlb.countP fun x => x.vf != v
      let s := s.tlbTrim v (Nat.min ((s.vf v).tlbq - 1) (2047 - others)) h
      if 2048 ≤ others then s else s.modCore h fun k => { k with tlb := e :: k.tlb }

/-! ## Windows and classes -/

/-- A frame stands in the page list of a window that a test accepts. -/
def State.inWindow (s : State) (f : Nat) (p : Window → Bool) : Bool :=
  s.windows.any fun e => e.2.pages.contains f && p e.2

/-- An access to a page of the frame waits: its window is being re-keyed, or the frame is (02 R54, 19 R397; log 13). -/
def State.rekeying (s : State) (p : Nat) : Bool :=
  (s.owner (frameOf p)).rekey ||
    s.inWindow (frameOf p) fun w => w.state == .opening || w.state == .closing

/-- The frame stands in the page list of a closed window. -/
def State.shut (s : State) (p : Nat) : Bool := s.inWindow (frameOf p) fun w => w.state == .closed

/-- The 64-byte line of an allow map that a check reads, as a core's cache names it: principal p, class c (19 R411). -/
def mapLine (v p c : Nat) : Nat := (v * 4096 + p) * 8 + c / 512

/-- The bytes of a map line in the copy of the core's die (19 R411). -/
def State.mapBytes (s : State) (v p c core : Nat) : List Byte :=
  let d := (Tbl.get (0 : Word) (s.vf v).ptDie (dieOf core)).toNat
  s.stillBytes (physAddr (bits d 15 9) (bits d 0 15 * 65536 + p * 512 + c / 512 * 64)) 64

/-- The line as a check at a core reads it: from the core's cache, else from the copy. -/
def State.mapRead (s : State) (v p c core : Nat) : List Byte :=
  match (s.core core).maps.find? fun e => e.1 == mapLine v p c with
  | some e => e.2
  | none => s.mapBytes v p c core

/-- Bit c of the allow map of a principal (02 R69). -/
def State.allows (s : State) (v p c core : Nat) : Bool :=
  (((s.mapRead v p c core)[c % 512 / 8]?).getD 0).getLsbD (c % 8)

/-- After a check, the core holds the map line or not: what the cache keeps is a free choice (19 R411, R412; log 1). -/
def State.mapFill (s : State) (v p c core : Nat) : State :=
  if c = 0 ∨ (s.vf v).ptSize ≤ p then s
  else
    let bs := s.mapRead v p c core
    let others := (s.core core).maps.filter fun e => e.1 != mapLine v p c
    let s : State := { s with tick := s.tick + 1 }
    s.modCore core fun k =>
      { k with maps := if Config.choose s.tick % 2 = 1 then (mapLine v p c, bs) :: others else others }

/-- CheckClass (02 R69), made at a core. -/
def State.checkClass (s : State) (v p c core : Nat) : Bool :=
  c == 0 || (p < (s.vf v).ptSize && s.allows v p c core)

end Sys2Proof.Machine
end

