-- ==== Sys2Proof/Machine/Crypto.lean ====
section
/-! DEFINITION. Memory protection as it stands in HBM (19 R400 to R406): keys, counter blocks and tree nodes, ciphertext and MACs, the
reserve of a slice. `State.mem` holds the plain bytes, `State.enc` the key of the last write of a sector, `State.ctrs` the counters; the
definitions here say what the HBM holds of them, and which sectors a bad word of the metadata takes down (R403). -/

namespace Sys2Proof.Machine

/-! ## Keys (19 R405, R406) -/

/-- The kinds of key that the generator makes. -/
inductive KeyKind where
  | data | mac | sram | tree
  deriving DecidableEq, Repr

/-- The number of a kind. -/
def KeyKind.num : KeyKind → Nat
  | .data => 0 | .mac => 1 | .sram => 2 | .tree => 3

/-- A key of a slot and generation: the generator's output, or the zeros of a slot that holds none (19 R406; log 20). -/
def keyAt (kind : KeyKind) (k gen : Nat) : BitVec 256 := if k ≠ 0 ∧ gen = 0 then 0 else Config.drbg kind.num k gen

/-- A key of a slot as it stands: zeros once the slot is destroyed (19 R406). -/
def State.keyBits (s : State) (kind : KeyKind) (k : Nat) : BitVec 256 := keyAt kind k (s.keySlot k).now

/-- The 128-bit SRAM key of a VF, as its bytes (19 R405). -/
def State.sramKey (s : State) (v : Nat) : List Byte := beBytes 16 ((s.keyBits .sram (v + 1)).toNat % 2 ^ 128)

/-- The tree key of a core's controller, made with key 0 at power-on (19 R406). -/
def State.treeKey (s : State) (c : Nat) : BitVec 256 := Config.drbg (KeyKind.num .tree) c (s.keySlot 0).gen

/-! ## Counters (19 R400, R402) -/

/-- The counter block of AES block b of the sector at an address, with the fabric number of its last write (19 R400). -/
def State.ctrBlock (s : State) (p b : Nat) : BitVec 128 :=
  let c := s.ctr (p / 4096)
  BitVec.ofNat 128 ((s.encAt p).2.2 * 2 ^ 112 + p / 2 ^ 31 * 2 ^ 103 + p % 2 ^ 31 / 256 * 2 ^ 80 + c.major % 2 ^ 56 * 2 ^ 24 +
    Tbl.get 0 c.minor (p / 256 % 16) * 2 ^ 17 + b)

/-- Bits 255 to 64 of the 32 bytes that hold the counters of a page (19 R402). -/
def Ctr.bits (c : Ctr) : Nat :=
  (c.major % 2 ^ 56) * 2 ^ 136 + ((List.range 16).map fun i => Tbl.get 0 c.minor i * 2 ^ (24 + 7 * i)).sum

/-- The version counter of a page, which its level-1 node holds (19 R402). -/
def State.pageVersion (s : State) (page : Nat) : Nat := (s.ctr page).version % 2 ^ 56

/-- The version counter of a level-1 node, which its root holds: every write below raises it (19 R402). -/
def State.nodeVersion (s : State) (n : Nat) : Nat := ((List.range 8).map fun i => (s.ctr (8 * n + i)).version).sum % 2 ^ 56

/-- The eight version counters of a node (19 R402): level-1 node n covers pages 8n to 8n + 7, root n level-1 nodes 8n to 8n + 7. -/
def State.nodeBits (s : State) (root : Bool) (n : Nat) : Nat :=
  ((List.range 8).map fun i => (if root then s.nodeVersion (8 * n + i) else s.pageVersion (8 * n + i)) * 2 ^ (56 * i)).sum

/-- The 32 bytes of a page's counter block, with its CMAC (19 R402). -/
def State.ctrBytes (s : State) (page : Nat) : List Byte :=
  let v := (s.ctr page).bits
  leBytes 8 (Config.tag (s.treeKey (page / 2 ^ 19)) (s.pageVersion page) v).toNat ++ leBytes 24 v

/-- The 64 bytes of a level-1 node, with its NMAC (19 R402). -/
def State.nodeBytes (s : State) (n : Nat) : List Byte :=
  let v := s.nodeBits false n
  leBytes 56 v ++ leBytes 8 (Config.tag (s.treeKey (n / 2 ^ 16)) (s.nodeVersion n) v).toNat

/-! ## The reserve (19 R401) -/

/-- Sector MACs of a slice: sector s at + 8s. -/
def macBase : Nat := 0x78000000
/-- Counter blocks: page p at + 32p. -/
def ctrBase : Nat := 0x7C000000
/-- Level-1 nodes: node n at + 64n. -/
def nodeBase : Nat := 0x7D000000
/-- The overflow ring (01 R29). -/
def ringBase : Nat := 0x7D400000
/-- The owner table (19 R397). -/
def ownerBase : Nat := 0x7F400000
/-- The error log (20 R437). -/
def logBase : Nat := 0x7F410000

/-- An owner entry as its 16 bits (19 R397). -/
def Owner.word (o : Owner) : Nat := bitN o.hostOk 15 + bitN o.rekey 14 + bitN o.init 13 + o.key

/-- A byte of memory before encryption: the owner table stands in the reserve (19 R397, R401). -/
def State.plainByte (s : State) (p : Nat) : Byte :=
  let off := p % 2 ^ 31
  if ownerBase ≤ off ∧ off < logBase then
    (leBytes 2 (s.owner (p / 2 ^ 31 * 32768 + (off - ownerBase) / 2)).word)[off % 2]?.getD 0
  else Mem.get s.mem p

/-! ## Sectors (19 R400) -/

/-- The 256 bytes of a sector as its HBM cells hold them: AES-256 in counter mode under the key of the last write. -/
def State.cipher (s : State) (p : Nat) : List Byte :=
  let ks := aesKeys (beBytes 32 (keyAt .data (s.encOf p).1 (s.encOf p).2).toNat)
  (List.range 16).flatMap fun b =>
    xorBytes ((List.range 16).map fun i => s.plainByte (p / 256 * 256 + 16 * b + i)) (aesRounds ks (beBytes 16 (s.ctrBlock p b).toNat))

/-- The MAC of a sector: the AES-GMAC tag of its ciphertext, with bits 127 to 4 of the counter block as nonce, its first 64 bits (19 R400). -/
def State.sectorMac (s : State) (p : Nat) : DWord :=
  (gmac (beBytes 32 (keyAt .mac (s.encOf p).1 (s.encOf p).2).toNat) 124 (s.ctrBlock p 0) (s.cipher p)).extractLsb' 64 64

/-- A byte of the reserve of core c's slice as the HBM holds it (19 R401): the metadata plain, the rest encrypted under key 0. -/
def State.reserveByte (s : State) (c off : Nat) : Byte :=
  let n := fun (base size : Nat) => (off - base) / size
  let at_ := fun (l : List Byte) (base size : Nat) => (l[(off - base) % size]?).getD 0
  if off < ctrBase then at_ (leBytes 8 (s.sectorMac (physAddr c (256 * n macBase 8))).toNat) macBase 8
  else if off < nodeBase then at_ (s.ctrBytes (physAddr c 0 / 4096 + n ctrBase 32)) ctrBase 32
  else if off < ringBase then at_ (s.nodeBytes (physAddr c 0 / 32768 + n nodeBase 64)) nodeBase 64
  else (s.cipher (physAddr c off))[off % 256]?.getD 0

/-- The sectors that fail their check when the word at a slice offset of core c is bad (19 R403): the sector itself, the sector of a MAC, the
16 sectors of a counter block, the 128 beneath a level-1 node. -/
def badSectors (c off : Nat) : List Nat :=
  let run := fun (first n : Nat) => (List.range n).map fun i => sectorOf (physAddr c 0) + first + i
  if off < macBase ∨ ringBase ≤ off then run (off / 256) 1
  else if off < ctrBase then run ((off - macBase) / 8) 1
  else if off < nodeBase then run ((off - ctrBase) / 32 * 16) 16
  else run ((off - nodeBase) / 64 * 128) 128

/-! ## The cache die (19 R405) -/

/-- The bytes of a data unit that was written under one SRAM key, as another one decrypts it. -/
def scrambled (old new : List Byte) (u : Nat) (bs : List Byte) : List Byte := xts true new u (xts false old u bs)

/-! ## The save area (20 R428) -/

/-- The address of an offset in the save area of a VF at a core. -/
def State.areaAt (s : State) (v c off : Nat) : Nat :=
  physAddr c (65536 * bits (Tbl.get (0 : Word) (s.vf v).save c).toNat 0 15 + off)

/-- A 256-byte unit of the save area as it reads under the VF's SRAM key. -/
def State.areaPlain (s : State) (v c u : Nat) : List Byte :=
  xts true (s.sramKey v) (Config.cacheSector 2 c u) (Mem.read s.mem (s.areaAt v c (256 * u)) 256)

/-- One unit of the save area with the bytes that stand at an offset put into it. -/
def State.saveUnit (v c off : Nat) (bs : List Byte) (s : State) (u : Nat) : State :=
  let new := (s.areaPlain v c u).zipIdx.map fun e =>
    if off ≤ 256 * u + e.2 then (bs[256 * u + e.2 - off]?).getD e.1 else e.1
  s.physWrite (s.areaAt v c (256 * u)) (xts false (s.sramKey v) (Config.cacheSector 2 c u) new)

/-- Bytes written to the save area of a VF at a core by the spill engine: encrypted under the VF's SRAM key, and by the controller under key 0
(20 R428). -/
def State.saveOut (s : State) (v c off : Nat) (bs : List Byte) : State :=
  ((List.range ((off % 256 + bs.length + 255) / 256)).map (off / 256 + ·)).foldl (State.saveUnit v c off bs) s

/-- A number of bytes of a place without a layout (20 R428): free values (log 52). -/
def State.openBytes (s : State) (n : Nat) : List Byte := (List.range n).map (Config.savedByte s.tick)

/-- Whether the save area of a VF at a core holds frames (20 R428). -/
def State.canSave (s : State) (v c : Nat) : Bool := bits (Tbl.get (0 : Word) (s.vf v).save c).toNat 16 15 != 0

/-- A replay buffer entry that moves to the save area (10 R248, 20 R428). -/
def State.saveEntry (s : State) (v c e : Nat) : State :=
  if s.canSave v c then ({ s with tick := s.tick + 1 } : State).saveOut v c (0x800000 + 512 * e) (s.openBytes 512) else s

/-- The 2,048 bytes and the state bits of the words of a register row (20 R428). -/
def rowImage (ws : List RegWord) : List Byte × List Byte :=
  (ws.flatMap fun w => leBytes 4 w.val.toNat,
   leBytes 256 (ws.foldr (fun w n => 16 * n + ((match w.st with
     | .full => 0
     | .empty => 1
     | _ => 2) + bitN w.poison 2)) 0))

/-- A team's scratchpad read under another key. -/
def Team.scramble (t : Team) (old new : List Byte) (core slot : Nat) : Team :=
  let bs := (List.range (256 * t.spBlocks)).flatMap fun u =>
    scrambled old new (Config.cacheSector 0 core (slot * 2 ^ 16 + u)) (Mem.read t.sp (256 * u) 256)
  { t with sp := (bs.zipIdx.filter fun e => e.1 != 0).map fun e => (e.2, e.1) }

/-- The cache-die state of a VF reads as something else once its SRAM key is another (19 R405). -/
def State.scramble (s : State) (v : Nat) (old new : List Byte) : State :=
  { s with cores := s.cores.map fun e =>
      (e.1, { e.2 with
        teams := e.2.teams.map fun t => (t.1, if t.2.vf = v then t.2.scramble old new e.1 t.1 else t.2)
        ro := e.2.ro.map fun k =>
          if k.vf = v then
            { k with sectors := k.sectors.map fun x => (x.1, scrambled old new (Config.cacheSector 1 e.1 (k.line * 4 + x.1)) x.2) }
          else k }) }

end Sys2Proof.Machine
end

