-- ==== Sys2Proof/Machine/Num.lean ====
section
/-! DEFINITION. Number formats and exact arithmetic (chapter 06): decoded values, rounding, sums, minimum and maximum,
conversions, the tagged 4-bit family, and the special functions. -/

namespace Sys2Proof.Machine

/-! ## Formats (06 R135) -/

/-- The floating-point formats. -/
inductive FForm where
  | f32 | f16 | bf16 | e4m3 | e5m2
  deriving DecidableEq, Repr

/-- Fraction bits f. -/
def FForm.frac : FForm → Nat
  | .f32 => 23 | .f16 => 10 | .bf16 => 7 | .e4m3 => 3 | .e5m2 => 2

/-- The exponent bias. -/
def FForm.bias : FForm → Int
  | .f32 => 127 | .f16 => 15 | .bf16 => 127 | .e4m3 => 7 | .e5m2 => 15

/-- The number of bits below the sign bit. -/
def FForm.signPos : FForm → Nat
  | .f32 => 31 | .f16 => 15 | .bf16 => 15 | .e4m3 => 7 | .e5m2 => 7

/-- The code of the largest finite value. -/
def FForm.maxCode : FForm → Nat
  | .f32 => 0x7F7FFFFF | .f16 => 0x7BFF | .bf16 => 0x7F7F | .e4m3 => 0x7E | .e5m2 => 0x7B

/-- The code of the canonical NaN. -/
def FForm.nanCode : FForm → Nat
  | .f32 => 0x7FC00000 | .f16 => 0x7E00 | .bf16 => 0x7FC0 | .e4m3 => 0x7F | .e5m2 => 0x7E

/-- The code of +∞; E4M3 has none. -/
def FForm.infCode : FForm → Option Nat
  | .f32 => some 0x7F800000 | .f16 => some 0x7C00 | .bf16 => some 0x7F80 | .e4m3 => none
  | .e5m2 => some 0x7C

/-- A decoded value: (−1)^neg × m × 2^e, an infinity, or a NaN. -/
inductive FVal where
  | nan
  | inf (neg : Bool)
  | fin (neg : Bool) (m : Nat) (e : Int)
  deriving DecidableEq, Repr

/-- The value of a code (06 R135). -/
def FForm.decode (t : FForm) (code : Nat) : FVal :=
  let neg := code.testBit t.signPos
  let mag := code % 2 ^ t.signPos
  if mag > t.maxCode then
    if t.infCode == some mag then .inf neg else .nan
  else
    let e := mag / 2 ^ t.frac
    let f := mag % 2 ^ t.frac
    if e = 0 then .fin neg f (1 - t.bias - t.frac)
    else .fin neg (2 ^ t.frac + f) (e - t.bias - t.frac)

/-- The format of a scalar floating type, or of the halves of a packed one. -/
def fformOf : Ty → FForm
  | .f16 | .f16x2 => .f16
  | .bf16 | .bf16x2 => .bf16
  | .e4m3 | .e4m3x4 => .e4m3
  | .e5m2 | .e5m2x4 => .e5m2
  | _ => .f32

/-! ## Rounding (06 R145) -/

/-- a × 2^s for a signed shift of a pair of numerator and denominator. -/
def scaleRat (num den : Nat) (s : Int) : Nat × Nat :=
  if 0 ≤ s then (num * 2 ^ s.toNat, den) else (num, den * 2 ^ (-s).toNat)

/-- floor(log2(num / den)) for positive num and den. -/
def floorLog2 (num den : Nat) : Int :=
  let l : Int := (num.log2 : Int) - (den.log2 : Int)
  let r := scaleRat num den (-l)
  if r.1 < r.2 then l - 1 else l

/-- floor or ceiling of num / den as the mode asks for a value of the sign. -/
def roundQuot (m : Rnd) (neg : Bool) (num den : Nat) : Nat :=
  let lo := num / den
  let r := num % den
  if r = 0 then lo
  else
    match m with
    | .rn => if 2 * r < den then lo else if den < 2 * r then lo + 1 else lo + lo % 2
    | .rz => lo
    | .rd => if neg then lo + 1 else lo
    | .ru => if neg then lo else lo + 1

/-- The code of the rounded magnitude num / den × 2^e; it may lie above the largest finite code. -/
def roundMag (t : FForm) (m : Rnd) (neg : Bool) (num den : Nat) (e : Int) : Nat :=
  let emin := 1 - t.bias
  let ex := max (floorLog2 num den + e) emin
  let qe := ex - t.frac
  let r := scaleRat num den (e - qe)
  (qe - (emin - t.frac)).toNat * 2 ^ t.frac + roundQuot m neg r.1 r.2

/-- A magnitude with a sign. -/
def FForm.signed (t : FForm) (neg : Bool) (mag : Nat) : Nat :=
  if neg then mag + 2 ^ t.signPos else mag

/-- Overflow(s, T, M) of 06 R145; `sat` marks a .sat form. -/
def FForm.overflow (t : FForm) (sat : Bool) (m : Rnd) (neg : Bool) : Nat :=
  match t.infCode with
  | none => t.signed neg t.maxCode
  | some inf =>
    if sat then t.signed neg t.maxCode
    else
      match m with
      | .rn => t.signed neg inf
      | .rz => t.signed neg t.maxCode
      | .rd => t.signed neg (if neg then inf else t.maxCode)
      | .ru => t.signed neg (if neg then t.maxCode else inf)

/-- InfResult(x, T, M) of 06 R145. -/
def FForm.infResult (t : FForm) (sat : Bool) (neg : Bool) : Nat :=
  if sat then t.signed neg t.maxCode
  else
    match t.infCode with
    | none => t.nanCode
    | some inf => t.signed neg inf

/-- Round of the exact value (−1)^neg × num / den × 2^e. -/
def roundRat (t : FForm) (sat : Bool) (m : Rnd) (neg : Bool) (num den : Nat) (e : Int) : Nat :=
  if num = 0 then t.signed neg 0
  else
    let c := roundMag t m neg num den e
    if c > t.maxCode then t.overflow sat m neg else t.signed neg c

/-- Round(x, T, M), with the .sat rows of 06 R145. -/
def FVal.round (t : FForm) (sat : Bool) (m : Rnd) : FVal → Nat
  | .nan => t.nanCode
  | .inf neg => t.infResult sat neg
  | .fin neg a e => roundRat t sat m neg a 1 e

/-! ## Exact operations (06 R146, R147, R150) -/

/-- A value of the other sign. -/
def FVal.neg : FVal → FVal
  | .nan => .nan
  | .inf s => .inf !s
  | .fin s a e => .fin (!s) a e

/-- The exact product; 0 × ∞ is a NaN. -/
def FVal.mul : FVal → FVal → FVal
  | .nan, _ | _, .nan => .nan
  | .inf s, .inf u => .inf (s != u)
  | .inf s, .fin u a _ | .fin u a _, .inf s => if a = 0 then .nan else .inf (s != u)
  | .fin s a e, .fin u b f => .fin (s != u) (a * b) (e + f)

/-- The sign bit of a value. -/
def FVal.signBit : FVal → Bool
  | .nan => false
  | .inf s => s
  | .fin s _ _ => s

/-- The value is a NaN. -/
def FVal.isNan : FVal → Bool
  | .nan => true
  | _ => false

/-- The value is infinite. -/
def FVal.isInf : FVal → Bool
  | .inf _ => true
  | _ => false

/-- The value is a zero. -/
def FVal.isZero : FVal → Bool
  | .fin _ a _ => a == 0
  | _ => false

/-- The smallest exponent among the finite terms. -/
def minExp (ts : List FVal) : Int :=
  ts.foldl (fun k t => match t with | .fin _ _ e => min k e | _ => k) 0

/-- A finite term as a multiple of 2^k. -/
def FVal.scaled (k : Int) : FVal → Int
  | .fin s a e => (if s then -1 else 1) * ((a * 2 ^ (e - k).toNat : Nat) : Int)
  | _ => 0

/-- The exact sum of the terms. A zero sum has the common sign of zero terms, else − under .rd only (06 R146). -/
def fsum (m : Rnd) (ts : List FVal) : FVal :=
  if ts.any FVal.isNan then .nan
  else if ts.any FVal.isInf then
    if ts.any (fun t => t.isInf && t.signBit) then
      if ts.any (fun t => t.isInf && !t.signBit) then .nan else .inf true
    else .inf false
  else
    let k := minExp ts
    let s : Int := ts.foldl (fun acc t => acc + t.scaled k) 0
    if s = 0 then
      if ts.all (fun t => t.isZero && t.signBit) then .fin true 0 0
      else if ts.all (fun t => t.isZero && !t.signBit) then .fin false 0 0
      else .fin (m == .rd) 0 0
    else .fin (s < 0) s.natAbs k

/-- Round of the quotient a / b (06 R150). -/
def fdivRound (t : FForm) (m : Rnd) : FVal → FVal → Nat
  | .nan, _ | _, .nan => t.nanCode
  | .inf _, .inf _ => t.nanCode
  | .inf s, .fin u _ _ => t.infResult false (s != u)
  | .fin s _ _, .inf u => t.signed (s != u) 0
  | .fin s a e, .fin u b f =>
    if b = 0 then if a = 0 then t.nanCode else t.infResult false (s != u)
    else roundRat t false m (s != u) a b (e - f)

/-- Integer square root by Newton steps from above: `fuel` steps. -/
def isqrtAux (n : Nat) : Nat → Nat → Nat
  | 0, x => x
  | fuel + 1, x =>
    let y := (x + n / x) / 2
    if y < x then isqrtAux n fuel y else x

/-- floor(√n). -/
def isqrt (n : Nat) : Nat :=
  if n = 0 then 0 else isqrtAux n (n.log2 + 2) (2 ^ (n.log2 / 2 + 1))

/-- Round of √x (06 R150): 64 bits of the root and a sticky bit. -/
def fsqrtRound (t : FForm) (m : Rnd) : FVal → Nat
  | .nan => t.nanCode
  | .inf s => if s then t.nanCode else t.infResult false false
  | .fin s a e =>
    if a = 0 then t.signed s 0
    else if s then t.nanCode
    else
      let n := a * 2 ^ (128 + (e % 2).toNat)
      let r := isqrt n
      roundRat t false m false (2 * r + if r * r = n then 0 else 1) 1 (e / 2 - 65)

/-! ## Order (06 R149) -/

/-- A key that orders the codes that are no NaN, with −0 below +0. -/
def FForm.key (t : FForm) (code : Nat) : Int :=
  if code.testBit t.signPos then -((code % 2 ^ t.signPos : Nat) : Int) - 1 else code

/-- fmin, fmax, fminn and fmaxn on codes. -/
def fminmax (t : FForm) (isMax prefer : Bool) (a b : Nat) : Nat :=
  match (t.decode a).isNan, (t.decode b).isNan with
  | true, true => t.nanCode
  | true, false => if prefer then b else t.nanCode
  | false, true => if prefer then a else t.nanCode
  | false, false =>
    if (if isMax then t.key a < t.key b else t.key b < t.key a) then b else a

/-- The four outcomes of a comparison (09 R218): 0 less, 1 equal, 2 greater, 3 unordered. -/
def fcompare : FVal → FVal → Nat
  | .nan, _ | _, .nan => 3
  | .inf s, .inf u => if s == u then 1 else if s then 0 else 2
  | .inf s, .fin _ _ _ => if s then 0 else 2
  | .fin _ _ _, .inf u => if u then 2 else 0
  | .fin s a e, .fin u b f =>
    let k := min e f
    let x := FVal.scaled k (.fin s a e)
    let y := FVal.scaled k (.fin u b f)
    if x < y then 0 else if x = y then 1 else 2

/-! ## Integers and floats (06 R148) -/

/-- A finite value rounded to an integer under a mode. -/
def roundInt (m : Rnd) (neg : Bool) (a : Nat) (e : Int) : Int :=
  let r := scaleRat a 1 e
  let q := roundQuot m neg r.1 r.2
  if neg then -(q : Int) else q

/-- An integer brought into a range. -/
def clampInt (lo hi x : Int) : Int := if x < lo then lo else if hi < x then hi else x

/-- Float to integer of range lo to hi: NaN gives 0, the rest saturates. -/
def fToInt (m : Rnd) (lo hi : Int) : FVal → Int
  | .nan => 0
  | .inf s => if s then lo else hi
  | .fin s a e => clampInt lo hi (roundInt m s a e)

/-- An exact integer as a value. -/
def FVal.ofInt (x : Int) : FVal := .fin (x < 0) x.natAbs 0

/-! ## F32 on words -/

/-- The value of an F32 word. -/
def f32v (w : Word) : FVal := FForm.f32.decode w.toNat

/-- Round to an F32 word. -/
def toF32 (m : Rnd) (v : FVal) : Word := BitVec.ofNat 32 (v.round .f32 false m)

/-- The canonical NaN. -/
def f32Nan : Word := 0x7FC00000#32

/-- RoundF32(a + b, M) (06 R146). -/
def f32Add (m : Rnd) (a b : Word) : Word := toF32 m (fsum m [f32v a, f32v b])

/-- A floating operation on codes, applied to a word or to each half (06 R137, R151). -/
def perHalf (t : Ty) (g : FForm → Nat → Nat → Nat → Nat) (a b c : Word) : Word :=
  match t with
  | .f32 => BitVec.ofNat 32 (g .f32 a.toNat b.toNat c.toNat)
  | _ =>
    let lo := g (fformOf t) (a.toNat % 65536) (b.toNat % 65536) (c.toNat % 65536)
    let hi := g (fformOf t) (a.toNat / 65536) (b.toNat / 65536) (c.toNat / 65536)
    BitVec.ofNat 32 (hi * 65536 + lo)

/-! ## The tagged 4-bit family (06 R140 to R144) -/

/-- A block tag's FMT. -/
def tagFmt (t : Nat) : Nat := t / 4096 % 16
/-- A block tag's QTYPE. -/
def tagQ (t : Nat) : Nat := t / 1024 % 4
/-- A block tag's SE. -/
def tagSE (t : Nat) : Nat := t / 4 % 256
/-- A block tag's SM. -/
def tagSM (t : Nat) : Nat := t % 4

/-- The tag can be decoded for a storage width of 4 or 8 bits (06 R140). -/
def tagOk (four : Bool) (t : Nat) : Bool :=
  if four then tagFmt t == 0 else 1 ≤ tagFmt t && tagFmt t ≤ 3 && tagQ t == 0

/-- A zero block (06 R141). -/
def tagZero (t : Nat) : Bool := tagSE t == 0 && tagSM t == 0

/-- A NaN block (06 R141). -/
def tagNan (t : Nat) : Bool := tagSE t == 255

/-- The block scale, 0 for a zero block and NaN for a NaN block (06 R141). -/
def tagScale (t : Nat) : FVal :=
  if tagNan t then .nan
  else if tagZero t then .fin false 0 0
  else .fin false (4 + tagSM t) ((tagSE t : Int) - 129)

/-- The magnitudes of the codes 0 to 7 of the floating Q4 types, in eighths (06 R143). -/
def q4Mag (q : Nat) (c : Nat) : Nat :=
  match q with
  | 1 => [0, 4, 8, 12, 16, 24, 32, 48].getD c 0
  | 2 => [0, 1, 2, 4, 8, 16, 32, 64].getD c 0
  | _ => [0, 8, 16, 24, 32, 48, 64, 96].getD c 0

/-- The value of a Q4 code (06 R143). -/
def q4Value (q : Nat) (c : Nat) : FVal :=
  if q = 0 then FVal.ofInt (if c < 8 then (c : Int) else (c : Int) - 16)
  else .fin (8 ≤ c) (q4Mag q (c % 8)) (-3)

/-- The better of two candidate codes for num / den: the nearer, on a tie the one whose bit 0 is 0. -/
def q4Better (dist : Nat → Nat) (best c : Nat) : Nat :=
  if dist c < dist best then c
  else if dist c = dist best && c % 2 == 0 then c
  else best

/-- Round (−1)^neg × num / den into a Q4 type (06 R144). -/
def q4Round (q : Nat) (neg : Bool) (num den : Nat) : Nat :=
  if q = 0 then
    let x : Int := (if neg then -1 else 1) * (num : Int)
    let dist := fun (c : Nat) => (x - (if c < 8 then (c : Int) else (c : Int) - 16) * den).natAbs
    (List.range 16).foldl (q4Better dist) 0
  else
    let dist := fun (c : Nat) => ((8 * num : Nat) - (q4Mag q c * den : Nat) : Int).natAbs
    let c := (List.range 8).foldl (q4Better dist) 0
    if neg then c + 8 else c

/-- The nearest Q4 code to x / scale for a scale that is a positive number; an infinity saturates (06 R144). -/
def q4Quot (q : Nat) (x scale : FVal) : Nat :=
  match x, scale with
  | .fin s a e, .fin _ b f =>
    let r := scaleRat a b (e - f)
    q4Round q s r.1 r.2
  | .inf s, _ => if q = 0 then if s then 8 else 7 else if s then 15 else 7
  | _, _ => 0

/-- The least E8M2 scale, as 4 × SE + SM, with x / scale ≤ bound, or the largest (11 R274). x is positive. -/
def leastScale (x : FVal) (bound : Nat) : Nat :=
  match x with
  | .fin _ a e =>
    let l := floorLog2 a bound
    let r := scaleRat (4 * a) bound (-l)
    let n : Int := (l + e + 127) * 4 + (((r.1 + r.2 - 1) / r.2 : Nat) : Int) - 4
    (clampInt 1 1019 n).toNat
  | _ => 1019

/-- A tag of its fields. -/
def mkTag (fmt q n : Nat) : Nat := fmt * 4096 + q * 1024 + n % 1024

/-! ## Special functions (06 R152, R153)

Fixed-point numbers with 400 fraction bits, as integers. Every series stops after enough terms that truncation stays far
below the margin of 2^64 units that `specialRound` allows. -/

/-- One in fixed point. -/
def fixOne : Int := 2 ^ 400

/-- Fixed-point product. -/
def fixMul (a b : Int) : Int := a * b / fixOne

/-- Fixed-point quotient. -/
def fixDiv (a b : Int) : Int := a * fixOne / b

/-- The fixed-point value of a finite number. -/
def fixOf (s : Bool) (a : Nat) (e : Int) : Int :=
  let r := scaleRat a 1 (e + 400)
  let q := ((r.1 / r.2 : Nat) : Int)
  if s then -q else q

/-- Σ sgn^j t z^(2j) / (k + 2j): the series of atanh (sgn 1) and atan (sgn −1). -/
def fixAtanAux (sgn z2 : Int) : Nat → Int → Int → Int
  | 0, _, _ => 0
  | fuel + 1, k, t => t / k + fixAtanAux sgn z2 fuel (k + 2) (sgn * fixMul t z2)

/-- atanh z for |z| ≤ 1/3. -/
def fixAtanh (z : Int) : Int := fixAtanAux 1 (fixMul z z) 140 1 z

/-- ln 2 = 2 atanh(1/3). -/
def fixLn2 : Int := 2 * fixAtanh (fixOne / 3)

/-- arctan(1/n). -/
def fixAtanInv (n : Int) : Int := fixAtanAux (-1) (fixOne / (n * n)) 100 1 (fixOne / n)

/-- π, by Machin's formula. -/
def fixPi : Int := 16 * fixAtanInv 5 - 4 * fixAtanInv 239

/-- Σ t y^j / ((k) (k+1) …): the exponential series. -/
def fixExpAux (y : Int) : Nat → Int → Int → Int
  | 0, _, _ => 0
  | fuel + 1, k, t => t + fixExpAux y fuel (k + 1) (fixMul t y / k)

/-- e^y for 0 ≤ y < 1. -/
def fixExp (y : Int) : Int := fixExpAux y 110 1 fixOne

/-- The alternating series of the sine and cosine: term t, next divisor k (k + 1). -/
def fixSinAux (y2 : Int) : Nat → Int → Int → Int
  | 0, _, _ => 0
  | fuel + 1, k, t => t + fixSinAux y2 fuel (k + 2) (-(fixMul t y2) / (k * (k + 1)))

/-- sin(π f) for 0 ≤ f ≤ 1/2. -/
def fixSinPi (f : Int) : Int :=
  let y := fixMul fixPi f
  fixSinAux (fixMul y y) 80 2 y

/-- The margin of the enclosures. -/
def fixMargin : Int := 2 ^ 64

/-- Round to nearest even the value v × 2^(e − 400), known within the margin; a value whose two ends round apart is
`Config.specialTail` (log 9). -/
def specialRound (fn : Nat) (x : Word) (v : Int) (e : Int) : Word :=
  let r := fun (y : Int) => roundRat .f32 false .rn (y < 0) y.natAbs 1 (e - 400)
  if r (v - fixMargin) = r (v + fixMargin) then BitVec.ofNat 32 (r v)
  else Config.specialTail fn x

/-- 1/x. -/
def sfRcp (x : Word) : Word :=
  BitVec.ofNat 32 (fdivRound .f32 .rn (.fin false 1 0) (f32v x))

/-- 1/√x. -/
def sfRsq (x : Word) : Word :=
  match f32v x with
  | .nan => f32Nan
  | .inf s => if s then f32Nan else 0
  | .fin s a e =>
    if a = 0 then BitVec.ofNat 32 (FForm.f32.infResult false s)
    else if s then f32Nan
    else
      let m := a * 2 ^ (e % 2).toNat
      let n := 2 ^ 256 / m
      let r := isqrt n
      BitVec.ofNat 32 (roundRat .f32 false .rn false
        (2 * r + if r * r * m = 2 ^ 256 then 0 else 1) 1 (-(e / 2) - 129))

/-- 2^x. -/
def sfEx2 (x : Word) : Word :=
  match f32v x with
  | .nan => f32Nan
  | .inf s => if s then 0 else 0x7F800000#32
  | .fin s a e =>
    let fl := roundInt .rd s a e
    if 128 ≤ fl then 0x7F800000#32
    else if fl < -160 then 0
    else
      let f := fixOf s a e - fl * fixOne
      if f = 0 then BitVec.ofNat 32 (roundRat .f32 false .rn false 1 1 fl)
      else specialRound 0 x (fixExp (fixMul f fixLn2)) fl

/-- log2 x. -/
def sfLg2 (x : Word) : Word :=
  match f32v x with
  | .nan => f32Nan
  | .inf s => if s then f32Nan else 0x7F800000#32
  | .fin s a e =>
    if a = 0 then 0xFF800000#32
    else if s then f32Nan
    else
      let l := (a.log2 : Int)
      let n := l + e
      if a = 2 ^ a.log2 then toF32 .rn (FVal.ofInt n)
      else
        let m := fixOf false a (-l)
        let z := fixDiv (m - fixOne) (m + fixOne)
        specialRound 1 x (n * fixOne + fixDiv (2 * fixAtanh z) fixLn2) 0

/-- The fraction of 2^k in a number of 2^e units: (a × 2^e) mod 2, in fixed point. -/
def fixMod2 (a : Nat) (e : Int) : Int :=
  let r := scaleRat a 1 (e + 400)
  ((r.1 / r.2 % 2 ^ 401 : Nat) : Int)

/-- sin(π u) for 0 ≤ u < 2 in fixed point; `none` for an exact 0, 1 or −1 given by the sign. -/
def fixSinTurn (u : Int) : Int :=
  let v := if u < fixOne then u else u - fixOne
  let w := if 2 * v ≤ fixOne then v else fixOne - v
  let r := if 2 * w = fixOne then fixOne else if w = 0 then 0 else fixSinPi w
  if u < fixOne then r else -r

/-- sin(πx). -/
def sfSin (x : Word) : Word :=
  match f32v x with
  | .nan | .inf _ => f32Nan
  | .fin s a e =>
    let u := fixMod2 a e
    if u % fixOne = 0 then BitVec.ofNat 32 (FForm.f32.signed s 0)
    else
      let r := fixSinTurn u
      let r := if s then -r else r
      if r = fixOne then 0x3F800000#32
      else if r = -fixOne then 0xBF800000#32
      else specialRound 2 x r 0

/-- cos(πx) = sin(π(|x| + 1/2)). -/
def sfCos (x : Word) : Word :=
  match f32v x with
  | .nan | .inf _ => f32Nan
  | .fin _ a e =>
    let u := (fixMod2 a e + fixOne / 2) % (2 * fixOne)
    let r := fixSinTurn u
    if r = 0 then 0
    else if r = fixOne then 0x3F800000#32
    else if r = -fixOne then 0xBF800000#32
    else specialRound 3 x r 0

/-- tanh x: with y = e^(2|x|), (y − 1) / (y + 1). From |x| = 64 on the result rounds to 1. -/
def sfTanh (x : Word) : Word :=
  match f32v x with
  | .nan => f32Nan
  | .inf s => BitVec.ofNat 32 (FForm.f32.signed s 0x3F800000)
  | .fin s a e =>
    if a = 0 then x
    else
      let t := 2 * fixOf false a e
      if 128 * fixOne ≤ t then BitVec.ofNat 32 (FForm.f32.signed s 0x3F800000)
      else
        let n := t / fixLn2
        let y := fixExp (t - n * fixLn2) * 2 ^ n.toNat
        let r := fixDiv (y - fixOne) (y + fixOne)
        specialRound 4 x (if s then -r else r) 0

/-! ## Rounding to integers and scaling (09 R211) -/

/-- `frnd`. -/
def fRndInt (m : Rnd) (x : Word) : Word :=
  match f32v x with
  | .nan => f32Nan
  | .inf _ => x
  | .fin s a e =>
    if 0 ≤ e then x
    else BitVec.ofNat 32 (roundRat .f32 false .rn s (roundInt m s a e).natAbs 1 0)

/-- `ffrc`. -/
def fFrac (m : Rnd) (x : Word) : Word :=
  match f32v x with
  | .nan | .inf _ => f32Nan
  | .fin s a e =>
    let fl := roundInt .rd s a e
    match fsum m [.fin s a e, FVal.ofInt (-fl)] with
    | .fin u b f =>
      if b = 0 then 0
      else
        let r := BitVec.ofNat 32 (roundRat .f32 false m u b 1 f)
        if r = 0x3F800000#32 then 0x3F7FFFFF#32 else r
    | _ => f32Nan

/-- `fscale`: the second operand as .i32. -/
def fScale (m : Rnd) (x s : Word) : Word :=
  match f32v x with
  | .nan => f32Nan
  | .inf _ => x
  | .fin g a e => BitVec.ofNat 32 (roundRat .f32 false m g a 1 (e + s.toInt))

end Sys2Proof.Machine
end

