-- ==== Sys2Proof/WellFormed.lean ====
section
/-! DEFINITION. Which instructions the core accepts: step 4 of 08 R192 (codes and ranges, `wf4`) and step 5 (pair flags
and tile alignment, `wf5`); operand kinds are in the types. The machine's events have no encoding and are accepted. -/

namespace Sys2Proof

/-- .i8 to .n64, TY 1 to 8. -/
def Ty.isInt : Ty → Bool
  | .i8 | .n8 | .i16 | .n16 | .i32 | .n32 | .i64 | .n64 => true
  | _ => false

/-- TY 5 to 8. -/
def Ty.isInt32Up : Ty → Bool
  | .i32 | .n32 | .i64 | .n64 => true
  | _ => false

/-- TY 1 to 4. -/
def Ty.isNarrow : Ty → Bool
  | .i8 | .n8 | .i16 | .n16 => true
  | _ => false

/-- TY 9 and 10. -/
def Ty.isRaw : Ty → Bool
  | .b32 | .b64 => true
  | _ => false

/-- TY 11, 17, 18. -/
def Ty.isFloat3 : Ty → Bool
  | .f32 | .f16x2 | .bf16x2 => true
  | _ => false

/-- TY 11 to 15: the scalar floating formats. -/
def Ty.isFloat : Ty → Bool
  | .f32 | .f16 | .bf16 | .e4m3 | .e5m2 => true
  | _ => false

/-- TY 1 to 13: what a load or store may carry (10 R226). -/
def Ty.isMem (t : Ty) : Bool :=
  t.isInt || t.isRaw || t == .f32 || t == .f16 || t == .bf16

/-- A signed type (00 R6). -/
def Ty.isSigned : Ty → Bool
  | .i8 | .i16 | .i32 | .i64 => true
  | _ => false

/-- A type whose values are pairs (09 R195). -/
def Ty.wide : Ty → Bool
  | .i64 | .n64 | .b64 => true
  | _ => false

/-- TY 12 to 15 and 1: the types of the matrix engine but `.q4` (11 R267). -/
def Ty.isMat : Ty → Bool
  | .i8 | .f16 | .bf16 | .e4m3 | .e5m2 => true
  | _ => false

/-- The types of an atomic operation (10 R234); `red` says that the instruction is `red.g`. -/
def AtomOp.tyOk (red : Bool) (t : Ty) : AtomOp → Bool
  | .add | .min | .max => t.isInt32Up || t == .f32
  | .and | .or | .xor => t.isRaw
  | .exch => !red && (t.isInt32Up || t.isRaw || t == .f32)
  | .cas => !red && (t.isInt32Up || t.isRaw)
  | .incb | .decb => !red && t.isInt32Up
  | .addComb => red && t == .f32

/-- The types of a reduction operation (11 R261). -/
def RedOp.tyOk (t : Ty) : RedOp → Bool
  | .add | .min | .max => t.isInt32Up || t == .f32
  | .minn | .maxn => t == .f32
  | .and | .or | .xor => t.isRaw

/-- The user view of the system registers (12 R298): whether the number is listed, and its width. -/
def userReg (num : Word) : Option Bool :=
  match num.toNat with
  | 0x0000 | 0x0010 | 0x0011 | 0x0012 | 0x0013 | 0x0014 | 0x0020 | 0x0021 | 0x0030 | 0x0031 =>
    some false
  | 0x0040 => some true
  | _ => none

/-- An unused slot is encoded 0x0000, which reads as g0. -/
def Src.unused : Src := .reg (.g 0 false)

/-- The first register of eight fits its file (09 R214, R215). -/
def Reg.eightOk : Reg → Bool
  | .g n _ => n.toNat ≤ 56
  | .s n _ => n.toNat ≤ 24

/-- Two registers share a word, the first one read with its pair. -/
def Reg.overlaps : Reg → Reg → Bool
  | .g n p, .g m _ => n == m || (p && n.toNat + 1 == m.toNat)
  | .s n p, .s m _ => n == m || (p && n.toNat + 1 == m.toNat)
  | _, _ => false

/-- The rounding code of `redux` and `scan`: any for an .f32 add, else 0 (11 R258). -/
def redRndOk (op : RedOp) (t : Ty) (m : Rnd) : Bool :=
  m == .rn || (op == .add && t == .f32)

/-- Step 4 of 08 R192: every code and range that the instruction's own entry accepts. -/
def Instr.wf4 : Instr → Bool
  | .add _ t .. | .addXi _ t .. | .sub _ t .. | .subXi _ t .. | .mulLo _ t .. | .mulLoXi _ t ..
  | .min _ t .. | .minXi _ t .. | .max _ t .. | .maxXi _ t .. | .neg _ t .. | .saddSat _ t ..
  | .ssubSat _ t .. => t.isInt
  | .iadd3 _ t .. | .mulHi _ t .. | .madLo _ t .. | .madHi _ t .. | .div _ t .. | .rem _ t ..
  | .bfe _ t .. | .lea _ t .. => t.isInt32Up
  | .mulWide _ t .. | .madWide _ t .. => t == .i32 || t == .n32
  | .abs _ t .. => t.isSigned
  | .and _ t .. | .andXi _ t .. | .or _ t .. | .orXi _ t .. | .xor _ t .. | .xorXi _ t ..
  | .not _ t .. | .andn _ t .. | .shl _ t .. | .shr _ t .. | .rol _ t .. | .ror _ t ..
  | .bfi _ t .. | .bfrev _ t .. | .popc _ t .. | .clz _ t .. | .ctz _ t .. => t.isRaw
  | .sar _ t .. => t == .i32 || t == .i64
  | .addc _ t .. | .subb _ t .. => t == .n32 || t == .n64
  | .fadd _ t .. | .faddXi _ t .. | .fmul _ t .. | .fmulXi _ t .. | .ffma _ t .. | .fmin _ t ..
  | .fminXi _ t .. | .fmax _ t .. | .fmaxXi _ t .. | .fminn _ t .. | .fmaxn _ t .. | .fabs _ t ..
  | .fneg _ t .. | .fsgn _ t .. => t.isFloat3
  | .fdot2 _ t .. => t == .f16x2 || t == .bf16x2
  | .cvt _ t s _ sat .. =>
    (t.isInt || t.isFloat) && (s.isInt || s.isFloat) && t != s &&
      (!sat || (t.isInt && s.isInt) || (s.isFloat && (t == .e4m3 || t == .e5m2)))
  | .cvtPack _ t _ _ _ _ c =>
    ((t == .f16x2 || t == .bf16x2) && c == Src.unused) || t == .e4m3x4 || t == .e5m2x4
  | .qpack _ d a _ c => a.eightOk && !d.overlaps c
  | .qunpack _ _ d _ _ => d.eightOk
  | .pack _ t _ _ _ _ c =>
    (t == .i8 || t == .n8) || ((t == .i16 || t == .n16) && c == Src.unused)
  | .unpack _ t .. => t.isNarrow
  | .setp _ cmp t .. => t.isInt || (t.isRaw && (cmp == .eq || cmp == .ne))
  | .fsetp _ mask .. => mask != 0 && mask != 15
  | .ldG _ t .. | .stG _ t .. | .ldS _ t .. | .stS _ t .. | .ldRo _ t .. | .mcst _ t ..
  | .ldAcq _ t .. => t.isMem
  | .stRel _ sc t .. => t.isMem && sc != .win
  | .atomG _ op t .. | .atomS _ op t .. => op.tyOk false t
  | .redG _ op t .. => op.tyOk true t
  | .shfl _ _ t .. | .peers _ _ t .. | .lexpand _ t .. => t.isRaw
  | .lcompress _ t d _ _ c => t.isRaw && !d.overlaps c
  | .redux _ op t m .. => op.tyOk t && redRndOk op t m
  | .scan _ op _ t m .. => op.tyOk t && redRndOk op t m
  | .segscan _ _ t .. => t.isInt32Up || t.isRaw || t == .f32
  | .segred _ t .. => t.isInt32Up || t.isRaw || t == .f32
  | .mma _ _ t _ _ _ tag => (t.isMat && tag == 0) || t == .q4
  | .mmaSp _ _ t .. => t.isMat || t == .q4
  | .sprune _ t .. | .mdist _ _ t .. => t.isMat
  | .mtopk _ _ t .. | .accp _ t .. => t == .i32 || t == .f32
  | .acsc _ t var .. =>
    ((t == .f16 || t == .bf16) && var == 0) || ((t == .e4m3 || t == .e5m2) && var.toNat ≤ 1) ||
      t == .q4
  | .crdOpen _ op _ _ db => (op != .enum && op != .expand) || db == Src.unused
  | .crdNext _ d _ p => d.toNat ≤ 61 && 1 ≤ p.toNat && p.toNat ≤ 12
  | .srd _ wide _ num =>
    num.toNat < 0x10000 && (0x8000 ≤ num.toNat || userReg num == some wide)
  | .swr _ _ num _ => num.toNat < 0x10000
  | _ => true

/-- A register slot of one word or a pair: flag and even index (08 R185, R186). -/
def Reg.ok (wide : Bool) : Reg → Bool
  | .g n pair => pair == wide && (!pair || n.toNat % 2 == 0)
  | .s n pair => pair == wide && (!pair || n.toNat % 2 == 0)

/-- The 64-bit specials (07 R161). -/
def Special.wide : Special → Bool
  | .param | .data | .clk => true
  | _ => false

/-- A value source of one word or a pair (08 R185, R186, 07 R161). -/
def Src.ok (wide : Bool) : Src → Bool
  | .reg r => r.ok wide
  | .special x pair => pair == wide && (!pair || x.wide)
  | .imm _ => !wide

/-- The pair flag of a slot that may hold a word or a pair (`mov`, `movi`, `sel`). -/
def Reg.pair : Reg → Bool
  | .g _ p => p
  | .s _ p => p

/-- Step 5 of 08 R192 beyond the operand kinds, which the types hold: pair flags by width, even indexes, tiles aligned
as 11 R267 names them. That a misaligned tile or gM fails here and not at step 4, and that slot A of an XI form takes every kind of
value source, are choices of the model (log 98). -/
def Instr.wf5 : Instr → Bool
  | .add _ t d a b | .sub _ t d a b | .mulLo _ t d a b | .mulHi _ t d a b | .div _ t d a b
  | .rem _ t d a b | .min _ t d a b | .max _ t d a b | .saddSat _ t d a b | .ssubSat _ t d a b
  | .and _ t d a b | .or _ t d a b | .xor _ t d a b | .andn _ t d a b =>
    d.ok t.wide && a.ok t.wide && b.ok t.wide
  | .addXi _ t d a _ | .subXi _ t d a _ | .mulLoXi _ t d a _ | .minXi _ t d a _
  | .maxXi _ t d a _ | .andXi _ t d a _ | .orXi _ t d a _ | .xorXi _ t d a _ =>
    d.ok t.wide && a.ok t.wide
  | .addc _ t d a b _ | .subb _ t d a b _ => d.ok t.wide && a.ok t.wide && b.ok t.wide
  | .iadd3 _ t d a b c | .madLo _ t d a b c | .madHi _ t d a b c =>
    d.ok t.wide && a.ok t.wide && b.ok t.wide && c.ok t.wide
  | .mulWide _ _ d a b => d.ok true && a.ok false && b.ok false
  | .madWide _ _ d a b c => d.ok true && a.ok false && b.ok false && c.ok true
  | .abs _ t d a | .neg _ t d a | .not _ t d a | .bfrev _ t d a => d.ok t.wide && a.ok t.wide
  | .shl _ t d a b | .shr _ t d a b | .sar _ t d a b | .rol _ t d a b | .ror _ t d a b
  | .bfe _ t d a b => d.ok t.wide && a.ok t.wide && b.ok false
  | .bfi _ t d a b c => d.ok t.wide && a.ok t.wide && b.ok t.wide && c.ok false
  | .popc _ t d a | .clz _ t d a | .ctz _ t d a => d.ok false && a.ok t.wide
  | .lea _ t d a b c => d.ok true && a.ok true && b.ok t.wide && c.ok false
  | .mov _ d a => d.ok d.pair && a.ok d.pair
  | .movi _ d _ => d.ok d.pair
  | .sel _ d a b _ => d.ok d.pair && a.ok d.pair && b.ok d.pair
  | .fadd _ _ _ d a b | .fmul _ _ _ d a b | .fmin _ _ d a b | .fmax _ _ d a b
  | .fminn _ _ d a b | .fmaxn _ _ d a b | .fsgn _ _ d a b | .fsub _ _ d a b | .fdiv _ _ d a b
  | .fscale _ _ d a b | .unpack _ _ d a b | .qunpack _ _ d a b =>
    d.ok false && a.ok false && b.ok false
  | .faddXi _ _ _ d a _ | .fmulXi _ _ _ d a _ | .fminXi _ _ d a _ | .fmaxXi _ _ d a _
  | .fabs _ _ d a | .fneg _ _ d a | .fsqrt _ _ d a | .frcp _ _ d a | .frsq _ _ d a
  | .fex2 _ _ d a | .flg2 _ _ d a | .fsin _ _ d a | .fcos _ _ d a | .ftanh _ _ d a
  | .frnd _ _ d a | .ffrc _ _ d a => d.ok false && a.ok false
  | .ffma _ _ _ d a b c | .fdot2 _ _ _ d a b c | .cvtPack _ _ _ d a b c | .bsel _ d a b c
  | .pack _ _ _ d a b c => d.ok false && a.ok false && b.ok false && c.ok false
  | .cvt _ t s _ _ d a => d.ok t.wide && a.ok s.wide
  | .qpack _ d a b c => d.ok false && a.ok false && b.ok false && c.ok false
  | .setp _ _ t _ a b => a.ok t.wide && b.ok t.wide
  | .fsetp _ _ _ a b | .fclass _ _ a b => a.ok false && b.ok false
  | .pmovGet _ d => d.ok false
  | .pmovPut _ d a => d.ok false && a.ok false
  | .braInd _ a | .callInd _ a => a.ok false
  | .ldG _ t _ d b _ | .ldRo _ t _ d b _ | .ldAcq _ t _ d b _ => d.ok t.wide && b.ok true
  | .ldS _ t d b _ => d.ok t.wide && b.ok false
  | .stG _ t _ v b _ | .mcst _ t v b _ | .stRel _ _ t _ v b _ => v.ok t.wide && b.ok true
  | .stS _ t v b _ => v.ok t.wide && b.ok false
  | .pfRo _ b _ | .mig _ b _ => b.ok true
  | .atomG _ _ t _ d b _ v => d.ok t.wide && b.ok true && v.ok t.wide
  | .atomS _ _ t d b _ v => d.ok t.wide && b.ok false && v.ok t.wide
  | .redG _ _ t _ v b _ => v.ok t.wide && b.ok true
  | .spawnAt _ _ a _ _ => a.ok true
  | .launch _ d a b => d.ok true && a.ok true && b.ok false
  | .shfl _ _ t d a b c => d.ok t.wide && a.ok t.wide && b.ok false && c.ok false
  | .lpred _ op d _ =>
    (match op, d with
     | .mask, .reg r => r.ok true
     | .count, .reg r | .first, .reg r => r.ok false
     | .every, .pred _ | .some, .pred _ | .same, .pred _ => true
     | _, _ => false)
  | .redux _ _ t _ d a | .scan _ _ _ t _ d a => d.ok t.wide && a.ok t.wide
  | .segscan _ _ t d a _ c | .segred _ t d a _ c => d.ok t.wide && a.ok t.wide && c.ok false
  | .peers _ op t d a => d.ok (op == .mask || op == .uniform) && a.ok t.wide
  | .lcompress _ t d a _ c => d.ok t.wide && a.ok t.wide && c.ok false
  | .lexpand _ t d a _ c => d.ok t.wide && a.ok t.wide && c.ok t.wide
  | .mma _ _ _ _ a off tag => a.toNat % 2 == 0 && off.ok false && tag.toNat % 4 == 0
  | .mmaSp _ _ t _ a off md =>
    a.toNat % 2 == 0 && off.ok false && (t != .q4 || md.toNat % 2 == 0)
  | .sprune _ _ d a _ => d.toNat % 2 == 0 && a.toNat % 4 == 0
  | .mdist _ _ _ _ a off => a.toNat % 2 == 0 && off.ok false
  | .mtopk _ _ _ d _ g0 k => d.toNat % 4 == 0 && g0.ok false && k.ok false
  | .acz _ _ n | .accp _ _ _ _ n => n.ok false
  | .acld _ _ off n _ | .acst _ _ off n _ => off.ok false && n.ok false
  | .acsc _ _ _ off _ n f => off.ok false && n.ok false && f.ok false
  | .tcopy _ _ off | .gather _ _ off => off.ok false
  | .crdOpen _ _ c da db => c.ok false && da.ok false && db.ok false
  | .crdSplit _ c n i => c.ok false && n.ok false && i.ok false
  | .crdNext _ _ c _ | .crdClose _ c => c.ok false
  | .crdSave _ sp c b | .crdLoad _ sp c b => c.ok false && b.ok (!sp)
  | .spill _ sp _ _ b n | .fill _ sp _ _ b n =>
    n.ok false && (match sp, b with
      | true, _ => b.ok false
      | false, .reg r => r.ok true
      | false, _ => false)
  | .rclaim _ k | .rgive _ k | .barTree _ k | .trap _ k | .tlbinvAll _ k | .roinvAll _ k =>
    k.ok false
  | .arrive _ off n | .waitCtr _ off n => off.ok false && n.ok false
  | .srd _ wide d _ => d.ok wide
  | .swr _ wide _ a => a.ok wide
  | .tlbinvPage _ v a | .roinvPage _ v a => v.ok false && a.ok true
  | _ => true

/-- An instruction that passes steps 4 and 5 of 08 R192. -/
def WellFormed (i : Instr) : Bool := i.wf4 && i.wf5

end Sys2Proof
end

