-- ==== Sys2Proof/Decode.lean ====
section
/-! DEFINITION. Decoding of Wilbex parcels (08 R170 to R192, steps 1 to 5) and the encoder. A long word is unpacked into
its fields (`Fields`), the fields are built into an instruction, and the instruction's own fields are compared with the
word's, so that every reserved bit and unused slot is checked. -/

namespace Sys2Proof

/-! ## Rejections -/

/-- Why an encoding is rejected: the steps of 08 R192. -/
inductive DecErr where
  /-- step 1: a parcel beyond the code, reserved bits of a short parcel, an index beyond the dictionary -/
  | parcel
  /-- step 2: bit 95 set -/
  | bit95
  /-- step 3: unassigned opcode -/
  | opcode
  /-- step 4: reserved field, unused slot, code, or operand range -/
  | code
  /-- step 5: operand kind, pair flag, index, special -/
  | operand
  deriving DecidableEq, Repr

/-- The number of the step, which is the KIND of the ILLEGAL_OP (12 R303). -/
def DecErr.step : DecErr → Nat
  | .parcel => 1
  | .bit95 => 2
  | .opcode => 3
  | .code => 4
  | .operand => 5

/-! ## Codes -/

/-- Type codes (08 R181). -/
def Ty.code : Ty → BitVec 5
  | .none => 0 | .i8 => 1 | .n8 => 2 | .i16 => 3 | .n16 => 4 | .i32 => 5 | .n32 => 6 | .i64 => 7
  | .n64 => 8 | .b32 => 9 | .b64 => 10 | .f32 => 11 | .f16 => 12 | .bf16 => 13 | .e4m3 => 14
  | .e5m2 => 15 | .q4 => 16 | .f16x2 => 17 | .bf16x2 => 18 | .e4m3x4 => 19 | .e5m2x4 => 20

/-- The type of a code; 21 to 31 are none (08 R181). -/
def Ty.ofCode (c : BitVec 5) : Option Ty :=
  match c.toNat with
  | 0 => some .none | 1 => some .i8 | 2 => some .n8 | 3 => some .i16 | 4 => some .n16
  | 5 => some .i32 | 6 => some .n32 | 7 => some .i64 | 8 => some .n64 | 9 => some .b32
  | 10 => some .b64 | 11 => some .f32 | 12 => some .f16 | 13 => some .bf16 | 14 => some .e4m3
  | 15 => some .e5m2 | 16 => some .q4 | 17 => some .f16x2 | 18 => some .bf16x2
  | 19 => some .e4m3x4 | 20 => some .e5m2x4 | _ => Option.none

/-- Rounding codes (06 R145). -/
def Rnd.code : Rnd → BitVec 2
  | .rn => 0 | .rz => 1 | .rd => 2 | .ru => 3

/-- The rounding mode of a code (06 R145). -/
def Rnd.ofCode (c : BitVec 2) : Rnd :=
  match c.toNat with
  | 0 => .rn | 1 => .rz | 2 => .rd | _ => .ru

/-- Comparison codes (09 R218). -/
def Cmp.code : Cmp → BitVec 6
  | .eq => 0 | .ne => 1 | .lt => 2 | .le => 3 | .gt => 4 | .ge => 5

/-- The comparison of a code (09 R218). -/
def Cmp.ofCode (c : BitVec 6) : Option Cmp :=
  match c.toNat with
  | 0 => some .eq | 1 => some .ne | 2 => some .lt | 3 => some .le | 4 => some .gt
  | 5 => some .ge | _ => none

/-- Operation codes of the M format (08 R182). -/
def AtomOp.code : AtomOp → BitVec 4
  | .add => 1 | .min => 2 | .max => 3 | .and => 4 | .or => 5 | .xor => 6 | .exch => 7 | .cas => 8
  | .incb => 9 | .decb => 10 | .addComb => 11

/-- The atomic operation of a code (08 R182). -/
def AtomOp.ofCode (c : BitVec 4) : Option AtomOp :=
  match c.toNat with
  | 1 => some .add | 2 => some .min | 3 => some .max | 4 => some .and | 5 => some .or
  | 6 => some .xor | 7 => some .exch | 8 => some .cas | 9 => some .incb | 10 => some .decb
  | 11 => some .addComb | _ => none

/-- Scope codes (08 R182). -/
def Scope.code : Scope → BitVec 3
  | .core => 1 | .die => 2 | .pkg => 3 | .fab => 4 | .win => 5

/-- The scope of a code (08 R182). -/
def Scope.ofCode (c : Nat) : Option Scope :=
  match c with
  | 1 => some .core | 2 => some .die | 3 => some .pkg | 4 => some .fab | 5 => some .win
  | _ => none

/-- Modes of `shfl` (11 R258). -/
def ShflMode.code : ShflMode → BitVec 2
  | .idx => 0 | .up => 1 | .down => 2 | .xor => 3

/-- The mode of a VAR code (11 R258). -/
def ShflMode.ofCode (c : BitVec 2) : ShflMode :=
  match c.toNat with
  | 0 => .idx | 1 => .up | 2 => .down | _ => .xor

/-- Operations of `lpred` (11 R258). -/
def LpredOp.code : LpredOp → BitVec 6
  | .mask => 0 | .count => 1 | .first => 2 | .every => 3 | .some => 4 | .same => 5

/-- The operation of a SUB code (11 R258). -/
def LpredOp.ofCode (c : BitVec 6) : Option LpredOp :=
  match c.toNat with
  | 0 => Option.some .mask | 1 => Option.some .count | 2 => Option.some .first
  | 3 => Option.some .every | 4 => Option.some .some | 5 => Option.some .same | _ => none

/-- Operations of `redux` and `scan` (11 R261). -/
def RedOp.code : RedOp → BitVec 3
  | .add => 0 | .min => 1 | .max => 2 | .minn => 3 | .maxn => 4 | .and => 5 | .or => 6 | .xor => 7

/-- The operation of a three-bit code (11 R261). -/
def RedOp.ofCode (c : BitVec 3) : RedOp :=
  match c.toNat with
  | 0 => .add | 1 => .min | 2 => .max | 3 => .minn | 4 => .maxn | 5 => .and | 6 => .or | _ => .xor

/-- Operations of `peers` (11 R258). -/
def PeersOp.code : PeersOp → BitVec 6
  | .mask => 0 | .leader => 1 | .rank => 2 | .uniform => 3

/-- The operation of a SUB code (11 R258). -/
def PeersOp.ofCode (c : BitVec 6) : Option PeersOp :=
  match c.toNat with
  | 0 => some .mask | 1 => some .leader | 2 => some .rank | 3 => some .uniform | _ => none

/-- Operations of `crd.open` (12 R278). -/
def CrdOp.code : CrdOp → BitVec 7
  | .enum => 0 | .intersect => 1 | .union => 2 | .diff => 3 | .expand => 4

/-- The operation of a CMD code (12 R278). -/
def CrdOp.ofCode (c : BitVec 7) : Option CrdOp :=
  match c.toNat with
  | 0 => some .enum | 1 => some .intersect | 2 => some .union | 3 => some .diff
  | 4 => some .expand | _ => none

/-- The indexes of the specials (07 R161). -/
def Special.code : Special → BitVec 12
  | .lane => 0 | .grpX => 1 | .grpY => 2 | .grpZ => 3 | .team => 4 | .role => 5 | .core => 6
  | .pkg => 7 | .width => 8 | .vf => 9 | .depth => 10 | .principal => 11 | .param => 12
  | .data => 14 | .clk => 16

/-- The special of an index (07 R161). -/
def Special.ofCode (c : BitVec 12) : Option Special :=
  match c.toNat with
  | 0 => some .lane | 1 => some .grpX | 2 => some .grpY | 3 => some .grpZ | 4 => some .team
  | 5 => some .role | 6 => some .core | 7 => some .pkg | 8 => some .width | 9 => some .vf
  | 10 => some .depth | 11 => some .principal | 12 => some .param | 14 => some .data
  | 16 => some .clk | _ => none

/-! ## The operand field (08 R185) -/

/-- Kind, pair flag and index of an operand. -/
def operand (kind : BitVec 3) (pair : Bool) (index : BitVec 12) : BitVec 16 :=
  kind ++ BitVec.ofBool pair ++ index

/-- The field of a register. -/
def Reg.enc : Reg → BitVec 16
  | .g n p => operand 0 p (n.setWidth 12)
  | .s n p => operand 1 p (n.setWidth 12)

/-- The field of a value source. -/
def Src.enc : Src → BitVec 16
  | .reg r => r.enc
  | .special x p => operand 4 p x.code
  | .imm v => operand 5 false v

/-- The field of a predicate. -/
def predEnc (p : PReg) : BitVec 16 := operand 3 false (p.setWidth 12)
/-- The field of a tile. -/
def tileEnc (t : Tile) : BitVec 16 := operand 2 false (t.setWidth 12)
/-- The field of an accumulator row. -/
def rowEnc (r : Row) : BitVec 16 := operand 6 false r
/-- The field of a lane register named alone. -/
def gEnc (g : GReg) : BitVec 16 := operand 0 false (g.setWidth 12)

/-- The field of the tags of `mma` (11 R267, log 74). -/
def tagEnc (t : Ty) (g : GReg) : BitVec 16 := operand 0 (t == .q4) (g.setWidth 12)

/-- The field of an `lpred` destination. -/
def VDst.enc : VDst → BitVec 16
  | .reg r => r.enc
  | .pred p => predEnc p

/-- An operand read from a slot, and whether its field passes step 5 of 08 R192. Where it does not, the operand is
a stand-in that no other check sees. -/
structure Slot (α : Type) where
  val : α
  ok : Bool

/-- The kind of an operand field. -/
def kindOf (w : BitVec 16) : BitVec 3 := w.extractLsb' 13 3
/-- The pair flag of an operand field. -/
def pairOf (w : BitVec 16) : Bool := w.getLsbD 12
/-- The index of an operand field. -/
def indexOf (w : BitVec 16) : BitVec 12 := w.extractLsb' 0 12

/-- A lane or uniform register; a pair has an even index. -/
def regOf (w : BitVec 16) : Slot Reg :=
  let n := indexOf w
  let p := pairOf w
  if kindOf w == 0 && n.toNat < 64 then ⟨.g (n.setWidth 6) p, !p || n.toNat % 2 == 0⟩
  else if kindOf w == 1 && n.toNat < 32 then ⟨.s (n.setWidth 5) p, !p || n.toNat % 2 == 0⟩
  else ⟨.g 0 false, false⟩

/-- The field names a register, whatever its pair flag says: the ranges of step 4 apply to it (08 R192). -/
def namesReg (w : BitVec 16) : Bool :=
  (kindOf w == 0 && (indexOf w).toNat < 64) || (kindOf w == 1 && (indexOf w).toNat < 32)

/-- A register of the file that a register is not in. -/
def Reg.otherFile : Reg → Reg
  | .g _ _ => .s 0 false
  | .s _ _ => .g 0 false

/-- Two registers that must not be one (slots D and C): a field that names no register gets a stand-in of the other file, so that
it fails step 5 and not the comparison of step 4. -/
def regsApart (wd wc : BitVec 16) : Slot Reg × Slot Reg :=
  let d := regOf wd
  let c := regOf wc
  let d := if namesReg wd then d else ⟨c.val.otherFile, false⟩
  (d, if namesReg wc then c else ⟨d.val.otherFile, false⟩)

/-- A value source (08 R186). -/
def srcOf (w : BitVec 16) : Slot Src :=
  if kindOf w == 4 then
    match Special.ofCode (indexOf w) with
    | some x => ⟨.special x (pairOf w), true⟩
    | none => ⟨Src.unused, false⟩
  else if kindOf w == 5 then ⟨.imm (indexOf w), !pairOf w⟩
  else ⟨.reg (regOf w).val, (regOf w).ok⟩

/-- A slot that this form does not use reads as unused, whatever it holds; comparison of the fields then rejects a
nonzero slot. -/
def srcIf (used : Bool) (w : BitVec 16) : Slot Src :=
  if used then srcOf w else ⟨Src.unused, true⟩

/-- A predicate. -/
def predOf (w : BitVec 16) : Slot PReg :=
  if kindOf w == 3 && (indexOf w).toNat < 16 then ⟨(indexOf w).setWidth 4, !pairOf w⟩
  else ⟨1, false⟩

/-- A tile. -/
def tileOf (w : BitVec 16) : Slot Tile :=
  if kindOf w == 2 && !pairOf w && (indexOf w).toNat < 8 then ⟨(indexOf w).setWidth 3, true⟩
  else ⟨0, false⟩

/-- An accumulator row. -/
def rowOf (w : BitVec 16) : Slot Row :=
  if kindOf w == 6 && !pairOf w then ⟨indexOf w, true⟩ else ⟨0, false⟩

/-- A single lane register. -/
def gOf (w : BitVec 16) : Slot GReg :=
  if kindOf w == 0 && (indexOf w).toNat < 64 then ⟨(indexOf w).setWidth 6, !pairOf w⟩
  else ⟨0, false⟩

/-- The first register of the A tags of `mma.q4`, a 64-bit value and so a pair (11 R269, 08 R186; log 74); 0 where the type has no tags. -/
def tagOf (used : Bool) (w : BitVec 16) : Slot GReg :=
  if !used then ⟨0, true⟩
  else if kindOf w == 0 && (indexOf w).toNat < 64 then ⟨(indexOf w).setWidth 6, pairOf w⟩
  else ⟨0, false⟩

/-- A destination of `lpred`. -/
def vdstOf (w : BitVec 16) : Slot VDst :=
  if kindOf w == 3 then ⟨.pred (predOf w).val, (predOf w).ok⟩
  else ⟨.reg (regOf w).val, (regOf w).ok⟩

/-! ## Formats (08 R174 to R184) -/

/-- The six formats. -/
inductive Fmt where
  | x3 | x4 | xi | m | b | e
  deriving DecidableEq, Repr

/-- The fields of every format in one record; a field that a format lacks is 0. DATA, BASE and AUX of M are `d`, `a`, `b`;
OPND of B is `a`, OFF is `imm`; VAR is `rnd`. -/
structure Fields where
  op : BitVec 9
  h : Hdr := ⟨0, false, 0⟩
  d : BitVec 16 := 0
  a : BitVec 16 := 0
  b : BitVec 16 := 0
  c : BitVec 16 := 0
  ty : BitVec 5 := 0
  ty2 : BitVec 5 := 0
  rnd : BitVec 2 := 0
  sat : Bool := false
  sub : BitVec 6 := 0
  imm : BitVec 32 := 0
  scope : BitVec 3 := 0
  mop : BitVec 4 := 0
  tf : Bool := false
  disp : BitVec 10 := 0
  nreg : BitVec 4 := 0
  cmd : BitVec 7 := 0
  deriving DecidableEq, Repr

/-- Bits 95 to 72 of the frame (08 R174). -/
def frameBits (f : Fields) : BitVec 24 :=
  BitVec.ofBool false ++ f.op ++ BitVec.ofBool f.h.neg ++ f.h.guard ++ f.h.hints

/-- The word of the fields in a format. -/
def Fields.pack (fmt : Fmt) (f : Fields) : BitVec 96 :=
  match fmt with
  | .x3 => frameBits f ++ f.d ++ f.a ++ f.b ++ f.ty ++ f.rnd ++ BitVec.ofBool f.sat ++ 0#1 ++
      f.ty2 ++ f.sub ++ 0#4
  | .x4 => frameBits f ++ f.d ++ f.a ++ f.b ++ f.c.extractLsb' 8 8 ++ 0#1 ++ f.ty ++ f.rnd ++
      f.c.extractLsb' 0 8
  | .xi => frameBits f ++ f.d ++ f.a ++ f.imm.extractLsb' 8 24 ++ 0#1 ++ f.ty ++ f.rnd ++
      f.imm.extractLsb' 0 8
  | .m => frameBits f ++ f.d ++ f.a ++ f.b ++ f.ty ++ f.scope ++ 0#1 ++ f.mop ++
      BitVec.ofBool f.tf ++ f.disp
  | .b => frameBits f ++ f.imm ++ f.a ++ f.nreg ++ BitVec.ofBool f.tf ++ 0#19
  | .e => frameBits f ++ f.d ++ f.a ++ f.b ++ f.c.extractLsb' 8 8 ++ 0#1 ++ f.cmd ++
      f.c.extractLsb' 0 8

/-- The opcode of a word, bits 94 to 86. -/
def opcodeOf (w : BitVec 96) : BitVec 9 := w.extractLsb' 86 9

/-- The guard and hints of a word. -/
def hdrOf (w : BitVec 96) : Hdr := ⟨w.extractLsb' 81 4, w.getLsbD 85, w.extractLsb' 72 9⟩

/-- Operand C of X4 and E, which is split (08 R178). -/
def splitC (w : BitVec 96) : BitVec 16 := w.extractLsb' 16 8 ++ w.extractLsb' 0 8

/-- The fields of a word in a format. -/
def Fields.unpack (fmt : Fmt) (w : BitVec 96) : Fields :=
  let d : BitVec 16 := w.extractLsb' 56 16
  let a : BitVec 16 := w.extractLsb' 40 16
  let b : BitVec 16 := w.extractLsb' 24 16
  match fmt with
  | .x3 =>
    { op := opcodeOf w, h := hdrOf w, d := d, a := a, b := b, ty := w.extractLsb' 19 5
      rnd := w.extractLsb' 17 2, sat := w.getLsbD 16, ty2 := w.extractLsb' 10 5
      sub := w.extractLsb' 4 6 }
  | .x4 =>
    { op := opcodeOf w, h := hdrOf w, d := d, a := a, b := b, c := splitC w
      ty := w.extractLsb' 10 5, rnd := w.extractLsb' 8 2 }
  | .xi =>
    { op := opcodeOf w, h := hdrOf w, d := d, a := a
      imm := w.extractLsb' 16 24 ++ w.extractLsb' 0 8
      ty := w.extractLsb' 10 5, rnd := w.extractLsb' 8 2 }
  | .m =>
    { op := opcodeOf w, h := hdrOf w, d := d, a := a, b := b, ty := w.extractLsb' 19 5
      scope := w.extractLsb' 16 3, mop := w.extractLsb' 11 4, tf := w.getLsbD 10
      disp := w.extractLsb' 0 10 }
  | .b =>
    { op := opcodeOf w, h := hdrOf w, imm := w.extractLsb' 40 32, a := b
      nreg := w.extractLsb' 20 4, tf := w.getLsbD 19 }
  | .e =>
    { op := opcodeOf w, h := hdrOf w, d := d, a := a, b := b, c := splitC w
      cmd := w.extractLsb' 8 7 }

/-- The format of each assigned opcode; none for an unassigned one (08 R189). -/
def formatOf (op : BitVec 9) : Option Fmt :=
  let n := op.toNat
  if n < 0x040 then
    if n == 0x002 || n == 0x003 || n == 0x004 || (0x008 ≤ n && n ≤ 0x00A) || n == 0x01D ||
        n == 0x01E || n == 0x023 || n == 0x025 then some .x4
    else if n ≤ 0x025 then some .x3
    else if n ≤ 0x02E then some .xi
    else none
  else if n < 0x080 then
    if n == 0x043 || n == 0x057 then some .x4
    else if n ≤ 0x056 then some .x3
    else if n ≤ 0x05B then some .xi
    else none
  else if n < 0x0C0 then
    if n == 0x081 || n == 0x082 || n == 0x084 || n == 0x085 then some .x4
    else if n ≤ 0x086 then some .x3
    else none
  else if n < 0x100 then
    if 0x0C8 ≤ n && n ≤ 0x0CC then some .b
    else if n ≤ 0x0CF then some .x3
    else none
  else if n < 0x140 then
    if n == 0x10A || n == 0x10E || n == 0x111 then some .x3
    else if n == 0x10F || n == 0x110 then some .b
    else if n ≤ 0x10D then some .m
    else none
  else if n < 0x180 then
    if (0x141 ≤ n && n ≤ 0x143) || n == 0x146 || n == 0x149 || n == 0x165 then some .x3
    else if n ≤ 0x148 || (0x160 ≤ n && n ≤ 0x169) then some .x4
    else none
  else if n < 0x1C0 then
    if n ≤ 0x18B then some .e else none
  else
    if n == 0x1C7 || n == 0x1C8 then some .xi
    else if n ≤ 0x1CB then some .x3
    else none

/-! ## From an instruction to its fields -/

/-- Fields of a three-slot instruction with a type. -/
def f3 (op : BitVec 9) (h : Hdr) (t : Ty) (d a b : BitVec 16) : Fields :=
  { op := op, h := h, ty := t.code, d := d, a := a, b := b }

/-- As `f3`, with a rounding code. -/
def f3r (op : BitVec 9) (h : Hdr) (t : Ty) (m : Rnd) (d a b : BitVec 16) : Fields :=
  { op := op, h := h, ty := t.code, rnd := m.code, d := d, a := a, b := b }

/-- Fields of a four-slot instruction with a type and a rounding or variant code. -/
def f4 (op : BitVec 9) (h : Hdr) (t : Ty) (v : BitVec 2) (d a b c : BitVec 16) : Fields :=
  { op := op, h := h, ty := t.code, rnd := v, d := d, a := a, b := b, c := c }

/-- Fields of an immediate form. -/
def fi (op : BitVec 9) (h : Hdr) (t : Ty) (m : Rnd) (d a : BitVec 16) (imm : Word) : Fields :=
  { op := op, h := h, ty := t.code, rnd := m.code, d := d, a := a, imm := imm }

/-- Fields of a memory access. -/
def fm (op : BitVec 9) (h : Hdr) (t : Ty) (tf : Bool) (d a : BitVec 16) (disp : BitVec 10) : Fields :=
  { op := op, h := h, ty := t.code, tf := tf, d := d, a := a, disp := disp }

/-- Fields of an engine command. -/
def fe (op : BitVec 9) (h : Hdr) (cmd : BitVec 7) (d a b c : BitVec 16) : Fields :=
  { op := op, h := h, cmd := cmd, d := d, a := a, b := b, c := c }

/-- Fields of an X3 instruction without a type, with a SUB code. -/
def fs (op : BitVec 9) (h : Hdr) (sub : BitVec 6) (d a b : BitVec 16) : Fields :=
  { op := op, h := h, sub := sub, d := d, a := a, b := b }

/-- A Bool as a VAR code. -/
def varOf (b : Bool) : BitVec 2 := if b then 1 else 0

/-- The fields of an instruction, as chapters 08 to 12 place them. A short parcel and the events have none. -/
def Instr.toFields : Instr → Option Fields
  | .add h t d a b => f3 0x000 h t d.enc a.enc b.enc
  | .addXi h t d a i => fi 0x027 h t .rn d.enc a.enc i
  | .sub h t d a b => f3 0x001 h t d.enc a.enc b.enc
  | .subXi h t d a i => fi 0x028 h t .rn d.enc a.enc i
  | .addc h t d a b p => f4 0x002 h t 0 d.enc a.enc b.enc (predEnc p)
  | .subb h t d a b p => f4 0x003 h t 0 d.enc a.enc b.enc (predEnc p)
  | .iadd3 h t d a b c => f4 0x004 h t 0 d.enc a.enc b.enc c.enc
  | .mulLo h t d a b => f3 0x005 h t d.enc a.enc b.enc
  | .mulLoXi h t d a i => fi 0x029 h t .rn d.enc a.enc i
  | .mulHi h t d a b => f3 0x006 h t d.enc a.enc b.enc
  | .mulWide h t d a b => f3 0x007 h t d.enc a.enc b.enc
  | .madLo h t d a b c => f4 0x008 h t 0 d.enc a.enc b.enc c.enc
  | .madHi h t d a b c => f4 0x009 h t 0 d.enc a.enc b.enc c.enc
  | .madWide h t d a b c => f4 0x00A h t 0 d.enc a.enc b.enc c.enc
  | .div h t d a b => f3 0x00B h t d.enc a.enc b.enc
  | .rem h t d a b => f3 0x00C h t d.enc a.enc b.enc
  | .min h t d a b => f3 0x00D h t d.enc a.enc b.enc
  | .minXi h t d a i => fi 0x02D h t .rn d.enc a.enc i
  | .max h t d a b => f3 0x00E h t d.enc a.enc b.enc
  | .maxXi h t d a i => fi 0x02E h t .rn d.enc a.enc i
  | .abs h t d a => f3 0x00F h t d.enc a.enc 0
  | .neg h t d a => f3 0x010 h t d.enc a.enc 0
  | .saddSat h t d a b => f3 0x011 h t d.enc a.enc b.enc
  | .ssubSat h t d a b => f3 0x012 h t d.enc a.enc b.enc
  | .and h t d a b => f3 0x013 h t d.enc a.enc b.enc
  | .andXi h t d a i => fi 0x02A h t .rn d.enc a.enc i
  | .or h t d a b => f3 0x014 h t d.enc a.enc b.enc
  | .orXi h t d a i => fi 0x02B h t .rn d.enc a.enc i
  | .xor h t d a b => f3 0x015 h t d.enc a.enc b.enc
  | .xorXi h t d a i => fi 0x02C h t .rn d.enc a.enc i
  | .not h t d a => f3 0x016 h t d.enc a.enc 0
  | .andn h t d a b => f3 0x017 h t d.enc a.enc b.enc
  | .shl h t d a b => f3 0x018 h t d.enc a.enc b.enc
  | .shr h t d a b => f3 0x019 h t d.enc a.enc b.enc
  | .sar h t d a b => f3 0x01A h t d.enc a.enc b.enc
  | .rol h t d a b => f3 0x01B h t d.enc a.enc b.enc
  | .ror h t d a b => f3 0x01C h t d.enc a.enc b.enc
  | .bfe h t d a b => f4 0x01D h t 0 d.enc a.enc b.enc 0
  | .bfi h t d a b c => f4 0x01E h t 0 d.enc a.enc b.enc c.enc
  | .bfrev h t d a => f3 0x01F h t d.enc a.enc 0
  | .popc h t d a => f3 0x020 h t d.enc a.enc 0
  | .clz h t d a => f3 0x021 h t d.enc a.enc 0
  | .ctz h t d a => f3 0x022 h t d.enc a.enc 0
  | .lea h t d a b c => f4 0x023 h t 0 d.enc a.enc b.enc c.enc
  | .mov h d a => f3 0x024 h .none d.enc a.enc 0
  | .movi h d i => fi 0x026 h .none .rn d.enc 0 i
  | .sel h d a b p => f4 0x025 h .none 0 d.enc a.enc b.enc (predEnc p)
  | .fadd h t m d a b => f3r 0x040 h t m d.enc a.enc b.enc
  | .faddXi h t m d a i => fi 0x058 h t m d.enc a.enc i
  | .fsub h m d a b => f3r 0x041 h .f32 m d.enc a.enc b.enc
  | .fmul h t m d a b => f3r 0x042 h t m d.enc a.enc b.enc
  | .fmulXi h t m d a i => fi 0x059 h t m d.enc a.enc i
  | .ffma h t m d a b c => f4 0x043 h t m.code d.enc a.enc b.enc c.enc
  | .fmin h t d a b => f3 0x044 h t d.enc a.enc b.enc
  | .fminXi h t d a i => fi 0x05A h t .rn d.enc a.enc i
  | .fmax h t d a b => f3 0x045 h t d.enc a.enc b.enc
  | .fmaxXi h t d a i => fi 0x05B h t .rn d.enc a.enc i
  | .fminn h t d a b => f3 0x046 h t d.enc a.enc b.enc
  | .fmaxn h t d a b => f3 0x047 h t d.enc a.enc b.enc
  | .fabs h t d a => f3 0x048 h t d.enc a.enc 0
  | .fneg h t d a => f3 0x049 h t d.enc a.enc 0
  | .fsgn h t d a b => f3 0x04A h t d.enc a.enc b.enc
  | .fdiv h m d a b => f3r 0x04B h .f32 m d.enc a.enc b.enc
  | .fsqrt h m d a => f3r 0x04C h .f32 m d.enc a.enc 0
  | .frcp h m d a => f3r 0x04D h .f32 m d.enc a.enc 0
  | .frsq h m d a => f3r 0x04E h .f32 m d.enc a.enc 0
  | .fex2 h m d a => f3r 0x04F h .f32 m d.enc a.enc 0
  | .flg2 h m d a => f3r 0x050 h .f32 m d.enc a.enc 0
  | .fsin h m d a => f3r 0x051 h .f32 m d.enc a.enc 0
  | .fcos h m d a => f3r 0x052 h .f32 m d.enc a.enc 0
  | .ftanh h m d a => f3r 0x053 h .f32 m d.enc a.enc 0
  | .frnd h m d a => f3r 0x054 h .f32 m d.enc a.enc 0
  | .ffrc h m d a => f3r 0x055 h .f32 m d.enc a.enc 0
  | .fscale h m d a b => f3r 0x056 h .f32 m d.enc a.enc b.enc
  | .fdot2 h t m d a b c => f4 0x057 h t m.code d.enc a.enc b.enc c.enc
  | .cvt h t u m sat d a =>
    some { f3r 0x080 h t m d.enc a.enc 0 with ty2 := u.code, sat := sat }
  | .cvtPack h t m d a b c => f4 0x081 h t m.code d.enc a.enc b.enc c.enc
  | .qpack h d a b c => f4 0x082 h .q4 0 d.enc a.enc b.enc c.enc
  | .qunpack h m d a b => some { f3r 0x083 h .f32 m d.enc a.enc b.enc with ty2 := Ty.q4.code }
  | .bsel h d a b c => f4 0x084 h .b32 0 d.enc a.enc b.enc c.enc
  | .pack h t sat d a b c => f4 0x085 h t (varOf sat) d.enc a.enc b.enc c.enc
  | .unpack h t d a b => f3 0x086 h t d.enc a.enc b.enc
  | .setp h cmp t p a b => some { f3 0x0C0 h t (predEnc p) a.enc b.enc with sub := cmp.code }
  | .fsetp h mask p a b =>
    some { f3 0x0C1 h .f32 (predEnc p) a.enc b.enc with sub := mask.setWidth 6 }
  | .fclass h p a b => f3 0x0C2 h .f32 (predEnc p) a.enc b.enc
  | .pand h p a b na nb =>
    fs 0x0C3 h (0#4 ++ BitVec.ofBool nb ++ BitVec.ofBool na) (predEnc p) (predEnc a) (predEnc b)
  | .por h p a b na nb =>
    fs 0x0C4 h (0#4 ++ BitVec.ofBool nb ++ BitVec.ofBool na) (predEnc p) (predEnc a) (predEnc b)
  | .pxor h p a b na nb =>
    fs 0x0C5 h (0#4 ++ BitVec.ofBool nb ++ BitVec.ofBool na) (predEnc p) (predEnc a) (predEnc b)
  | .pnot h p a => fs 0x0C6 h 0 (predEnc p) (predEnc a) 0
  | .pmov h p a => fs 0x0C7 h 0 (predEnc p) (predEnc a) 0
  | .pmovGet h d => fs 0x0C7 h 1 d.enc 0 0
  | .pmovPut h d a => fs 0x0C7 h 2 d.enc a.enc 0
  | .bra h off => some { op := 0x0C8, h := h, imm := off }
  | .braInd h a => some { op := 0x0C9, h := h, a := a.enc }
  | .call h off => some { op := 0x0CA, h := h, imm := off }
  | .callInd h a => some { op := 0x0CB, h := h, a := a.enc }
  | .ret h => some { op := 0x0CC, h := h }
  | .exit h => fs 0x0CD h 0 0 0 0
  | .yield h => fs 0x0CE h 0 0 0 0
  | .nop h => fs 0x0CF h 0 0 0 0
  | .ldG h t tf d b disp => fm 0x100 h t tf d.enc b.enc disp
  | .stG h t tf v b disp => fm 0x101 h t tf v.enc b.enc disp
  | .ldS h t d b disp => fm 0x102 h t false d.enc b.enc disp
  | .stS h t v b disp => fm 0x103 h t false v.enc b.enc disp
  | .ldRo h t tf d b disp => fm 0x104 h t tf d.enc b.enc disp
  | .pfRo h b disp => fm 0x105 h .none false 0 b.enc disp
  | .atomG h op t tf d b disp v =>
    some { fm 0x106 h t tf d.enc b.enc disp with mop := op.code, b := v.enc }
  | .atomS h op t d b disp v =>
    some { fm 0x107 h t false d.enc b.enc disp with mop := op.code, b := v.enc }
  | .redG h op t tf v b disp => some { fm 0x108 h t tf v.enc b.enc disp with mop := op.code }
  | .mcst h t v b disp => fm 0x109 h t false v.enc b.enc disp
  | .fence h sc => fs 0x10A h (sc.code.setWidth 6) 0 0 0
  | .ldAcq h t tf d b disp => fm 0x10B h t tf d.enc b.enc disp
  | .stRel h sc t tf v b disp => some { fm 0x10C h t tf v.enc b.enc disp with scope := sc.code }
  | .mig h b disp => fm 0x10D h .none false 0 b.enc disp
  | .detach h tf => fs 0x10E h (if tf then 1 else 0) 0 0 0
  | .spawn h off n tf => some { op := 0x10F, h := h, imm := off, nreg := n, tf := tf }
  | .spawnAt h off a n tf =>
    some { op := 0x110, h := h, imm := off, a := a.enc, nreg := n, tf := tf }
  | .launch h d a b => fs 0x111 h 0 d.enc a.enc b.enc
  | .shfl h mode t d a b c => f4 0x140 h t mode.code d.enc a.enc b.enc c.enc
  | .lpred h op d a => fs 0x141 h op.code d.enc (predEnc a) 0
  | .redux h op t m d a =>
    some { f3r 0x142 h t m d.enc a.enc 0 with sub := op.code.setWidth 6 }
  | .scan h op ex t m d a =>
    some { f3r 0x143 h t m d.enc a.enc 0 with sub := 0#2 ++ BitVec.ofBool ex ++ op.code }
  | .segscan h ex t d a b c => f4 0x144 h t (varOf ex) d.enc a.enc (predEnc b) c.enc
  | .segred h t d a b c => f4 0x145 h t 0 d.enc a.enc (predEnc b) c.enc
  | .peers h op t d a => some { f3 0x146 h t d.enc a.enc 0 with sub := op.code }
  | .lcompress h t d a b c => f4 0x147 h t 0 d.enc a.enc (predEnc b) c.enc
  | .lexpand h t d a b c => f4 0x148 h t 0 d.enc a.enc (predEnc b) c.enc
  | .gwait h => fs 0x149 h 0 0 0 0
  | .mma h z t row a off tag => f4 0x160 h t (varOf z) (rowEnc row) (tileEnc a) off.enc (tagEnc t tag)
  | .mmaSp h z t row a off md =>
    f4 0x161 h t (varOf z) (rowEnc row) (tileEnc a) off.enc (tileEnc md)
  | .sprune h t d a c => f4 0x162 h t 0 (tileEnc d) (tileEnc a) 0 (tileEnc c)
  | .mdist h z t row a off => f4 0x163 h t (varOf z) (rowEnc row) (tileEnc a) off.enc 0
  | .mtopk h mx t d row g0 k => f4 0x164 h t (varOf mx) (tileEnc d) (rowEnc row) g0.enc k.enc
  | .acz h row n => fs 0x165 h 0 (rowEnc row) n.enc 0
  | .acld h row off n tok => f4 0x166 h .none 0 (rowEnc row) off.enc n.enc (gEnc tok)
  | .acst h row off n tok => f4 0x167 h .none 0 (rowEnc row) off.enc n.enc (gEnc tok)
  | .accp h t d b n => f4 0x168 h t 0 (rowEnc d) (rowEnc b) n.enc 0
  | .acsc h t v off row n f => f4 0x169 h t v off.enc (rowEnc row) n.enc f.enc
  | .tcopy h tok off => fe 0x180 h 0 (gEnc tok) off.enc 0 0
  | .gather h tok off => fe 0x181 h 0 (gEnc tok) off.enc 0 0
  | .crdOpen h op c da db => fe 0x182 h op.code 0 c.enc da.enc db.enc
  | .crdSplit h c n i => fe 0x183 h 0 0 c.enc n.enc i.enc
  | .crdNext h d c p => fe 0x184 h 0 (gEnc d) c.enc (predEnc p) 0
  | .crdSave h sp c b => fe 0x185 h (if sp then 1 else 0) 0 c.enc b.enc 0
  | .crdLoad h sp c b => fe 0x186 h (if sp then 1 else 0) 0 c.enc b.enc 0
  | .crdClose h c => fe 0x187 h 0 0 c.enc 0 0
  | .spill h sp tok a b n =>
    fe 0x188 h (if sp then 1 else 0) (gEnc tok) (tileEnc a) b.enc n.enc
  | .fill h sp tok a b n =>
    fe 0x189 h (if sp then 1 else 0) (gEnc tok) (tileEnc a) b.enc n.enc
  | .rclaim h k => fe 0x18A h 0 0 k.enc 0 0
  | .rgive h k => fe 0x18B h 0 0 k.enc 0 0
  | .barTeam h => fs 0x1C0 h 0 0 0 0
  | .barRole h => fs 0x1C1 h 0 0 0 0
  | .barTree h tag => fs 0x1C2 h 0 0 tag.enc 0
  | .arrive h off n => fs 0x1C3 h 0 0 off.enc n.enc
  | .waitCtr h off n => fs 0x1C4 h 0 0 off.enc n.enc
  | .trap h code => fs 0x1C5 h 0 0 code.enc 0
  | .brk h => fs 0x1C6 h 0 0 0 0
  | .srd h wide d num => fi 0x1C7 h (if wide then .b64 else .b32) .rn d.enc 0 num
  | .swr h wide num a => fi 0x1C8 h (if wide then .b64 else .b32) .rn 0 a.enc num
  | .halt h => fs 0x1C9 h 0 0 0 0
  | .tlbinvAll h v => fs 0x1CA h 0 0 v.enc 0
  | .tlbinvPage h v a => fs 0x1CA h 1 0 v.enc a.enc
  | .roinvAll h v => fs 0x1CB h 0 0 v.enc 0
  | .roinvPage h v a => fs 0x1CB h 1 0 v.enc a.enc
  | _ => none

/-! ## From fields to an instruction -/

/-- An instruction built from the fields, and which of its slots passed step 5. -/
structure Built where
  i : Instr
  d : Bool := true
  a : Bool := true
  b : Bool := true
  c : Bool := true

/-- A built instruction with a register destination and two sources. -/
def bDab (f : Fields) (k : Reg → Src → Src → Instr) : Built :=
  { i := k (regOf f.d).val (srcOf f.a).val (srcOf f.b).val
    d := (regOf f.d).ok, a := (srcOf f.a).ok, b := (srcOf f.b).ok }

/-- A built instruction with a register destination and one source. -/
def bDa (f : Fields) (k : Reg → Src → Instr) : Built :=
  { i := k (regOf f.d).val (srcOf f.a).val, d := (regOf f.d).ok, a := (srcOf f.a).ok }

/-- A built instruction with a register destination and three sources. -/
def bDabc (f : Fields) (k : Reg → Src → Src → Src → Instr) : Built :=
  { i := k (regOf f.d).val (srcOf f.a).val (srcOf f.b).val (srcOf f.c).val
    d := (regOf f.d).ok, a := (srcOf f.a).ok, b := (srcOf f.b).ok, c := (srcOf f.c).ok }

/-- A built instruction with a register destination, two sources and a predicate. -/
def bDabp (f : Fields) (k : Reg → Src → Src → PReg → Instr) : Built :=
  { i := k (regOf f.d).val (srcOf f.a).val (srcOf f.b).val (predOf f.c).val
    d := (regOf f.d).ok, a := (srcOf f.a).ok, b := (srcOf f.b).ok, c := (predOf f.c).ok }

/-- A built instruction with a register destination, a source, a predicate and a source. -/
def bDapc (f : Fields) (k : Reg → Src → PReg → Src → Instr) : Built :=
  { i := k (regOf f.d).val (srcOf f.a).val (predOf f.b).val (srcOf f.c).val
    d := (regOf f.d).ok, a := (srcOf f.a).ok, b := (predOf f.b).ok, c := (srcOf f.c).ok }

/-- A built instruction with sources in A and B alone. -/
def bAb (f : Fields) (k : Src → Src → Instr) : Built :=
  { i := k (srcOf f.a).val (srcOf f.b).val, a := (srcOf f.a).ok, b := (srcOf f.b).ok }

/-- A built instruction with a source in A alone. -/
def bA (f : Fields) (k : Src → Instr) : Built :=
  { i := k (srcOf f.a).val, a := (srcOf f.a).ok }

/-- A built comparison: a predicate and two sources. -/
def bPab (f : Fields) (k : PReg → Src → Src → Instr) : Built :=
  { i := k (predOf f.d).val (srcOf f.a).val (srcOf f.b).val
    d := (predOf f.d).ok, a := (srcOf f.a).ok, b := (srcOf f.b).ok }

/-- A built instruction on three predicates. -/
def bPpp (f : Fields) (k : PReg → PReg → PReg → Instr) : Built :=
  { i := k (predOf f.d).val (predOf f.a).val (predOf f.b).val
    d := (predOf f.d).ok, a := (predOf f.a).ok, b := (predOf f.b).ok }

/-- A built instruction on two predicates. -/
def bPp (f : Fields) (k : PReg → PReg → Instr) : Built :=
  { i := k (predOf f.d).val (predOf f.a).val, d := (predOf f.d).ok, a := (predOf f.a).ok }

/-- A built load: destination and base. -/
def bLd (f : Fields) (k : Reg → Reg → Instr) : Built :=
  { i := k (regOf f.d).val (regOf f.a).val, d := (regOf f.d).ok, a := (regOf f.a).ok }

/-- A built store: source and base. -/
def bSt (f : Fields) (k : Src → Reg → Instr) : Built :=
  { i := k (srcOf f.d).val (regOf f.a).val, d := (srcOf f.d).ok, a := (regOf f.a).ok }

/-- A built atomic: destination, base, operand. -/
def bAtom (f : Fields) (k : Reg → Reg → Src → Instr) : Built :=
  { i := k (regOf f.d).val (regOf f.a).val (srcOf f.b).val
    d := (regOf f.d).ok, a := (regOf f.a).ok, b := (srcOf f.b).ok }

/-- A built instruction with a base alone. -/
def bBase (f : Fields) (k : Reg → Instr) : Built :=
  { i := k (regOf f.a).val, a := (regOf f.a).ok }

/-- A built accumulator operation: row, tile, offset. -/
def bRto (f : Fields) (k : Row → Tile → Src → Instr) : Built :=
  { i := k (rowOf f.d).val (tileOf f.a).val (srcOf f.b).val
    d := (rowOf f.d).ok, a := (tileOf f.a).ok, b := (srcOf f.b).ok }

/-- A built spill or fill. -/
def bSpill (f : Fields) (k : GReg → Tile → Src → Src → Instr) : Built :=
  { i := k (gOf f.d).val (tileOf f.a).val (srcOf f.b).val (srcOf f.c).val
    d := (gOf f.d).ok, a := (tileOf f.a).ok, b := (srcOf f.b).ok, c := (srcOf f.c).ok }

/-- Class 0 (09 R199 to R206). -/
def buildInt (f : Fields) (t : Ty) : Option Built :=
  match f.op.toNat with
  | 0x000 => bDab f (.add f.h t)
  | 0x001 => bDab f (.sub f.h t)
  | 0x002 => bDabp f (.addc f.h t)
  | 0x003 => bDabp f (.subb f.h t)
  | 0x004 => bDabc f (.iadd3 f.h t)
  | 0x005 => bDab f (.mulLo f.h t)
  | 0x006 => bDab f (.mulHi f.h t)
  | 0x007 => bDab f (.mulWide f.h t)
  | 0x008 => bDabc f (.madLo f.h t)
  | 0x009 => bDabc f (.madHi f.h t)
  | 0x00A => bDabc f (.madWide f.h t)
  | 0x00B => bDab f (.div f.h t)
  | 0x00C => bDab f (.rem f.h t)
  | 0x00D => bDab f (.min f.h t)
  | 0x00E => bDab f (.max f.h t)
  | 0x00F => bDa f (.abs f.h t)
  | 0x010 => bDa f (.neg f.h t)
  | 0x011 => bDab f (.saddSat f.h t)
  | 0x012 => bDab f (.ssubSat f.h t)
  | 0x013 => bDab f (.and f.h t)
  | 0x014 => bDab f (.or f.h t)
  | 0x015 => bDab f (.xor f.h t)
  | 0x016 => bDa f (.not f.h t)
  | 0x017 => bDab f (.andn f.h t)
  | 0x018 => bDab f (.shl f.h t)
  | 0x019 => bDab f (.shr f.h t)
  | 0x01A => bDab f (.sar f.h t)
  | 0x01B => bDab f (.rol f.h t)
  | 0x01C => bDab f (.ror f.h t)
  | 0x01D => bDab f (.bfe f.h t)
  | 0x01E => bDabc f (.bfi f.h t)
  | 0x01F => bDa f (.bfrev f.h t)
  | 0x020 => bDa f (.popc f.h t)
  | 0x021 => bDa f (.clz f.h t)
  | 0x022 => bDa f (.ctz f.h t)
  | 0x023 => bDabc f (.lea f.h t)
  | 0x024 => bDa f (.mov f.h)
  | 0x025 => bDabp f (.sel f.h)
  | 0x026 => some { i := .movi f.h (regOf f.d).val f.imm, d := (regOf f.d).ok }
  | 0x027 => bDa f fun d a => .addXi f.h t d a f.imm
  | 0x028 => bDa f fun d a => .subXi f.h t d a f.imm
  | 0x029 => bDa f fun d a => .mulLoXi f.h t d a f.imm
  | 0x02A => bDa f fun d a => .andXi f.h t d a f.imm
  | 0x02B => bDa f fun d a => .orXi f.h t d a f.imm
  | 0x02C => bDa f fun d a => .xorXi f.h t d a f.imm
  | 0x02D => bDa f fun d a => .minXi f.h t d a f.imm
  | 0x02E => bDa f fun d a => .maxXi f.h t d a f.imm
  | _ => none

/-- Class 1 (09 R206 to R211). -/
def buildFloat (f : Fields) (t : Ty) : Option Built :=
  let m := Rnd.ofCode f.rnd
  match f.op.toNat with
  | 0x040 => bDab f (.fadd f.h t m)
  | 0x041 => bDab f (.fsub f.h m)
  | 0x042 => bDab f (.fmul f.h t m)
  | 0x043 => bDabc f (.ffma f.h t m)
  | 0x044 => bDab f (.fmin f.h t)
  | 0x045 => bDab f (.fmax f.h t)
  | 0x046 => bDab f (.fminn f.h t)
  | 0x047 => bDab f (.fmaxn f.h t)
  | 0x048 => bDa f (.fabs f.h t)
  | 0x049 => bDa f (.fneg f.h t)
  | 0x04A => bDab f (.fsgn f.h t)
  | 0x04B => bDab f (.fdiv f.h m)
  | 0x04C => bDa f (.fsqrt f.h m)
  | 0x04D => bDa f (.frcp f.h m)
  | 0x04E => bDa f (.frsq f.h m)
  | 0x04F => bDa f (.fex2 f.h m)
  | 0x050 => bDa f (.flg2 f.h m)
  | 0x051 => bDa f (.fsin f.h m)
  | 0x052 => bDa f (.fcos f.h m)
  | 0x053 => bDa f (.ftanh f.h m)
  | 0x054 => bDa f (.frnd f.h m)
  | 0x055 => bDa f (.ffrc f.h m)
  | 0x056 => bDab f (.fscale f.h m)
  | 0x057 => bDabc f (.fdot2 f.h t m)
  | 0x058 => bDa f fun d a => .faddXi f.h t m d a f.imm
  | 0x059 => bDa f fun d a => .fmulXi f.h t m d a f.imm
  | 0x05A => bDa f fun d a => .fminXi f.h t d a f.imm
  | 0x05B => bDa f fun d a => .fmaxXi f.h t d a f.imm
  | _ => none

/-- Class 2 (09 R212 to R217). -/
def buildCvt (f : Fields) (t : Ty) : Option Built :=
  let m := Rnd.ofCode f.rnd
  match f.op.toNat with
  | 0x080 => (Ty.ofCode f.ty2).map fun u => bDa f (.cvt f.h t u m f.sat)
  | 0x081 =>
    let c := srcIf (t != .f16x2 && t != .bf16x2) f.c
    some { bDab f (fun d a b => .cvtPack f.h t m d a b c.val) with c := c.ok }
  | 0x082 =>
    let r := regsApart f.d f.c
    some { i := .qpack f.h r.1.val (regOf f.a).val (srcOf f.b).val r.2.val
           d := r.1.ok, a := (regOf f.a).ok, b := (srcOf f.b).ok, c := r.2.ok }
  | 0x083 => bDab f (.qunpack f.h m)
  | 0x084 => bDabc f (.bsel f.h)
  | 0x085 =>
    let c := srcIf (t != .i16 && t != .n16) f.c
    some { bDab f (fun d a b => .pack f.h t (f.rnd == 1) d a b c.val) with c := c.ok }
  | 0x086 => bDab f (.unpack f.h t)
  | _ => none

/-- Class 3 (09 R218 to R225). -/
def buildPred (f : Fields) (t : Ty) : Option Built :=
  match f.op.toNat with
  | 0x0C0 => (Cmp.ofCode f.sub).map fun cmp => bPab f (.setp f.h cmp t)
  | 0x0C1 => bPab f (.fsetp f.h (f.sub.setWidth 4))
  | 0x0C2 => bPab f (.fclass f.h)
  | 0x0C3 => bPpp f fun p a b => .pand f.h p a b (f.sub.getLsbD 0) (f.sub.getLsbD 1)
  | 0x0C4 => bPpp f fun p a b => .por f.h p a b (f.sub.getLsbD 0) (f.sub.getLsbD 1)
  | 0x0C5 => bPpp f fun p a b => .pxor f.h p a b (f.sub.getLsbD 0) (f.sub.getLsbD 1)
  | 0x0C6 => bPp f (.pnot f.h)
  | 0x0C7 =>
    match f.sub.toNat with
    | 0 => bPp f (.pmov f.h)
    | 1 => some { i := .pmovGet f.h (regOf f.d).val, d := (regOf f.d).ok }
    | 2 => bDa f (.pmovPut f.h)
    | _ => none
  | 0x0C8 => some { i := .bra f.h f.imm }
  | 0x0C9 => bA f (.braInd f.h)
  | 0x0CA => some { i := .call f.h f.imm }
  | 0x0CB => bA f (.callInd f.h)
  | 0x0CC => some { i := .ret f.h }
  | 0x0CD => some { i := .exit f.h }
  | 0x0CE => some { i := .yield f.h }
  | 0x0CF => some { i := .nop f.h }
  | _ => none

/-- Class 4 (10 R226 to R244). -/
def buildMem (f : Fields) (t : Ty) : Option Built :=
  match f.op.toNat with
  | 0x100 => bLd f fun d b => .ldG f.h t f.tf d b f.disp
  | 0x101 => bSt f fun v b => .stG f.h t f.tf v b f.disp
  | 0x102 => bLd f fun d b => .ldS f.h t d b f.disp
  | 0x103 => bSt f fun v b => .stS f.h t v b f.disp
  | 0x104 => bLd f fun d b => .ldRo f.h t f.tf d b f.disp
  | 0x105 => bBase f fun b => .pfRo f.h b f.disp
  | 0x106 => (AtomOp.ofCode f.mop).map fun op =>
      bAtom f fun d b v => .atomG f.h op t f.tf d b f.disp v
  | 0x107 => (AtomOp.ofCode f.mop).map fun op => bAtom f fun d b v => .atomS f.h op t d b f.disp v
  | 0x108 => (AtomOp.ofCode f.mop).map fun op => bSt f fun v b => .redG f.h op t f.tf v b f.disp
  | 0x109 => bSt f fun v b => .mcst f.h t v b f.disp
  | 0x10A => (Scope.ofCode f.sub.toNat).map fun sc => { i := .fence f.h sc }
  | 0x10B => bLd f fun d b => .ldAcq f.h t f.tf d b f.disp
  | 0x10C => (Scope.ofCode f.scope.toNat).map fun sc =>
      bSt f fun v b => .stRel f.h sc t f.tf v b f.disp
  | 0x10D => bBase f fun b => .mig f.h b f.disp
  | 0x10E => some { i := .detach f.h (f.sub == 1) }
  | 0x10F => some { i := .spawn f.h f.imm f.nreg f.tf }
  | 0x110 => bBase f fun a => .spawnAt f.h f.imm a f.nreg f.tf
  | 0x111 => bDab f (.launch f.h)
  | _ => none

/-- Class 5 (11 R258, R267). -/
def buildLane (f : Fields) (t : Ty) : Option Built :=
  let m := Rnd.ofCode f.rnd
  let v := f.rnd == 1
  match f.op.toNat with
  | 0x140 => bDabc f (.shfl f.h (ShflMode.ofCode f.rnd) t)
  | 0x141 => (LpredOp.ofCode f.sub).map fun op =>
      { i := .lpred f.h op (vdstOf f.d).val (predOf f.a).val
        d := (vdstOf f.d).ok, a := (predOf f.a).ok }
  | 0x142 => bDa f (.redux f.h (RedOp.ofCode (f.sub.setWidth 3)) t m)
  | 0x143 => bDa f (.scan f.h (RedOp.ofCode (f.sub.setWidth 3)) (f.sub.getLsbD 3) t m)
  | 0x144 => bDapc f (.segscan f.h v t)
  | 0x145 => bDapc f (.segred f.h t)
  | 0x146 => (PeersOp.ofCode f.sub).map fun op => bDa f (.peers f.h op t)
  | 0x147 =>
    let r := regsApart f.d f.c
    some { i := .lcompress f.h t r.1.val (srcOf f.a).val (predOf f.b).val r.2.val
           d := r.1.ok, a := (srcOf f.a).ok, b := (predOf f.b).ok, c := r.2.ok }
  | 0x148 => bDapc f (.lexpand f.h t)
  | 0x149 => some { i := .gwait f.h }
  | 0x160 =>
    let c := tagOf (t == .q4) f.c
    some { bRto f (fun r a o => .mma f.h v t r a o c.val) with c := c.ok }
  | 0x161 =>
    some { bRto f (fun r a o => .mmaSp f.h v t r a o (tileOf f.c).val) with c := (tileOf f.c).ok }
  | 0x162 =>
    some { i := .sprune f.h t (tileOf f.d).val (tileOf f.a).val (tileOf f.c).val
           d := (tileOf f.d).ok, a := (tileOf f.a).ok, c := (tileOf f.c).ok }
  | 0x163 => bRto f (.mdist f.h v t)
  | 0x164 =>
    some { i := .mtopk f.h v t (tileOf f.d).val (rowOf f.a).val (srcOf f.b).val (srcOf f.c).val
           d := (tileOf f.d).ok, a := (rowOf f.a).ok, b := (srcOf f.b).ok, c := (srcOf f.c).ok }
  | 0x165 =>
    some { i := .acz f.h (rowOf f.d).val (srcOf f.a).val
           d := (rowOf f.d).ok, a := (srcOf f.a).ok }
  | 0x166 =>
    some { i := .acld f.h (rowOf f.d).val (srcOf f.a).val (srcOf f.b).val (gOf f.c).val
           d := (rowOf f.d).ok, a := (srcOf f.a).ok, b := (srcOf f.b).ok, c := (gOf f.c).ok }
  | 0x167 =>
    some { i := .acst f.h (rowOf f.d).val (srcOf f.a).val (srcOf f.b).val (gOf f.c).val
           d := (rowOf f.d).ok, a := (srcOf f.a).ok, b := (srcOf f.b).ok, c := (gOf f.c).ok }
  | 0x168 =>
    some { i := .accp f.h t (rowOf f.d).val (rowOf f.a).val (srcOf f.b).val
           d := (rowOf f.d).ok, a := (rowOf f.a).ok, b := (srcOf f.b).ok }
  | 0x169 =>
    some { i := .acsc f.h t f.rnd (srcOf f.d).val (rowOf f.a).val (srcOf f.b).val (srcOf f.c).val
           d := (srcOf f.d).ok, a := (rowOf f.a).ok, b := (srcOf f.b).ok, c := (srcOf f.c).ok }
  | _ => none

/-- Class 6 (12 R278). -/
def buildEng (f : Fields) : Option Built :=
  match f.op.toNat with
  | 0x180 =>
    some { i := .tcopy f.h (gOf f.d).val (srcOf f.a).val, d := (gOf f.d).ok, a := (srcOf f.a).ok }
  | 0x181 =>
    some { i := .gather f.h (gOf f.d).val (srcOf f.a).val, d := (gOf f.d).ok, a := (srcOf f.a).ok }
  | 0x182 => (CrdOp.ofCode f.cmd).map fun op =>
      let c := srcIf (op != .enum && op != .expand) f.c
      { bAb f (fun cu da => .crdOpen f.h op cu da c.val) with c := c.ok }
  | 0x183 =>
    some { bAb f (fun c n => .crdSplit f.h c n (srcOf f.c).val) with c := (srcOf f.c).ok }
  | 0x184 =>
    some { i := .crdNext f.h (gOf f.d).val (srcOf f.a).val (predOf f.b).val
           d := (gOf f.d).ok, a := (srcOf f.a).ok, b := (predOf f.b).ok }
  | 0x185 =>
    some { i := .crdSave f.h (f.cmd == 1) (srcOf f.a).val (regOf f.b).val
           a := (srcOf f.a).ok, b := (regOf f.b).ok }
  | 0x186 =>
    some { i := .crdLoad f.h (f.cmd == 1) (srcOf f.a).val (regOf f.b).val
           a := (srcOf f.a).ok, b := (regOf f.b).ok }
  | 0x187 => bA f (.crdClose f.h)
  | 0x188 => bSpill f (.spill f.h (f.cmd == 1))
  | 0x189 => bSpill f (.fill f.h (f.cmd == 1))
  | 0x18A => bA f (.rclaim f.h)
  | 0x18B => bA f (.rgive f.h)
  | _ => none

/-- Class 7 (12 R292). -/
def buildSys (f : Fields) : Option Built :=
  let wide := f.ty == Ty.b64.code
  match f.op.toNat with
  | 0x1C0 => some { i := .barTeam f.h }
  | 0x1C1 => some { i := .barRole f.h }
  | 0x1C2 => bA f (.barTree f.h)
  | 0x1C3 => bAb f (.arrive f.h)
  | 0x1C4 => bAb f (.waitCtr f.h)
  | 0x1C5 => bA f (.trap f.h)
  | 0x1C6 => some { i := .brk f.h }
  | 0x1C7 => some { i := .srd f.h wide (regOf f.d).val f.imm, d := (regOf f.d).ok }
  | 0x1C8 => bA f (.swr f.h wide f.imm)
  | 0x1C9 => some { i := .halt f.h }
  | 0x1CA =>
    match f.sub.toNat with
    | 0 => bA f (.tlbinvAll f.h)
    | 1 => bAb f (.tlbinvPage f.h)
    | _ => none
  | 0x1CB =>
    match f.sub.toNat with
    | 0 => bA f (.roinvAll f.h)
    | 1 => bAb f (.roinvPage f.h)
    | _ => none
  | _ => none

/-- The instruction of the fields; none where a code is not accepted (step 4). -/
def build (f : Fields) : Option Built :=
  match Ty.ofCode f.ty with
  | none => none
  | some t =>
    match (f.op.extractLsb' 6 3).toNat with
    | 0 => buildInt f t
    | 1 => buildFloat f t
    | 2 => buildCvt f t
    | 3 => buildPred f t
    | 4 => buildMem f t
    | 5 => buildLane f t
    | 6 => buildEng f
    | _ => buildSys f

/-- The fields of the built instruction, with the slots that fail step 5 taken from the word. -/
def Built.fields (r : Built) (f : Fields) : Option Fields :=
  r.i.toFields.map fun g =>
    { g with
      d := if r.d then g.d else f.d
      a := if r.a then g.a else f.a
      b := if r.b then g.b else f.b
      c := if r.c then g.c else f.c }

/-- Every slot of the built instruction passed step 5. -/
def Built.ok (r : Built) : Bool := r.d && r.a && r.b && r.c

/-- Decode one long word or dictionary word: steps 2 to 5 of 08 R192, in order. A dictionary word whose bit 15 is set is refused at
step 4 (log 98). -/
def decodeWord (w : BitVec 96) : Except DecErr Instr :=
  if w.getLsbD 95 then .error .bit95
  else
    match formatOf (opcodeOf w) with
    | none => .error .opcode
    | some fmt =>
      let f := Fields.unpack fmt w
      match build f with
      | none => .error .code
      | some r =>
        if f.pack fmt != w || r.fields f != some f || !r.i.wf4 then .error .code
        else if !r.ok || !r.i.wf5 then .error .operand
        else .ok r.i

/-- A parcel: two bytes, the low one first (08 R170). -/
def parcelOf (lo hi : Byte) : BitVec 16 := hi ++ lo

/-- A short parcel (08 R172). -/
def decodeShort (p : BitVec 16) : Except DecErr Instr :=
  if p.extractLsb' 10 5 == 0#5 then .ok (.shortParcel (p.extractLsb' 0 10)) else .error .parcel

/-- The long word of six parcels, the first one lowest (08 R171). -/
def longWord (p0 p1 p2 p3 p4 p5 : BitVec 16) : BitVec 96 := p5 ++ p4 ++ p3 ++ p2 ++ p1 ++ p0

/-- Decode at the head of a parcel list, with the number of parcels taken (08 R171). -/
def decodeParcels : List (BitVec 16) → Except DecErr (Instr × Nat)
  | [] => .error .parcel
  | p0 :: rest =>
    if p0.getLsbD 15 then (decodeShort p0).map fun i => (i, 1)
    else
      match rest with
      | p1 :: p2 :: p3 :: p4 :: p5 :: _ =>
        (decodeWord (longWord p0 p1 p2 p3 p4 p5)).map fun i => (i, 6)
      | _ => .error .parcel

/-- The parcels of a byte list; a last odd byte is no parcel. -/
def parcelsOf : List Byte → List (BitVec 16)
  | lo :: hi :: rest => parcelOf lo hi :: parcelsOf rest
  | _ => []

/-- Decode at the head of a byte list: the instruction and the bytes after it. -/
def decodeBytes (bs : List Byte) : Except DecErr (Instr × List Byte) :=
  (decodeParcels (parcelsOf bs)).map fun r => (r.1, bs.drop (2 * r.2))

/-! ## The encoder -/

/-- The long word of an instruction; none for a short parcel and for the events. -/
def encodeWord (i : Instr) : Option (BitVec 96) :=
  match i.toFields with
  | none => none
  | some f => (formatOf f.op).map fun fmt => f.pack fmt

/-- The parcels of a word, the lowest first. -/
def wordParcels (w : BitVec 96) : List (BitVec 16) :=
  [w.extractLsb' 0 16, w.extractLsb' 16 16, w.extractLsb' 32 16, w.extractLsb' 48 16,
   w.extractLsb' 64 16, w.extractLsb' 80 16]

/-- The parcels of an instruction (08 R171, R172); none for the machine's events, which have no encoding. -/
def encode : Instr → Option (List (BitVec 16))
  | .shortParcel n => some [1#1 ++ 0#5 ++ n]
  | i => (encodeWord i).map wordParcels

/-- The first `n` little-endian bytes of a number. -/
def natBytes : Nat → Nat → List Byte
  | 0, _ => []
  | n + 1, w => BitVec.ofNat 8 w :: natBytes n (w / 256)

/-- The instruction that the decoder reads from a word as spec/opcode_table.json numbers its bits: parcel 0 in bits 15 to
0, later parcels above, zeros above the table's bits. -/
def decodeTableWord (_nbits w : Nat) : Option Instr :=
  match decodeBytes (natBytes 12 w) with
  | .ok r => some r.1
  | .error _ => none

end Sys2Proof
end

