-- ==== Sys2Proof/Machine/Net.lean ====
section
/-! DEFINITION. Packets to other packages (21 R439 to R442): ports, sequence numbers, classes, unreachable packages. What
the other package does with a packet arrives as an input event. And the accesses that
the device makes by itself to the structures in a VF's memory (02 R72, 13 R308, 18 R386, 20 R419), here or in another package. -/

namespace Sys2Proof.Machine

/-- The access writes. -/
def AccKind.writes : AccKind → Bool
  | .store | .atomic | .red | .mcst => true
  | _ => false

/-- The traffic class of an access and of its response (21 R442): of an engine's, a read's or a write's. -/
def accessCls (k : AccKind) (engine : BitVec 2) : BitVec 3 :=
  if engine != 0 then if AccKind.writes k then 6 else 5
  else
    match k with
    | .atomic | .red => 4
    | _ => 3

/-- The class of a frame on every link (21 R442). -/
def frameCls : BitVec 3 := 2

/-- The class of a request and of its response on every link (21 R442): that of the host link where its home is the host. -/
def Req.cls (r : Req) : BitVec 3 := if r.home = .host then 7 else accessCls r.kind r.engine

/-- The traffic class of a payload (21 R442); a response's is that of its request. What the device itself does in the structures of a VF is
management. -/
def Payload.cls : Payload → BitVec 3
  | .frame .. => frameCls
  | .request r => accessCls r.kind r.engine
  | .response .. => 3
  | .marker .. => 3
  | .markerAck .. => 3
  | .device .. => 0
  | _ => 1

/-- The port by which a core's packet for a package leaves (21 R439). -/
def outPort (core pkg : Nat) : Nat := 2 * dieOf core + pkg % 2

/-- The port of the destination package (21 R439). -/
def inPort (core me : Nat) : Nat := 2 * dieOf core + me % 2

/-- A frame on its way inside this package. -/
def State.fly (s : State) (f : Frame) (core port : Nat) : State :=
  { s with flights := s.flights ++ [⟨f, s.fabnum.toNat, core, BitVec.ofNat 8 port, false⟩] }

/-- The first hop toward a home has no link credit: a frame for that core stands refused (01 R31; log 95). -/
def State.hopStalled (s : State) : Home → Bool
  | .core c => s.flights.any fun f => f.core == c && f.refused
  | _ => false

/-- The package is marked unreachable at either port of a core's die (21 R441). -/
def State.isAway (s : State) (core pkg : Nat) : Bool :=
  [2 * dieOf core, 2 * dieOf core + 1].any fun p => (s.port p).away.contains pkg

/-- A request, with those combined into it, fails with POISON (20 R433, 21 R441). -/
def State.failReq (s : State) (id : Nat) : State :=
  { s with reqs := s.reqs.map fun q =>
      if q.id = id ∨ q.stat = .merged id then
        { q with stat := .faulted (trapAt .poison 0 q.va.toNat), reps := [], known := true }
      else q }

/-- What becomes of a payload for an unreachable package (21 R441). A frame goes back to its source core; a bounced one's source lies in that
very package, and the spec does not say where it goes: it flies with POISON to the core of this package whose number it names (log 100:
DESIGN CHOICE). -/
def State.failPayload (s : State) : Payload → State
  | .frame f _ => s.fly { f with poison := true } f.srcCore.toNat 16
  | .request r => s.failReq (if r.id < 2 ^ 60 then r.id else (r.id - 2 ^ 60) / 2 ^ 20)
  | _ => s

/-- A packet joins those of its class that wait at a port (21 R443), on an entropy value of its own or on the next of the rotation. The wait
of a low class starts with its head (log 79). -/
def State.putPacket (s : State) (port pkg dport : Nat) (cls : BitVec 3) (entropy : Option Nat) (body : Payload) : State :=
  let k : Packet := ⟨s.fabnum, BitVec.ofNat 4 port, BitVec.ofNat 16 pkg, BitVec.ofNat 4 dport, cls, 0, 0, body⟩
  let s := if (s.port port).queue.any fun e => e.1.cls == cls then s
    else s.modRouter (ethRouter port) fun r => { r with since := Tbl.set r.since cls.toNat s.clk }
  s.modPort port fun p => { p with queue := p.queue ++ [(k, entropy)] }

/-- Send a payload of a class from a core to a core of another package. -/
def State.sendAs (s : State) (core pkg dcore : Nat) (cls : BitVec 3) (body : Payload) : State :=
  if s.isAway core pkg then s.failPayload body
  else s.putPacket (outPort core pkg) pkg (inPort dcore s.fabnum.toNat) cls none body

/-- Send a payload in its own class. -/
def State.sendPacket (s : State) (core pkg dcore : Nat) (body : Payload) : State := s.sendAs core pkg dcore (Payload.cls body) body

/-- The entropy values of a port (21 R450). -/
def Port.nent (p : Port) : Nat := bits p.cfg.toNat 48 4 + 1

/-- The copies of a flush marker for one package: to every port of it, on every entropy value, in classes 3, 4 and 6
(03 R85, 21 R440). The number of copies is returned. -/
def State.sendMarkers (s : State) (core ctx pkg : Nat) : State × Nat :=
  if s.isAway core pkg then (s, 1)
  else
    let port := outPort core pkg
    let copies := (List.range 16).flatMap fun dp =>
      (List.range (s.port port).nent).flatMap fun n => [3, 4, 6].map fun c => (dp, n, c)
    (copies.foldl (fun s e =>
      s.putPacket port pkg e.1 (BitVec.ofNat 3 e.2.2) (some e.2.1) (.marker (BitVec.ofNat 9 core) ctx)) s,
     copies.length)

/-! ## Structures that the device reads and writes in a VF's memory -/

/-- Where such a structure lies: at a physical address of this package, or at a home in another one. -/
inductive DevAt where
  | here (p : Nat)
  | far (pkg core a : Nat)
  deriving DecidableEq, Repr

/-- The home of an address for the device, and the regions that it may not use (18 R386, 02 R72). -/
def State.devHome (s : State) (v a : Nat) : Except Trap (Region × Home) :=
  if a ≥ 2 ^ 56 then .error (trapAt .pageFault 1 a)
  else
    match s.homeOf v a 0 with
    | .error t => .error t
    | .ok (g, h) =>
      if g.win then .error (trapAt .prot 2 a)
      else if g.replicated || g.isHost then .error (trapAt .prot 7 a)
      else .ok (g, h)

/-- The sector is bad for the device. A key that differs only because the page is being re-keyed is none of its faults (19 R408). -/
def State.devSpoiled (s : State) (p : Nat) : Bool :=
  s.poison.contains (sectorOf p) || s.retired.contains (frameOf p) || (s.encOf p != s.keyOf p && !s.rekeying p)

/-- The device's use of a page of this package with class-0 rights (18 R386). A page whose entry has REPLICA = 1 is not writable by it (02
R72), as one of a replicated region (log 100). -/
def State.devHere (s : State) (v a c : Nat) (g : Region) (wr : Bool) : Except Trap DevAt :=
  match s.translate v a c g with
  | .error t => .error t
  | .ok e =>
    let p := physAddr c (e.offset a)
    if e.cls != 0 then .error (trapAt .prot 6 a)
    else if wr && e.ro then .error (trapAt .prot 0 a)
    else if wr && e.replica then .error (trapAt .prot 7 a)
    else if !(s.owner (frameOf p)).init && s.devSpoiled p then .error (trapAt .poison 0 a)
    else .ok (.here p)

/-- The device's use of a page of another package: that package answers, here with a free value (log 27). -/
def State.devThere (s : State) (pkg core a : Nat) : Except Trap DevAt :=
  if s.isAway 0 pkg then .error (trapAt .poison 0 a)
  else
    let f := Config.farFault s.tick s.clk.toNat pkg a
    match Cause.ofCode f.1 with
    | some .pageFault => .error (trapAt .pageFault (f.2 % 256) a)
    | some .prot => .error (trapAt .prot (f.2 % 256) a)
    | some .poison => .error (trapAt .poison 0 a)
    | some .firewall => .error (trapAt .firewall (f.2 % 256) a)
    | _ => .ok (.far pkg core a)

/-- Where the device finds an address of a VF, to read or to write there, or why it cannot. -/
def State.devAt (s : State) (v a : Nat) (wr : Bool) : Except Trap DevAt :=
  match s.devHome v a with
  | .error t => .error t
  | .ok (g, .core c) => s.devHere v a c g wr
  | .ok (_, .far pkg core) => s.devThere pkg core a
  | .ok (_, .host) => .error (trapAt .prot 7 a)

/-- An access of the device to an address waits: its page is being re-keyed (02 R54, 19 R408, R410). -/
def State.devWaits (s : State) (v a : Nat) : Bool :=
  match s.devHome v a with
  | .ok (g, .core c) =>
    match s.translate v a c g with
    | .ok e => !e.host && e.window && s.rekeying (physAddr c (e.offset a))
    | .error _ => false
  | _ => false

/-- Bytes of another package as the device reads them: free values (log 27). -/
def State.farBytes (s : State) (pkg a n : Nat) : List Byte :=
  (List.range n).map fun i => Config.farByte s.tick s.clk.toNat pkg (a + i)

/-- Bytes that the device reads at a place. -/
def State.bytesAt (s : State) (n : Nat) : DevAt → List Byte
  | .here p => s.stillBytes p n
  | .far pkg _ a => s.farBytes pkg a n

/-- The number of n bytes at an offset from a place. -/
def State.natAt (s : State) (off n : Nat) : DevAt → Nat
  | .here p => s.stillNat (p + off) n
  | .far pkg _ a => fieldAt (s.farBytes pkg (a + off) n) 0 n

/-- Bytes written for the device, after a scrub of the frame that is under way (19 R397). -/
def State.devPut (s : State) (p : Nat) (bs : List Byte) : State := (s.endScrub (frameOf p)).physWrite p bs

/-- A device access to a home in another package goes there as a packet; what that package holds afterwards is free again (log 27). -/
def State.devSend (s : State) (v pkg core : Nat) (op : DevOp) : State :=
  ({ s with tick := s.tick + 1 } : State).sendPacket 0 pkg core (.device (BitVec.ofNat 9 core) (BitVec.ofNat 10 v) op)

/-- Bytes that the device writes at an offset from a place. -/
def State.putAt (s : State) (v off : Nat) (bs : List Byte) : DevAt → State
  | .here p => s.devPut (p + off) bs
  | .far pkg core a => s.devSend v pkg core (.store (BitVec.ofNat 64 (a + off)) bs)

/-- Read a number of a VF's memory for the device. -/
def State.devRead (s : State) (v a n : Nat) : Except Trap Nat := (s.devAt v a false).map (s.natAt 0 n)

/-- Write bytes of a VF's memory for the device. -/
def State.devWrite (s : State) (v a : Nat) (bs : List Byte) : Except Trap State := (s.devAt v a true).map (s.putAt v 0 bs)

end Sys2Proof.Machine
end

