-- ==== Sys2Proof/Machine/Fault.lean ====
section
/-! DEFINITION. Taking a trap: fault records (12 R302), the fault queue (20 R417 to R419), parking a fault unit (10 R246
to R249) with its replay buffer entry, and the denial log (02 R71 to R73). Returning from a trap (replay and kill, 10
R250, 20 R420) stands in Machine/Replay.lean. -/

namespace Sys2Proof.Machine

/-! ## Fault records -/

/-- The fields of a fault record beyond SEQ (12 R302). -/
structure Rec where
  time : DWord
  cause : Nat
  kind : Nat := 0
  origin : Nat
  pc : Word := 0
  parkPc : Word := 0
  grid : Word := 0
  khandle : BitVec 16 := 0
  depth : BitVec 4 := 0
  principal : BitVec 12 := 0
  vf : BitVec 10 := 0
  ctx : Nat := 0
  pkg : BitVec 16 := 0
  core : Nat := 0
  bound : Bool := false
  gset : Nat := 0
  addr : BitVec 64 := 0
  info : Word := 0
  buf : Nat := 0xFF
  performed : BitVec 64 := 0
  faulting : BitVec 64 := 0
  pending : BitVec 64 := 0
  active : BitVec 64 := 0
  team : Word := 0
  role : Nat := 0
  deriving DecidableEq, Repr, Inhabited

/-- The bytes 0x08 to 0x7F of a fault record (12 R302). -/
def Rec.bytes (r : Rec) : List Byte :=
  leBytes 8 r.time.toNat ++
  leBytes 8 (r.cause * 2 ^ 48 + r.kind * 2 ^ 40 + r.origin * 2 ^ 36 + r.pc.toNat) ++
  leBytes 8 (r.parkPc.toNat * 2 ^ 32 + r.grid.toNat) ++
  leBytes 8 (r.khandle.toNat * 2 ^ 48 + r.depth.toNat * 2 ^ 44 + r.principal.toNat * 2 ^ 32 +
    r.vf.toNat * 2 ^ 16 + r.ctx) ++
  leBytes 8 (r.pkg.toNat * 2 ^ 48 + r.core * 2 ^ 32 + bitN r.bound 31 + r.gset) ++
  leBytes 8 (r.addr.toNat % 2 ^ 56) ++
  leBytes 8 (r.info.toNat * 2 ^ 32 + r.buf * 2 ^ 8) ++
  leBytes 8 r.performed.toNat ++ leBytes 8 r.faulting.toNat ++ leBytes 8 r.pending.toNat ++
  leBytes 8 r.active.toNat ++ leBytes 8 (r.team.toNat * 2 ^ 32 + r.role * 2 ^ 30) ++
  List.replicate 24 0

/-- The address of a VF's fault queue (20 R417). -/
def Vf.fqAddr (v : Vf) : Nat := bits v.faultQ.toNat 7 49 * 128

/-- The number of records of a VF's fault queue (20 R417). -/
def Vf.fqSize (v : Vf) : Nat := 2 ^ bits v.faultQ.toNat 0 5

/-- A header of HEAD and TAIL leaves room for another of n records (20 R419, 02 R72). -/
def ringRoom (head tail n : Nat) : Bool := (BitVec.ofNat 64 head - BitVec.ofNat 64 tail).toNat < n

/-- Step 1 of R419 at the header: HEAD + 1. -/
def State.fqTake (s : State) (v head : Nat) : DevAt → State
  | .here p => s.devPut p (leBytes 8 (head + 1))
  | .far pkg core _ => s.devSend v pkg core .post

/-- Take a slot of the fault queue and write a record there (20 R419); none where there is no room, or the queue cannot be
reached (log 14). -/
def State.fqAppend (s : State) (v : Nat) (body : List Byte) : Option (State × DWord) :=
  let a := (s.vf v).fqAddr
  let n := (s.vf v).fqSize
  match s.devAt v a true with
  | .error _ => none
  | .ok place =>
    let head := s.natAt 0 8 place
    let tail := s.natAt 8 8 place
    if ringRoom head tail n then
      match (s.fqTake v head place).devWrite v (a + 0x80 + 128 * (head % n)) (leBytes 8 (head + 1) ++ body) with
      | .error _ => none
      | .ok s' =>
        some (if head = tail then { s' with irqs := s'.irqs ++ [⟨none, 1⟩] } else s', BitVec.ofNat 64 (head + 1))
    else none

/-- HELD of the queue's header: the records of the VF that wait at cores (20 R418). -/
def State.fqHeld (s : State) (v : Nat) : State :=
  match s.devWrite v ((s.vf v).fqAddr + 16)
      (leBytes 8 (s.held.countP fun h => h.vf == v && h.core.isSome)) with
  | .ok s' => s'
  | .error _ => s

/-- Write a record to the VF's fault queue, or hold it (20 R419). -/
def State.postRecord (s : State) (v : Nat) (unit core : Option Nat) (body : List Byte) : State :=
  match s.fqAppend v body with
  | some (s', seq) =>
    { s' with units := s'.units.map fun u => if some u.id = unit then { u with seq := seq } else u }
  | none =>
    let h : Held := ⟨unit, v, core, body, s.clk + 1024⟩
    ({ s with held := s.held ++ [h] } : State).fqHeld v

/-! ## Parking -/

/-- The lowest lane of a thread list. -/
def lowestLane : List (Nat × Nat) → Option (Nat × Nat)
  | [] => none
  | e :: l =>
    match lowestLane l with
    | none => some e
    | some f => some (if e.1 ≤ f.1 then e else f)

/-- The record of a parked unit (12 R302): the thread fields of its lowest active lane. -/
def State.unitRecord (s : State) (u : FUnit) : Rec :=
  let x := ((lowestLane u.threads).map Prod.snd).getD 0
  let t := s.thread u.core x
  let base : Rec :=
    { time := s.clk, cause := u.trap.cause.code, kind := u.trap.kind, origin := u.origin
      pc := u.pc, parkPc := u.parkPc, vf := BitVec.ofNat 10 u.vf, pkg := s.fabnum, core := u.core
      addr := u.trap.addr, info := u.trap.info, buf := u.buf.getD 0xFF
      performed := u.performed, faulting := u.faulting, pending := u.pending, active := u.active }
  if u.threads.isEmpty then base
  else
    let base := { base with grid := t.grid, khandle := t.khandle, depth := t.depth, principal := t.principal }
    match u.gset with
    | none => { base with ctx := x }
    | some g =>
      let k := s.group u.core g
      { base with
        ctx := k.members.headD 0, bound := true, gset := k.set
        team := (s.team u.core k.team).index, role := k.role }

/-- A replay buffer entry for a unit: the lowest free one, else the oldest unit's, which moves to the save area of its VF (10
R248). -/
def State.bufEntry (s : State) (c id : Nat) : State × Nat :=
  let b := (s.core c).rbuf
  match leastFree 64 (fun e => (Tbl.get none b e).isNone) with
  | some e => (s.modCore c fun k => { k with rbuf := Tbl.set k.rbuf e (some id) }, e)
  | none =>
    let holder := fun (e : Nat) => (Tbl.get none b e).getD 0
    let oldest := (List.range 64).foldl (fun m e => if holder e < holder m then e else m) 0
    let old := Tbl.get none b oldest
    let moved := s.units.map fun u => if some u.id = old then { u with buf := none, saved := true } else u
    let s := ({ s with units := moved }).saveEntry (((s.units.find? fun (u : FUnit) => some u.id == old).map FUnit.vf).getD 0) c oldest
    (s.modCore c fun k => { k with rbuf := Tbl.set k.rbuf oldest (some id) }, oldest)

/-- What a replay of a thread's instruction reads is kept where it parks at that instruction (10 R248, 12 R281). -/
def State.keepSnap (s : State) (u : FUnit) (lane x : Nat) : State :=
  if u.resume = .reexec ∧ !u.performed.getLsbD lane then
    s.modThread u.core x fun t =>
      { t with snap := t.snap.or (some ⟨t.regs, (t.group.map fun g => (s.group u.core g.1).sregs).getD [], s.clk⟩) }
  else s

/-- Park a fault unit (10 R247 to R249): its number, its buffer entry where a performed lane returned a value, its
threads parked, its record written or held. This is how every trap is taken. -/
def State.park (s : State) (u : FUnit) (needBuf : Bool) : State :=
  let id := s.nextUnit
  let s := { s with nextUnit := id + 1 }
  let sb : State × Option Nat :=
    if needBuf then ((s.bufEntry u.core id).1, some (s.bufEntry u.core id).2) else (s, none)
  let u := { u with id := id, buf := sb.2 }
  let s := u.threads.foldl (fun s e => (s.keepSnap u e.1 e.2).modThread u.core e.2 fun t =>
    { t with st := .parked, units := id :: t.units, denied := false }) sb.1
  let s := { s with units := s.units ++ [u] }
  s.postRecord u.vf (some id) (some u.core) (s.unitRecord u).bytes

/-- A unit that parks at the instruction it executes, with nothing performed. -/
def FUnit.atIssue (core vf : Nat) (gset : Option Nat) (threads : List (Nat × Nat)) (trap : Trap)
    (faulting : List Nat) (pc parkPc : Word) (origin : Nat) (resume : Resume) : FUnit :=
  let act := maskOf (threads.map Prod.fst)
  let f := maskOf faulting
  { id := 0, seq := none, vf := vf, core := core, gset := gset, threads := threads, trap := trap
    origin := origin, pc := pc, parkPc := parkPc, performed := 0, faulting := f
    pending := act &&& ~~~ f, active := act, buf := none, reqs := [], resume := resume
    busy := false, issue := none, tokens := [] }

/-! ## Denials -/

/-- What a denial record names beyond its slot and time (02 R73). -/
structure Denial where
  va : Nat
  cls : Nat
  principal : Nat
  source : Nat
  length : Nat
  pc : Word
  grid : Word
  khandle : BitVec 16
  homeCore : Nat
  homePkg : BitVec 16
  srcCore : BitVec 9
  srcPkg : BitVec 16
  deriving DecidableEq, Repr

/-- The bytes 0x08 to 0x3F of a denial record (02 R73). -/
def Denial.bytes (d : Denial) (time : DWord) : List Byte :=
  leBytes 8 time.toNat ++ leBytes 8 (d.va % 2 ^ 56) ++
  leBytes 4 (d.cls * 2 ^ 20 + d.principal * 2 ^ 8 + d.source * 2 ^ 4) ++ leBytes 4 d.length ++
  leBytes 4 d.pc.toNat ++ leBytes 4 d.grid.toNat ++ leBytes 2 d.khandle.toNat ++
  leBytes 2 d.homeCore ++ leBytes 2 d.homePkg.toNat ++ leBytes 2 d.srcCore.toNat ++
  leBytes 2 d.srcPkg.toNat ++ List.replicate 14 0

/-- A dropped denial leaves a fault record of ORIGIN 5 (02 R72, 12 R303). -/
def State.dropDenial (s : State) (v : Nat) (d : Denial) : State :=
  let r : Rec :=
    { time := s.clk, cause := 0, origin := 5, vf := BitVec.ofNat 10 v, pkg := d.homePkg
      core := d.homeCore, addr := BitVec.ofNat 64 d.va }
  s.postRecord v none (some d.homeCore) r.bytes

/-- Step 1 of R72 at the header: COUNT + 1, and HEAD + 1 where the ring has room, else LOST + 1. -/
def State.denyCount (s : State) (v : Nat) (room : Bool) : DevAt → State
  | .here p =>
    let s' := s.devPut (p + 8) (leBytes 8 (s.stillNat (p + 8) 8 + 1))
    let off := if room then 0 else 16
    s'.devPut (p + off) (leBytes 8 (s.stillNat (p + off) 8 + 1))
  | .far pkg core _ => s.devSend v pkg core .deny

/-- AppendDenial (02 R72): counted at the header, recorded where the ring has room, else lost; dropped where the log cannot
be written. -/
def State.appendDenial (s : State) (v : Nat) (d : Denial) : State :=
  let a := (s.vf v).dlog.toNat
  let n := 2 ^ (s.vf v).dlogK
  if a = 0 then s.dropDenial v d
  else
    match s.devAt v a true with
    | .error _ => s.dropDenial v d
    | .ok place =>
      let head := s.natAt 0 8 place
      let room := ringRoom head (s.natAt 24 8 place) n
      let s := s.denyCount v room place
      if room then
        match s.devWrite v (a + 0x40 + 64 * (head % n)) (leBytes 8 (head + 1) ++ d.bytes s.clk) with
        | .ok s' => s'
        | .error _ => s.dropDenial v d
      else s

end Sys2Proof.Machine
end

