-- ==== Sys2Proof/Machine/Operands.lean ====
section
/-! DEFINITION. Lanes and operands: the value of every operand form (07 R161, 08 R185, R186, 09 R195), reads that wait or
trap (02 R67, 04 R103, 20 R433), destinations (08 R187), and the register checks of 08 R188, R190, R191. -/

namespace Sys2Proof.Machine

/-! ## Lanes -/

/-- A thread as one lane of an issue: core, context, lane number (0 for a free thread), the context as it stands, the
parcels that the instruction takes, its hints, the number of the issue. -/
structure Lane where
  core : Nat
  ctx : Nat
  lane : Nat
  t : Thread
  len : Nat
  hints : BitVec 9
  num : Nat
  deriving DecidableEq, Repr

/-- The lane of a context in an issue. -/
def State.laneOf (s : State) (iss : Issue) (hints : BitVec 9) (x : Nat) : Lane :=
  let t := s.thread iss.core x
  ⟨iss.core, x, (t.group.map Prod.snd).getD 0, t, iss.len, hints, iss.num⟩

/-- The next PC of a lane (08 R171). -/
def Lane.nextPc (l : Lane) : Word := l.t.pc + BitVec.ofNat 32 l.len

/-- Hint bit `n` of the long word (08 R176). -/
def Lane.hint (l : Lane) (n : Nat) : Bool := l.hints.getLsbD (n - 72)

/-- The yield hint (08 R176). -/
def Lane.yields (l : Lane) : Bool := l.hint 74

/-- The locality hint (08 R176). -/
def Lane.locality (l : Lane) : BitVec 2 := l.hints.extractLsb' 0 2

/-- The outcome of a lane: it waits and executes again, it traps, it writes its destinations and goes on (at the next
instruction, or at a target), it acts on the state, its thread included, or it asks for something and waits. -/
inductive LaneOut where
  | wait (w : Wait)
  | trap (t : Trap)
  | write (ws : List (WRef × Word)) (pc : Option Word)
  | act (g : State → State)
  | ask (g : State → State)

/-! ## Values -/

/-- The words of a register operand. -/
def Reg.refs : Reg → List WRef
  | .g n p => if p then [.g n.toNat, .g (n.toNat + 1)] else [.g n.toNat]
  | .s n p => if p then [.s n.toNat, .s (n.toNat + 1)] else [.s n.toNat]

/-- The register words that a source names. -/
def Src.refs : Src → List WRef
  | .reg r => Reg.refs r
  | _ => []

/-- The grid of a thread on its home package. -/
def State.gridOf (s : State) (tag : Word) : Option Grid := s.grids.find? fun g => g.id == tag.toNat

/-- `$param` (07 R161): a team's pointer, else its grid's. A free thread whose grid another package holds reads a value that is free, the
same for the whole grid (log 15). -/
def State.paramOf (s : State) (l : Lane) : DWord :=
  match l.t.group with
  | some g => (s.team l.core (s.group l.core g.1).team).param
  | none =>
    match if l.t.vfPkg = s.fabnum then s.gridOf l.t.grid else none with
    | some g => g.param
    | none => Config.farParam l.t.vfPkg.toNat l.t.vf.toNat l.t.grid

/-- The value of a special operand (07 R161); a replay reads the `$clk` that its instruction was issued with (10 R248). -/
def State.special (s : State) (l : Lane) (x : Special) : DWord :=
  let g := (l.t.group.map fun g => s.group l.core g.1)
  match x with
  | .lane => BitVec.ofNat 64 l.lane
  | .grpX => (g.map fun k => k.gx.setWidth 64).getD 0
  | .grpY => (g.map fun k => k.gy.setWidth 64).getD 0
  | .grpZ => (g.map fun k => k.gz.setWidth 64).getD 0
  | .team => (g.map fun k => (s.team l.core k.team).index.setWidth 64).getD 0
  | .role => (g.map fun k => BitVec.ofNat 64 k.role).getD 0
  | .core => BitVec.ofNat 64 l.core
  | .pkg => s.fabnum.setWidth 64
  | .width => (g.map fun k => BitVec.ofNat 64 k.width).getD 1
  | .vf => l.t.vf.setWidth 64
  | .depth => l.t.depth.setWidth 64
  | .principal => l.t.principal.setWidth 64
  | .param => s.paramOf l
  | .data =>
    match g with
    | some k => (s.team l.core k.team).data
    | none => (s.kernel l.t.vf.toNat l.t.khandle.toNat).data
  | .clk =>
    match l.t.snap with
    | some k => k.clk
    | none => s.clk

/-- The value of a register operand: a word, or a pair with its low word in the even register (02 R64). -/
def State.regVal (s : State) (l : Lane) (r : Reg) : DWord :=
  match Reg.refs r with
  | [a, b] => (s.word l.core l.t b).val ++ (s.word l.core l.t a).val
  | a :: _ => (s.word l.core l.t a).val.setWidth 64
  | [] => 0

/-- The value of a source: 64 bits for a pair, else a word in the low half. A 64-bit special without the pair flag reads its
low word; an immediate is sign-extended (08 R185). -/
def State.srcVal (s : State) (l : Lane) : Src → DWord
  | .reg r => s.regVal l r
  | .special x p => if p then s.special l x else ((s.special l x).setWidth 32).setWidth 64
  | .imm v => (v.signExtend 32).setWidth 64

/-! ## Reads (02 R67) -/

/-- The trap of a word that is read: poison (20 R433), or the error of an engine token (04 R103). -/
def RegWord.readTrap (w : RegWord) : Option Trap :=
  if w.poison then some (trapOf .poison)
  else
    match w.token with
    | none => none
    | some off => (Cause.ofCode (w.val.toNat / 65536)).map fun c => ⟨c, 0, 0, off⟩

/-- Read the source words of a lane: each reference with whether its trap-on-empty hint applies. None when all may be
read. -/
def State.readCheck (s : State) (l : Lane) (rs : List (WRef × Bool)) : Option LaneOut :=
  let empty := rs.filter fun r => s.isEmpty l.core l.t r.1
  if empty.any (fun r => r.2) then some (.trap (trapOf .emptyRead))
  else if !empty.isEmpty then some (.wait (.words (empty.map fun r => r.1)))
  else (rs.findSome? fun r => (s.word l.core l.t r.1).readTrap).map .trap

/-- The references of sources in slot order, with the trap-on-empty hints of the first three (08 R176). -/
def hinted (l : Lane) : Nat → List Src → List (WRef × Bool)
  | _, [] => []
  | n, x :: xs => (Src.refs x).map (fun r => (r, n < 3 && l.hint (77 - n))) ++ hinted l (n + 1) xs

/-- A destination that is not FULL makes the lane wait (02 R67). -/
def State.destCheck (s : State) (l : Lane) (rs : List WRef) : Option LaneOut :=
  let busy := rs.filter fun r => !s.isFull l.core l.t r
  if busy.isEmpty then none else some (.wait (.words busy))

/-- Sources read, destinations free: the value-only shape of classes 0 to 2 (09 R194, R197). -/
def State.compute (s : State) (l : Lane) (srcs : List Src) (dests : List WRef)
    (f : List DWord → LaneOut) : LaneOut :=
  match s.readCheck l (hinted l 0 srcs) with
  | some o => o
  | none =>
    match s.destCheck l dests with
    | some o => o
    | none => f (srcs.map (s.srcVal l))

/-- The writes of a value to a register operand (02 R64). -/
def destWrites (r : Reg) (v : DWord) : List (WRef × Word) :=
  match Reg.refs r with
  | [a, b] => [(a, v.setWidth 32), (b, v.extractLsb' 32 32)]
  | a :: _ => [(a, v.setWidth 32)]
  | [] => []

/-- A predicate as a word. -/
def boolWord (b : Bool) : Word := if b then 1 else 0

/-! ## Checks of the decoder that depend on the thread (08 R192, steps 6 to 8) -/

/-- Opcodes that trap PRIV in user mode, and the privileged view's numbers in `srd` (08 R190, 12 R298). -/
def Instr.privileged : Instr → Bool
  | .swr .. | .halt .. | .tlbinvAll .. | .tlbinvPage .. | .roinvAll .. | .roinvPage .. => true
  | .srd _ _ _ num => 0x8000 ≤ num.toNat
  | _ => false

/-- Opcodes that a free thread may not execute (08 R191). -/
def Instr.groupOnly : Instr → Bool
  | .shfl .. | .lpred .. | .redux .. | .scan .. | .segscan .. | .segred .. | .peers ..
  | .lcompress .. | .lexpand .. | .gwait .. | .mma .. | .mmaSp .. | .sprune .. | .mdist ..
  | .mtopk .. | .acz .. | .acld .. | .acst .. | .accp .. | .acsc .. | .ldS .. | .stS ..
  | .atomS .. | .tcopy .. | .gather .. | .crdOpen .. | .crdSplit .. | .crdNext .. | .crdSave ..
  | .crdLoad .. | .crdClose .. | .rclaim .. | .rgive .. | .barTeam .. | .barRole .. | .barTree ..
  | .arrive .. | .waitCtr .. => true
  | .spill _ sp .. | .fill _ sp .. => sp
  | _ => false

/-- An operand field that names a uniform register, an accumulator row, or (outside `spill` and `fill`) a tile (08 R191). -/
def groupField (w : BitVec 16) : Bool := kindOf w == 1 || kindOf w == 6

/-- The lane registers that an operand field needs (08 R188). -/
def fieldNeed (w : BitVec 16) : Nat :=
  if kindOf w == 0 then (indexOf w).toNat + (if pairOf w then 2 else 1)
  else if kindOf w == 2 then 8 * ((indexOf w).toNat + 1)
  else 0

/-- The index of a lane register with more registers after it. -/
def regSpan (n : Nat) : Reg → Nat
  | .g k _ => k.toNat + n
  | .s _ _ => 0

/-- The registers that an instruction needs beyond its slots: groups, tiles, links, copied registers (08 R188). -/
def Instr.extraNeed : Instr → Nat
  | .qpack _ _ a _ _ => regSpan 8 a
  | .qunpack _ _ d _ _ => regSpan 8 d
  | .call .. | .callInd .. | .ret .. => 16
  | .crdNext _ d _ _ => d.toNat + 3
  | .spawn _ _ n _ | .spawnAt _ _ _ n _ => n.toNat + 1
  | .mma _ _ t _ a _ tag => Nat.max (8 * (a.toNat + 2)) (if t = .q4 then tag.toNat + 2 else 0)
  | .mmaSp _ _ t _ a _ md =>
    Nat.max (8 * (a.toNat + 2)) (8 * (md.toNat + if t = .q4 then 2 else 1))
  | .sprune _ _ d a _ => Nat.max (8 * (d.toNat + 2)) (8 * (a.toNat + 4))
  | .mdist _ _ _ _ a _ => 8 * (a.toNat + 2)
  | .mtopk _ _ _ d _ _ _ => 8 * (d.toNat + 4)
  | _ => 0

/-- The lane registers that an instruction names, as a least budget (08 R188). -/
def Instr.need (i : Instr) : Nat :=
  match i.toFields with
  | none => 0
  | some f => [fieldNeed f.d, fieldNeed f.a, fieldNeed f.b, fieldNeed f.c].foldl Nat.max (Instr.extraNeed i)

/-- An operand that only a bound thread may name (08 R191). -/
def Instr.groupOperand (i : Instr) : Bool :=
  match i.toFields with
  | none => false
  | some f => groupField f.d || groupField f.a || groupField f.b || groupField f.c

/-- Steps 6 to 8 of 08 R192 for one thread. -/
def State.decodeTrap (s : State) (i : Instr) (l : Lane) : Option Trap :=
  if Instr.privileged i && !l.t.priv then some (trapOf .priv)
  else if l.t.group.isNone && (Instr.groupOnly i || Instr.groupOperand i) then some (trapOf .unboundLaneop)
  else if Instr.need i > s.budget l.core l.t then some (trapOf .regRange)
  else none

end Sys2Proof.Machine
end

