-- ==== Sys2Proof/Machine/Flags.lean ====
section
/-! DEFINITION. Guards and everything that sets a predicate: comparison outcomes of `setp`, `fsetp` and `fclass` (09 R218,
R219), carries (09 R200), predicate logic (09 R220). The machine keeps no other flags. -/

namespace Sys2Proof.Machine

/-- The guard value of a thread (08 R175). -/
def guardVal (h : Hdr) (t : Thread) : Bool := t.pred h.guard.toNat != h.neg

/-- The guard predicate is EMPTY (08 R175). -/
def guardEmpty (h : Hdr) (t : Thread) : Bool := t.predEmpty h.guard.toNat

/-- A comparison of `setp` on two integers (09 R218). -/
def Cmp.holds (c : Cmp) (a b : Int) : Bool :=
  match c with
  | .eq => a == b
  | .ne => a != b
  | .lt => a < b
  | .le => a ≤ b
  | .gt => b < a
  | .ge => b ≤ a

/-- The outcome mask of `fsetp` (09 R218). -/
def fsetpHolds (mask : BitVec 4) (a b : Word) : Bool := mask.getLsbD (fcompare (f32v a) (f32v b))

/-- The class of an F32 word (09 R219). -/
def fclassOf (a : Word) : Nat :=
  match f32v a with
  | .nan => 8
  | .inf s => if s then 0 else 7
  | .fin s m _ =>
    if m = 0 then if s then 3 else 4
    else if m < 2 ^ 23 then if s then 2 else 5
    else if s then 1 else 6

/-- The carry of `addc` out of width `n` (09 R200). -/
def carryOut (n : Nat) (a b k : Nat) : Bool := 2 ^ n ≤ a + b + k

/-- The borrow of `subb` (09 R200). -/
def borrowOut (a b k : Nat) : Bool := a < b + k

/-- p15 to p1 with bit 0 set (09 R221). -/
def Thread.predWord (t : Thread) : Word := (setBit16 t.preds 0 true).setWidth 32

end Sys2Proof.Machine
end

