-- ==== Sys2Proof/Machine/Lanes.lean ====
section
/-! DEFINITION. How an issued lane set executes an instruction: fault units (10 R246), guards (08 R175, 09 R194), the
all-or-nothing rule of a unit whose lane traps (09 R197), and the release of group-scoped instructions (01 R12, 11 R254,
R255). -/

namespace Sys2Proof.Machine

/-! ## Units of an issue (10 R246) -/

/-- A lane put in its place by lane number. -/
def insertLane (l : Lane) : List Lane → List Lane
  | [] => [l]
  | k :: ks => if l.lane < k.lane then l :: k :: ks else k :: insertLane l ks

/-- A bound lane joins the unit of its group; a free thread is a unit of its own. -/
def addToUnits (us : List (List Lane)) (l : Lane) : List (List Lane) :=
  match l.t.group with
  | none => us ++ [[l]]
  | some g =>
    if us.any (fun u => (u.head?.bind fun k => k.t.group.map Prod.fst) == some g.1) then
      us.map fun u =>
        if (u.head?.bind fun k => k.t.group.map Prod.fst) == some g.1 then insertLane l u else u
    else us ++ [[l]]

/-- The units of an issue. -/
def unitsOf (ls : List Lane) : List (List Lane) := ls.foldl addToUnits []

/-! ## Completing, waiting and parking -/

/-- Lanes of a unit park at their instruction. -/
def State.parkLanes (s : State) (ls : List Lane) (t : Trap) (faulting : List Nat) (parkPc : Word)
    (r : Resume) : State :=
  match ls with
  | [] => s
  | l :: _ =>
    s.park (FUnit.atIssue l.core l.t.vf.toNat (l.t.group.map Prod.fst)
      (ls.map fun k => (k.lane, k.ctx)) t faulting l.t.pc parkPc 0 r) false

/-- A lane completes with writes. -/
def State.complete (s : State) (l : Lane) (ws : List (WRef × Word)) (pc : Option Word) : State :=
  (ws.foldl (fun s e => s.writeWord l.core l.ctx e.1 e.2) s).goesOn l.core l.ctx
    (pc.getD l.nextPc) l.yields

/-- What an outcome does to the state; a trap is handled with its unit. -/
def State.applyOut (s : State) (l : Lane) : LaneOut → State
  | .wait w => s.waits l.core l.ctx w
  | .trap _ => s
  | .write ws pc => s.complete l ws pc
  | .act g => g s
  | .ask g => g s

/-- The trap of an outcome. -/
def LaneOut.trapOf : LaneOut → Option Trap
  | .trap t => some t
  | _ => none

/-- The outcome waits to be tried again. -/
def LaneOut.held : LaneOut → Bool
  | .wait .retry => true
  | _ => false

/-- The outcome takes effect now. -/
def LaneOut.acts : LaneOut → Bool
  | .write _ _ | .act _ => true
  | _ => false

/-- Where a lane of a unit must try again, none of them acts before it does. -/
def holdOuts (outs : List (Lane × LaneOut)) : List (Lane × LaneOut) :=
  if outs.any fun o => o.2.held then outs.map fun o => if o.2.acts then (o.1, .wait .retry) else o else outs

/-- The active lanes of a unit: all outcomes are found first; if one traps, the unit parks and no lane writes (09 R197).
`whole` says that every active lane counts as faulting (12 R281), and that the lanes act together, in lane order (12 R296). -/
def State.runActive (s : State) (ls : List Lane) (f : State → Lane → LaneOut) (whole : Bool) : State :=
  let outs := ls.map fun l => (l, f s l)
  let outs := if whole then holdOuts outs else outs
  match outs.findSome? (fun o => o.2.trapOf) with
  | none => outs.foldl (fun s o => s.applyOut o.1 o.2) s
  | some t =>
    let bad := (outs.filter fun o => whole || o.2.trapOf.isSome).map fun o => o.1.lane
    s.parkLanes ls t bad ((ls.head?.map fun l => l.t.pc).getD 0) .reexec

/-- A lane that is not active: it waits for its guard, or goes on (08 R175, 09 R194). -/
def State.passLane (h : Hdr) (s : State) (l : Lane) : State :=
  if guardEmpty h l.t then s.waits l.core l.ctx (.words [.p h.guard.toNat])
  else if guardVal h l.t then s
  else s.goesOn l.core l.ctx l.nextPc l.yields

/-- The lanes of a unit that are active. -/
def activeLanes (h : Hdr) (ls : List Lane) : List Lane :=
  ls.filter fun l => !guardEmpty h l.t && guardVal h l.t

/-- One unit executes: decode checks of all lanes, guards, then the active lanes. -/
def State.runUnit (i : Instr) (h : Hdr) (run : State → List Lane → State) (s : State) (ls : List Lane) :
    State :=
  match ls with
  | [] => s
  | l :: _ =>
    match s.decodeTrap i l with
    | some t => s.parkLanes ls t (ls.map Lane.lane) l.t.pc .reexec
    | none => run (ls.foldl (State.passLane h) s) (activeLanes h ls)

/-- The units of the lane set that is being issued execute one after another. -/
def State.runUnits (i : Instr) (h : Hdr) (run : State → List Lane → State) (s : State) : State :=
  match s.issues with
  | [] => s
  | iss :: rest =>
    let s1 := { s with issues := rest }
    (unitsOf (iss.lanes.map (s1.laneOf iss h.hints))).foldl (State.runUnit i h run) s1

/-- An instruction that each active lane executes on its own. -/
def State.runLanes (i : Instr) (h : Hdr) (f : State → Lane → LaneOut) (s : State) : State :=
  s.runUnits i h fun s ls => s.runActive ls f false

/-- As `runLanes`; when one lane traps, every active lane of the unit is faulting (12 R281). -/
def State.runWhole (i : Instr) (h : Hdr) (f : State → Lane → LaneOut) (s : State) : State :=
  s.runUnits i h fun s ls => s.runActive ls f true

/-! ## Lanes one after another (10 R242, R244, 12 R279, R281; log 75) -/

/-- A member has not exited and has not been detached. -/
def Group.present (g : Group) : List Nat :=
  ((List.range g.width).filter fun l => !g.exited.contains l).map fun l => g.members.getD l 0

/-- The lanes of a group that execute one issue of such an instruction, as contexts in lane order. -/
def State.forkOf (s : State) (c g num : Nat) : List Nat :=
  (s.group c g).present.filter fun x => (s.thread c x).fork.any fun e => e.1 == num

/-- Lanes of the issue that have not acted. -/
def State.forkLeft (s : State) (c g num : Nat) : List Nat :=
  (s.group c g).present.filter fun x => (s.thread c x).fork == some (num, false)

/-- A waiting lane of a fork goes on: it is the next to act, or it has acted and so have all the others. -/
def State.forkTurn (s : State) (c x : Nat) : Bool :=
  match (s.thread c x).group, (s.thread c x).fork with
  | some g, some (num, false) => (s.forkLeft c g.1 num).head? == some x
  | some g, some (num, true) => (s.forkLeft c g.1 num).isEmpty
  | _, _ => true

/-- A lane of a fork takes the issue's number, unless it executes again. -/
def State.forkEnter (s : State) (l : Lane) : State :=
  if l.t.fork.any fun e => !e.2 then s
  else s.modThread l.core l.ctx fun t => { t with fork := some (l.num, false) }

/-- A lane has acted. With `hold` it goes on when every lane has; else it goes on at once. -/
def State.forkDone (s : State) (hold : Bool) (l : Lane) (num : Nat) : State :=
  if (s.thread l.core l.ctx).fork ≠ some (num, false) then s
  else
    let s := s.modThread l.core l.ctx fun t => { t with fork := some (num, true) }
    if hold && (s.thread l.core l.ctx).st == .ready then s.waits l.core l.ctx .fork else s

/-- Lanes trap: the unit parks, with the lanes that have acted performed and the others pending. `ret` says that a
performed lane returns a value (10 R248). -/
def State.forkTrap (s : State) (ret : Bool) (l : Lane) (g num : Nat) (t : Trap) (bad : List Nat) : State :=
  let xs := s.forkOf l.core g num
  let lane := fun (x : Nat) => (((s.thread l.core x).group.map Prod.snd).getD 0, x)
  let u := FUnit.atIssue l.core l.t.vf.toNat (some g) (xs.map lane) t bad l.t.pc l.t.pc 0 .reexec
  let acted := xs.filter fun x => (s.thread l.core x).fork == some (num, true)
  let done := maskOf (acted.map fun x => (lane x).1)
  let s := acted.foldl (fun s x => s.modThread l.core x fun t => { t with kept := some .fork }) s
  s.park { u with pending := u.pending &&& ~~~ done, performed := done, issue := some num } (ret && done != 0)

/-- The lane that names the issue's principal: the lowest one. -/
def State.forkLow (s : State) (l : Lane) (g num : Nat) : Lane :=
  match s.forkOf l.core g num with
  | [] => l
  | x :: _ => { l with ctx := x, t := s.thread l.core x }

/-- The lanes of a fork that have not acted, as lanes of this issue. -/
def State.forkPeers (s : State) (l : Lane) (g num : Nat) : List Lane :=
  (s.forkLeft l.core g num).map fun x =>
    { l with ctx := x, lane := ((s.thread l.core x).group.map Prod.snd).getD 0, t := s.thread l.core x }

/-- The lanes that fault with a lane: those of its issue still to act whose check traps, else itself. -/
def State.forkBad (s : State) (check : State → Lane → Option Trap) (l : Lane) (g num : Nat) : List Nat :=
  match (s.forkPeers l g num).filter fun k => (check s k).isSome with
  | [] => [l.lane]
  | ks => ks.map Lane.lane

/-- The check of an instruction whose lanes make none before the first acts. -/
def noCheck : State → Lane → Option Trap := fun _ _ => none

/-- One lane of a fork, where its turn has come. `check` is what all lanes check before one acts, `after` what a trap leaves behind beside
the parked unit. -/
def State.forkLane (hold ret : Bool) (f : State → Lane → Lane → LaneOut) (check : State → Lane → Option Trap)
    (after : State → Lane → State) (g : Nat) (s : State) (l : Lane) : State :=
  match (s.thread l.core l.ctx).st, (s.thread l.core l.ctx).fork with
  | .parked, _ => s
  | _, some (num, false) =>
    if !s.forkTurn l.core l.ctx then s.waits l.core l.ctx .fork
    else
      match ((s.forkPeers l g num).findSome? (check s)).elim (f s (s.forkLow l g num) l) .trap with
      | .trap t => after (s.forkTrap ret l g num t (s.forkBad check l g num)) l
      | .wait w => s.waits l.core l.ctx w
      | .ask k => k s
      | o => (s.applyOut l o).forkDone hold l num
  | _, _ => s

/-- What a lane that acted returns is written (10 R248). -/
def State.giveRets (s : State) (c x : Nat) : State :=
  if (s.thread c x).rets.isEmpty then s
  else ((s.thread c x).rets.foldl (fun s e => s.writeWord c x e.1 e.2) s).modThread c x fun t => { t with rets := [] }

/-- The lanes that have acted take what they return, in lane order, and go on when all have. -/
def State.forkEnd (s : State) (c g : Nat) : State :=
  (s.group c g).present.foldl (fun s x =>
    if (s.thread c x).st == .waiting .fork && (s.thread c x).fork.any (fun e => e.2) && s.forkTurn c x then (s.giveRets c x).ready c x
    else s) s

/-- A unit whose lanes act one after another: of a group in lane order; a free thread is alone. -/
def State.runFork (hold ret : Bool) (f : State → Lane → Lane → LaneOut) (check : State → Lane → Option Trap)
    (after : State → Lane → State) (s : State) (ls : List Lane) : State :=
  match ls with
  | [] => s
  | l :: _ =>
    match l.t.group with
    | none =>
      let out := fun (s : State) (l : Lane) => (check s l).elim (f s l l) LaneOut.trap
      let s1 := s.runActive ls out false
      if (out s l).trapOf.isSome then after s1 l else s1
    | some g =>
      let s := ls.foldl State.forkEnter s
      (ls.foldl (State.forkLane hold ret f check after g.1) s).forkEnd l.core g.1

/-- An instruction whose lanes act in ascending order, each on the state that the lanes before left. -/
def State.runInOrder (i : Instr) (h : Hdr) (hold ret : Bool) (f : State → Lane → Lane → LaneOut) (s : State) : State :=
  s.runUnits i h (State.runFork hold ret f noCheck fun s _ => s)

/-! ## Group-scoped instructions (01 R12, 11 R254, R255) -/

/-- The outcome of a released set: it waits as a whole, having noted something or not, it traps with every lane faulting or with those of a list, it writes and goes
on, or it acts. -/
inductive SetOut where
  | wait
  | hold (f : State → State)
  | trap (t : Trap)
  | trapIn (t : Trap) (bad : List Nat)
  | write (ws : List (Lane × List (WRef × Word)))
  | act (g : State → State)

/-- The PCs of a list of threads, rising, each once. -/
def insertPc (p : Nat) : List Nat → List Nat
  | [] => [p]
  | q :: qs => if p < q then p :: q :: qs else if p = q then q :: qs else q :: insertPc p qs

/-- Release (01 R12): when every member that is present waits at a group-scoped instruction, the set at each PC is issued,
in rising PC order. -/
def State.tryRelease (s : State) (c g : Nat) : State :=
  let k := s.group c g
  let xs := k.present
  if k.live && !xs.isEmpty && xs.all (fun x => (s.thread c x).st == .waiting .gscope) then
    let pcs := xs.foldl (fun l x => insertPc (s.thread c x).pc.toNat l) []
    let mk := fun (n : Nat) (p : Nat) =>
      ({ core := c, half := halfOf (xs.headD 0)
         lanes := xs.filter fun x => (s.thread c x).pc.toNat == p
         pc := BitVec.ofNat 32 p, num := s.nextIssue + n, word := none, len := 0
         released := true } : Issue)
    let new := pcs.zipIdx.map fun e => mk e.2 e.1
    let s := xs.foldl (fun s x => s.waits c x .set) s
    { s with issues := s.issues ++ new, nextIssue := s.nextIssue + new.length }
  else s

/-- A unit reaches a group-scoped instruction: its threads wait there, and the group may be released. -/
def State.arriveUnit (i : Instr) (s : State) (ls : List Lane) : State :=
  match ls with
  | [] => s
  | l :: _ =>
    match s.decodeTrap i l with
    | some t => s.parkLanes ls t (ls.map Lane.lane) l.t.pc .reexec
    | none =>
      let s := ls.foldl (fun s k => s.waits k.core k.ctx .gscope) s
      match l.t.group with
      | some g => s.tryRelease l.core g.1
      | none => s

/-- The released set waits behind the sets of its group that wait already. -/
def State.pendSet (s : State) (g : Nat) (iss : Issue) : State :=
  let s := iss.lanes.foldl (fun s x => s.waits iss.core x .set) s
  s.modGroup iss.core g fun k => { k with pend := k.pend ++ [iss] }

/-- What a set outcome does to its active lanes. -/
def State.applySet (s : State) (g : Nat) (iss : Issue) (active : List Lane) : SetOut → State
  | .wait => s.pendSet g iss
  | .hold f => (f s).pendSet g iss
  | .trap t => s.parkLanes active t (active.map Lane.lane) iss.pc .reexec
  | .trapIn t bad => s.parkLanes active t bad iss.pc .reexec
  | .write ws => ws.foldl (fun s e => s.complete e.1 e.2 none) s
  | .act f => f s

/-- A released set executes. -/
def State.runReleased (i : Instr) (h : Hdr) (f : State → List Lane → SetOut) (s : State) (iss : Issue)
    (ls : List Lane) : State :=
  match ls with
  | [] => s
  | l :: _ =>
    match l.t.group with
    | none => s
    | some g =>
      if !(s.group iss.core g.1).pend.isEmpty then s.pendSet g.1 iss
      else
        match s.decodeTrap i l with
        | some t => s.parkLanes ls t (ls.map Lane.lane) l.t.pc .reexec
        | none =>
          if ls.any (fun k => guardEmpty h k.t) then s.pendSet g.1 iss
          else
            let active := activeLanes h ls
            if active.isEmpty then ls.foldl (State.passLane h) s
            else
              match f s active with
              | .wait => s.pendSet g.1 iss
              | .hold f => (f s).pendSet g.1 iss
              | o => (ls.foldl (State.passLane h) s).applySet g.1 iss active o

/-- A group-scoped instruction: reaching it makes threads wait; a released set executes it. -/
def State.runSet (i : Instr) (h : Hdr) (f : State → List Lane → SetOut) (s : State) : State :=
  match s.issues with
  | [] => s
  | iss :: rest =>
    let s1 := { s with issues := rest }
    let us := unitsOf (iss.lanes.map (s1.laneOf iss h.hints))
    if iss.released then us.foldl (fun s ls => s.runReleased i h f iss ls) s1
    else us.foldl (State.arriveUnit i) s1

/-- References read in every active lane of a set: the lanes that may not read trap, or the whole set waits (11 R255). -/
def State.readAll (s : State) (ls : List Lane) (refs : Lane → List (WRef × Bool)) : Option SetOut :=
  let outs := ls.filterMap fun l => (s.readCheck l (refs l)).map fun o => (l.lane, o)
  match outs.findSome? fun o => o.2.trapOf with
  | some t => some (.trapIn t ((outs.filter fun o => o.2.trapOf.isSome).map Prod.fst))
  | none => if outs.isEmpty then none else some .wait

/-- Sources of a set, read in every active lane (11 R255). -/
def State.setRead (s : State) (ls : List Lane) (srcs : List Src) (preds : List PReg) : Option SetOut :=
  s.readAll ls fun l => hinted l 0 srcs ++ preds.map fun p => (.p p.toNat, false)

/-- Destinations of a set that are not FULL in some active lane make it wait (02 R67). -/
def State.setDest (s : State) (ls : List Lane) (ds : List WRef) : Option SetOut :=
  if (ls.filterMap fun l => s.destCheck l ds).isEmpty then none else some .wait

/-- The value-only shape of class 5: read, check destinations, compute a value for every active lane. -/
def State.setCompute (s : State) (ls : List Lane) (srcs : List Src) (preds : List PReg)
    (ds : List WRef) (f : List Lane → Lane → List (WRef × Word)) : SetOut :=
  match s.setRead ls srcs preds with
  | some o => o
  | none =>
    match s.setDest ls ds with
    | some o => o
    | none => .write (ls.map fun l => (l, f ls l))

end Sys2Proof.Machine
end

