-- ==== Sys2Proof/Machine/Alu.lean ====
section
/-! DEFINITION. Class 0: integer arithmetic, logic, shifts, bit fields and moves (09 R199 to R206). -/

namespace Sys2Proof.Machine

/-! ## Integers of a type (06 R138, R139, 09 R195) -/

/-- The width n of a type in bits. -/
def tyBits : Ty → Nat
  | .i8 | .n8 | .e4m3 | .e5m2 => 8
  | .i16 | .n16 | .f16 | .bf16 => 16
  | .i64 | .n64 | .b64 => 64
  | _ => 32

/-- The low n bits of a source as an integer: signed for i types, else unsigned. -/
def readInt (t : Ty) (v : DWord) : Int :=
  let x := BitVec.ofNat (tyBits t) v.toNat
  if t.isSigned then x.toInt else x.toNat

/-- An integer modulo 2^n, extended as its type asks. -/
def putInt (t : Ty) (x : Int) : DWord :=
  let y := BitVec.ofInt (tyBits t) x
  if t.isSigned then BitVec.ofInt 64 y.toInt else BitVec.ofNat 64 y.toNat

/-- The least value of a type. -/
def tyMin (t : Ty) : Int := if t.isSigned then -(2 ^ (tyBits t - 1) : Nat) else 0

/-- The greatest value of a type. -/
def tyMax (t : Ty) : Int :=
  if t.isSigned then (2 ^ (tyBits t - 1) : Nat) - 1 else (2 ^ tyBits t : Nat) - 1

/-- The immediate of an XI form at the width of its type (08 R179). -/
def immVal (t : Ty) (imm : Word) : DWord :=
  if t = .n64 then imm.setWidth 64 else imm.signExtend 64

/-! ## Results (09 R199 to R204) -/

/-- a + b. -/
def intAdd (t : Ty) (a b : DWord) : DWord := putInt t (readInt t a + readInt t b)
/-- a − b. -/
def intSub (t : Ty) (a b : DWord) : DWord := putInt t (readInt t a - readInt t b)
/-- The low half of a × b. -/
def intMul (t : Ty) (a b : DWord) : DWord := putInt t (readInt t a * readInt t b)
/-- floor(a × b / 2^n). -/
def intMulHi (t : Ty) (a b : DWord) : DWord :=
  putInt t (readInt t a * readInt t b / (2 ^ tyBits t : Nat))
/-- The 64-bit type of a wide product. -/
def wideTy (t : Ty) : Ty := if t = .i32 then .i64 else .n64
/-- a × b + c at 64 bits. -/
def intMadWide (t : Ty) (a b c : DWord) : DWord :=
  putInt (wideTy t) (readInt t a * readInt t b + readInt (wideTy t) c)
/-- The lesser. -/
def intMin (t : Ty) (a b : DWord) : DWord :=
  putInt t (if readInt t b < readInt t a then readInt t b else readInt t a)
/-- The greater. -/
def intMax (t : Ty) (a b : DWord) : DWord :=
  putInt t (if readInt t a < readInt t b then readInt t b else readInt t a)
/-- |a|. -/
def intAbs (t : Ty) (a : DWord) : DWord := putInt t (readInt t a).natAbs
/-- −a. -/
def intNeg (t : Ty) (a : DWord) : DWord := putInt t (-readInt t a)
/-- a + b clamped. -/
def intAddSat (t : Ty) (a b : DWord) : DWord :=
  putInt t (clampInt (tyMin t) (tyMax t) (readInt t a + readInt t b))
/-- a − b clamped. -/
def intSubSat (t : Ty) (a b : DWord) : DWord :=
  putInt t (clampInt (tyMin t) (tyMax t) (readInt t a - readInt t b))
/-- The quotient of 09 R201; all ones for b = 0. -/
def intDiv (t : Ty) (a b : DWord) : DWord :=
  if readInt t b = 0 then putInt t (-1) else putInt t ((readInt t a).tdiv (readInt t b))
/-- The remainder of 09 R201; a for b = 0. -/
def intRem (t : Ty) (a b : DWord) : DWord :=
  if readInt t b = 0 then putInt t (readInt t a) else putInt t ((readInt t a).tmod (readInt t b))
/-- A raw result of width n. -/
def rawBits (t : Ty) (x : Nat) : DWord := BitVec.ofNat 64 (x % 2 ^ tyBits t)
/-- The low n bits of a source. -/
def rawOf (t : Ty) (v : DWord) : Nat := v.toNat % 2 ^ tyBits t
/-- A count operand: one word. -/
def countOf (v : DWord) : Nat := v.toNat % 2 ^ 32
/-- `shl`. -/
def bitShl (t : Ty) (a s : DWord) : DWord :=
  if tyBits t ≤ countOf s then 0 else rawBits t (rawOf t a * 2 ^ countOf s)
/-- `shr`. -/
def bitShr (t : Ty) (a s : DWord) : DWord :=
  if tyBits t ≤ countOf s then 0 else rawBits t (rawOf t a / 2 ^ countOf s)
/-- `sar`. -/
def bitSar (t : Ty) (a s : DWord) : DWord :=
  putInt t (readInt t a / (2 ^ Nat.min (countOf s) (tyBits t - 1) : Nat))
/-- `rol` by s mod n. -/
def bitRol (t : Ty) (a s : DWord) : DWord :=
  let k := countOf s % tyBits t
  rawBits t (rawOf t a * 2 ^ k + rawOf t a / 2 ^ (tyBits t - k))
/-- `ror` by s mod n. -/
def bitRor (t : Ty) (a s : DWord) : DWord :=
  let k := countOf s % tyBits t
  rawBits t (rawOf t a / 2 ^ k + rawOf t a * 2 ^ (tyBits t - k))
/-- `bfe` (09 R203). -/
def bitExtract (t : Ty) (a f : DWord) : DWord :=
  let pos := f.toNat % 256
  let m := Nat.min (f.toNat / 256 % 256) (tyBits t)
  let v : Int := readInt t a / (2 ^ pos : Nat) % (2 ^ m : Nat)
  if m = 0 then 0
  else putInt t (if t.isSigned && v ≥ (2 ^ (m - 1) : Nat) then v - (2 ^ m : Nat) else v)
/-- `bfi` (09 R203). -/
def bitInsert (t : Ty) (a b f : DWord) : DWord :=
  let pos := f.toNat % 256
  let len := f.toNat / 256 % 256
  let mask := ((2 ^ len - 1) * 2 ^ pos) % 2 ^ tyBits t
  rawBits t ((rawOf t a &&& (2 ^ tyBits t - 1 - mask)) ||| ((rawOf t b * 2 ^ pos) &&& mask))
/-- `bfrev`. -/
def bitReverse (t : Ty) (a : DWord) : DWord :=
  rawBits t ((List.range (tyBits t)).foldl
    (fun acc k => acc * 2 + if (rawOf t a).testBit k then 1 else 0) 0)
/-- `popc`. -/
def bitCount (t : Ty) (a : DWord) : DWord :=
  BitVec.ofNat 64 ((List.range (tyBits t)).countP fun k => (rawOf t a).testBit k)
/-- `clz`; n for zero. -/
def leadZeros (t : Ty) (a : DWord) : DWord :=
  BitVec.ofNat 64 (if rawOf t a = 0 then tyBits t else tyBits t - 1 - (rawOf t a).log2)
/-- `ctz`; n for zero. -/
def trailZeros (t : Ty) (a : DWord) : DWord :=
  BitVec.ofNat 64 (((List.range (tyBits t)).find? fun k => (rawOf t a).testBit k).getD (tyBits t))
/-- `lea` (09 R204). -/
def leaSum (t : Ty) (a b c : DWord) : DWord :=
  BitVec.ofInt 64 ((a.toNat : Int) + readInt t b * (2 ^ (countOf c % 64) : Nat))

/-! ## Shapes -/

/-- One source. -/
def State.un (s : State) (l : Lane) (d : Reg) (a : Src) (f : DWord → DWord) : LaneOut :=
  s.compute l [a] (Reg.refs d) fun vs => .write (destWrites d (f (vs.getD 0 0))) none

/-- Two sources. -/
def State.bin (s : State) (l : Lane) (d : Reg) (a b : Src) (f : DWord → DWord → DWord) : LaneOut :=
  s.compute l [a, b] (Reg.refs d) fun vs =>
    .write (destWrites d (f (vs.getD 0 0) (vs.getD 1 0))) none

/-- Three sources. -/
def State.tern (s : State) (l : Lane) (d : Reg) (a b c : Src) (f : DWord → DWord → DWord → DWord) :
    LaneOut :=
  s.compute l [a, b, c] (Reg.refs d) fun vs =>
    .write (destWrites d (f (vs.getD 0 0) (vs.getD 1 0) (vs.getD 2 0))) none

/-- Two sources, and a third where the type uses its slot: an unused slot is not read (09 R213, R217). -/
def State.ternIf (s : State) (used : Bool) (l : Lane) (d : Reg) (a b c : Src) (f : DWord → DWord → DWord → DWord) : LaneOut :=
  if used then s.tern l d a b c f else s.bin l d a b fun x y => f x y 0

/-- A carry chain: two sources and a predicate, read and written (09 R200). -/
def State.carry (s : State) (l : Lane) (d : Reg) (a b : Src) (p : PReg)
    (f : DWord → DWord → Bool → DWord × Bool) : LaneOut :=
  match s.readCheck l (hinted l 0 [a, b] ++ [(.p p.toNat, false)]) with
  | some o => o
  | none =>
    match s.destCheck l (Reg.refs d) with
    | some o => o
    | none =>
      let r := f (s.srcVal l a) (s.srcVal l b) (l.t.pred p.toNat)
      .write (destWrites d r.1 ++ [(.p p.toNat, boolWord r.2)]) none

/-- An outcome of exec. -/
abbrev Out := Host.Outcome State Fault Refusal

/-! ## Meanings -/

/-- `add` (09 R199). -/
def execAdd (h : Hdr) (t : Ty) (d : Reg) (a b : Src) (s : State) : Out :=
  .next (s.runLanes (.add h t d a b) h fun s l => s.bin l d a b (intAdd t))

/-- `add` with an immediate (09 R206). -/
def execAddXi (h : Hdr) (t : Ty) (d : Reg) (a : Src) (imm : Word) (s : State) : Out :=
  .next (s.runLanes (.addXi h t d a imm) h fun s l => s.un l d a fun x => intAdd t x (immVal t imm))

/-- `sub` (09 R199). -/
def execSub (h : Hdr) (t : Ty) (d : Reg) (a b : Src) (s : State) : Out :=
  .next (s.runLanes (.sub h t d a b) h fun s l => s.bin l d a b (intSub t))

/-- `sub` with an immediate (09 R206). -/
def execSubXi (h : Hdr) (t : Ty) (d : Reg) (a : Src) (imm : Word) (s : State) : Out :=
  .next (s.runLanes (.subXi h t d a imm) h fun s l => s.un l d a fun x => intSub t x (immVal t imm))

/-- `addc` (09 R200). -/
def execAddc (h : Hdr) (t : Ty) (d : Reg) (a b : Src) (p : PReg) (s : State) : Out :=
  .next (s.runLanes (.addc h t d a b p) h fun s l => s.carry l d a b p fun x y k =>
    (putInt t (readInt t x + readInt t y + k.toNat), carryOut (tyBits t) (rawOf t x) (rawOf t y) k.toNat))

/-- `subb` (09 R200). -/
def execSubb (h : Hdr) (t : Ty) (d : Reg) (a b : Src) (p : PReg) (s : State) : Out :=
  .next (s.runLanes (.subb h t d a b p) h fun s l => s.carry l d a b p fun x y k =>
    (putInt t (readInt t x - readInt t y - k.toNat), borrowOut (rawOf t x) (rawOf t y) k.toNat))

/-- `iadd3` (09 R199). -/
def execIadd3 (h : Hdr) (t : Ty) (d : Reg) (a b c : Src) (s : State) : Out :=
  .next (s.runLanes (.iadd3 h t d a b c) h fun s l => s.tern l d a b c (fun x y z => putInt t (readInt t x + readInt t y + readInt t z)))

/-- `mul.lo` (09 R199). -/
def execMulLo (h : Hdr) (t : Ty) (d : Reg) (a b : Src) (s : State) : Out :=
  .next (s.runLanes (.mulLo h t d a b) h fun s l => s.bin l d a b (intMul t))

/-- `mul.lo` with an immediate (09 R206). -/
def execMulLoXi (h : Hdr) (t : Ty) (d : Reg) (a : Src) (imm : Word) (s : State) : Out :=
  .next (s.runLanes (.mulLoXi h t d a imm) h fun s l => s.un l d a fun x => intMul t x (immVal t imm))

/-- `mul.hi` (09 R199). -/
def execMulHi (h : Hdr) (t : Ty) (d : Reg) (a b : Src) (s : State) : Out :=
  .next (s.runLanes (.mulHi h t d a b) h fun s l => s.bin l d a b (intMulHi t))

/-- `mul.wide` (09 R199). -/
def execMulWide (h : Hdr) (t : Ty) (d : Reg) (a b : Src) (s : State) : Out :=
  .next (s.runLanes (.mulWide h t d a b) h fun s l => s.bin l d a b (fun x y => intMadWide t x y 0))

/-- `mad.lo` (09 R199). -/
def execMadLo (h : Hdr) (t : Ty) (d : Reg) (a b c : Src) (s : State) : Out :=
  .next (s.runLanes (.madLo h t d a b c) h fun s l => s.tern l d a b c (fun x y z => putInt t (readInt t x * readInt t y + readInt t z)))

/-- `mad.hi` (09 R199). -/
def execMadHi (h : Hdr) (t : Ty) (d : Reg) (a b c : Src) (s : State) : Out :=
  .next (s.runLanes (.madHi h t d a b c) h fun s l => s.tern l d a b c (fun x y z =>
    putInt t (readInt t x * readInt t y / (2 ^ tyBits t : Nat) + readInt t z)))

/-- `mad.wide` (09 R199). -/
def execMadWide (h : Hdr) (t : Ty) (d : Reg) (a b c : Src) (s : State) : Out :=
  .next (s.runLanes (.madWide h t d a b c) h fun s l => s.tern l d a b c (intMadWide t))

/-- `div` (09 R201). -/
def execDiv (h : Hdr) (t : Ty) (d : Reg) (a b : Src) (s : State) : Out :=
  .next (s.runLanes (.div h t d a b) h fun s l => s.bin l d a b (intDiv t))

/-- `rem` (09 R201). -/
def execRem (h : Hdr) (t : Ty) (d : Reg) (a b : Src) (s : State) : Out :=
  .next (s.runLanes (.rem h t d a b) h fun s l => s.bin l d a b (intRem t))

/-- `min` (09 R199). -/
def execMin (h : Hdr) (t : Ty) (d : Reg) (a b : Src) (s : State) : Out :=
  .next (s.runLanes (.min h t d a b) h fun s l => s.bin l d a b (intMin t))

/-- `min` with an immediate (09 R206). -/
def execMinXi (h : Hdr) (t : Ty) (d : Reg) (a : Src) (imm : Word) (s : State) : Out :=
  .next (s.runLanes (.minXi h t d a imm) h fun s l => s.un l d a fun x => intMin t x (immVal t imm))

/-- `max` (09 R199). -/
def execMax (h : Hdr) (t : Ty) (d : Reg) (a b : Src) (s : State) : Out :=
  .next (s.runLanes (.max h t d a b) h fun s l => s.bin l d a b (intMax t))

/-- `max` with an immediate (09 R206). -/
def execMaxXi (h : Hdr) (t : Ty) (d : Reg) (a : Src) (imm : Word) (s : State) : Out :=
  .next (s.runLanes (.maxXi h t d a imm) h fun s l => s.un l d a fun x => intMax t x (immVal t imm))

/-- `abs` (09 R199). -/
def execAbs (h : Hdr) (t : Ty) (d : Reg) (a : Src) (s : State) : Out :=
  .next (s.runLanes (.abs h t d a) h fun s l => s.un l d a (intAbs t))

/-- `neg` (09 R199). -/
def execNeg (h : Hdr) (t : Ty) (d : Reg) (a : Src) (s : State) : Out :=
  .next (s.runLanes (.neg h t d a) h fun s l => s.un l d a (intNeg t))

/-- `sadd.sat` (09 R199). -/
def execSaddSat (h : Hdr) (t : Ty) (d : Reg) (a b : Src) (s : State) : Out :=
  .next (s.runLanes (.saddSat h t d a b) h fun s l => s.bin l d a b (intAddSat t))

/-- `ssub.sat` (09 R199). -/
def execSsubSat (h : Hdr) (t : Ty) (d : Reg) (a b : Src) (s : State) : Out :=
  .next (s.runLanes (.ssubSat h t d a b) h fun s l => s.bin l d a b (intSubSat t))

/-- `and` (09 R199). -/
def execAnd (h : Hdr) (t : Ty) (d : Reg) (a b : Src) (s : State) : Out :=
  .next (s.runLanes (.and h t d a b) h fun s l => s.bin l d a b (fun x y => x &&& y))

/-- `and` with an immediate (09 R206). -/
def execAndXi (h : Hdr) (t : Ty) (d : Reg) (a : Src) (imm : Word) (s : State) : Out :=
  .next (s.runLanes (.andXi h t d a imm) h fun s l => s.un l d a fun x => x &&& immVal t imm)

/-- `or` (09 R199). -/
def execOr (h : Hdr) (t : Ty) (d : Reg) (a b : Src) (s : State) : Out :=
  .next (s.runLanes (.or h t d a b) h fun s l => s.bin l d a b (fun x y => x ||| y))

/-- `or` with an immediate (09 R206). -/
def execOrXi (h : Hdr) (t : Ty) (d : Reg) (a : Src) (imm : Word) (s : State) : Out :=
  .next (s.runLanes (.orXi h t d a imm) h fun s l => s.un l d a fun x => x ||| immVal t imm)

/-- `xor` (09 R199). -/
def execXor (h : Hdr) (t : Ty) (d : Reg) (a b : Src) (s : State) : Out :=
  .next (s.runLanes (.xor h t d a b) h fun s l => s.bin l d a b (fun x y => x ^^^ y))

/-- `xor` with an immediate (09 R206). -/
def execXorXi (h : Hdr) (t : Ty) (d : Reg) (a : Src) (imm : Word) (s : State) : Out :=
  .next (s.runLanes (.xorXi h t d a imm) h fun s l => s.un l d a fun x => x ^^^ immVal t imm)

/-- `not` (09 R199). -/
def execNot (h : Hdr) (t : Ty) (d : Reg) (a : Src) (s : State) : Out :=
  .next (s.runLanes (.not h t d a) h fun s l => s.un l d a (fun x => ~~~x))

/-- `andn` (09 R199). -/
def execAndn (h : Hdr) (t : Ty) (d : Reg) (a b : Src) (s : State) : Out :=
  .next (s.runLanes (.andn h t d a b) h fun s l => s.bin l d a b (fun x y => x &&& ~~~y))

/-- `shl` (09 R202). -/
def execShl (h : Hdr) (t : Ty) (d : Reg) (a b : Src) (s : State) : Out :=
  .next (s.runLanes (.shl h t d a b) h fun s l => s.bin l d a b (bitShl t))

/-- `shr` (09 R202). -/
def execShr (h : Hdr) (t : Ty) (d : Reg) (a b : Src) (s : State) : Out :=
  .next (s.runLanes (.shr h t d a b) h fun s l => s.bin l d a b (bitShr t))

/-- `sar` (09 R202). -/
def execSar (h : Hdr) (t : Ty) (d : Reg) (a b : Src) (s : State) : Out :=
  .next (s.runLanes (.sar h t d a b) h fun s l => s.bin l d a b (bitSar t))

/-- `rol` (09 R202). -/
def execRol (h : Hdr) (t : Ty) (d : Reg) (a b : Src) (s : State) : Out :=
  .next (s.runLanes (.rol h t d a b) h fun s l => s.bin l d a b (bitRol t))

/-- `ror` (09 R202). -/
def execRor (h : Hdr) (t : Ty) (d : Reg) (a b : Src) (s : State) : Out :=
  .next (s.runLanes (.ror h t d a b) h fun s l => s.bin l d a b (bitRor t))

/-- `bfe` (09 R203). -/
def execBfe (h : Hdr) (t : Ty) (d : Reg) (a b : Src) (s : State) : Out :=
  .next (s.runLanes (.bfe h t d a b) h fun s l => s.bin l d a b (bitExtract t))

/-- `bfi` (09 R203). -/
def execBfi (h : Hdr) (t : Ty) (d : Reg) (a b c : Src) (s : State) : Out :=
  .next (s.runLanes (.bfi h t d a b c) h fun s l => s.tern l d a b c (bitInsert t))

/-- `bfrev` (09 R203). -/
def execBfrev (h : Hdr) (t : Ty) (d : Reg) (a : Src) (s : State) : Out :=
  .next (s.runLanes (.bfrev h t d a) h fun s l => s.un l d a (bitReverse t))

/-- `popc` (09 R203). -/
def execPopc (h : Hdr) (t : Ty) (d : Reg) (a : Src) (s : State) : Out :=
  .next (s.runLanes (.popc h t d a) h fun s l => s.un l d a (bitCount t))

/-- `clz` (09 R203). -/
def execClz (h : Hdr) (t : Ty) (d : Reg) (a : Src) (s : State) : Out :=
  .next (s.runLanes (.clz h t d a) h fun s l => s.un l d a (leadZeros t))

/-- `ctz` (09 R203). -/
def execCtz (h : Hdr) (t : Ty) (d : Reg) (a : Src) (s : State) : Out :=
  .next (s.runLanes (.ctz h t d a) h fun s l => s.un l d a (trailZeros t))

/-- `lea` (09 R204). -/
def execLea (h : Hdr) (t : Ty) (d : Reg) (a b c : Src) (s : State) : Out :=
  .next (s.runLanes (.lea h t d a b c) h fun s l => s.tern l d a b c (leaSum t))

/-- `mov` (09 R205). -/
def execMov (h : Hdr) (d : Reg) (a : Src) (s : State) : Out :=
  .next (s.runLanes (.mov h d a) h fun s l => s.un l d a fun x => x)

/-- `movi` (09 R205): a pair receives the immediate sign-extended. -/
def execMovi (h : Hdr) (d : Reg) (imm : Word) (s : State) : Out :=
  .next (s.runLanes (.movi h d imm) h fun s l =>
    s.compute l [] (Reg.refs d) fun _ => .write (destWrites d (imm.signExtend 64)) none)

/-- `sel` (09 R205): the predicate first, then the selected source alone, with that slot's hint. -/
def execSel (h : Hdr) (d : Reg) (a b : Src) (p : PReg) (s : State) : Out :=
  .next (s.runLanes (.sel h d a b p) h fun s l =>
    if l.t.predEmpty p.toNat then .wait (.words [.p p.toNat])
    else
      let x := if l.t.pred p.toNat then a else b
      let hint := l.hint (if l.t.pred p.toNat then 77 else 76)
      match s.readCheck l ((Src.refs x).map fun r => (r, hint)) with
      | some o => o
      | none =>
        match s.destCheck l (Reg.refs d) with
        | some o => o
        | none => .write (destWrites d (s.srcVal l x)) none)

end Sys2Proof.Machine
end

