-- ==== Sys2Proof/Machine/Float.lean ====
section
/-! DEFINITION. Class 1: floating point (09 R206 to R211). -/

namespace Sys2Proof.Machine

/-! ## Results on codes -/

/-- Round(a + b) of a format's codes. -/
def codeAdd (m : Rnd) (f : FForm) (a b _c : Nat) : Nat :=
  (fsum m [f.decode a, f.decode b]).round f false m
/-- Round(a − b). -/
def codeSub (m : Rnd) (f : FForm) (a b _c : Nat) : Nat :=
  (fsum m [f.decode a, (f.decode b).neg]).round f false m
/-- Round(a × b). -/
def codeMul (m : Rnd) (f : FForm) (a b _c : Nat) : Nat :=
  ((f.decode a).mul (f.decode b)).round f false m
/-- Round(a × b + c), one rounding. -/
def codeFma (m : Rnd) (f : FForm) (a b c : Nat) : Nat :=
  (fsum m [(f.decode a).mul (f.decode b), f.decode c]).round f false m
/-- `fabs` on a code: the sign bit cleared (09 R210). -/
def codeAbs (f : FForm) (a _b _c : Nat) : Nat := a % 2 ^ f.signPos
/-- `fneg` on a code: the sign bit inverted (09 R210). -/
def codeNeg (f : FForm) (a _b _c : Nat) : Nat := f.signed (!a.testBit f.signPos) (a % 2 ^ f.signPos)
/-- `fsgn` on codes: a with the sign of b (09 R210). -/
def codeSgn (f : FForm) (a b _c : Nat) : Nat := f.signed (b.testBit f.signPos) (a % 2 ^ f.signPos)

/-- `fdot2` (09 R209): the exact sum of two products of halves and c, one rounding. -/
def dot2 (t : Ty) (m : Rnd) (a b c : Word) : Word :=
  let f := fformOf t
  let p := fun (x y : Nat) => (f.decode x).mul (f.decode y)
  toF32 m (fsum m [p (a.toNat % 65536) (b.toNat % 65536), p (a.toNat / 65536) (b.toNat / 65536),
    f32v c])

/-! ## Shapes -/

/-- One source, on codes. -/
def State.fun1 (s : State) (l : Lane) (d : Reg) (t : Ty) (a : Src) (g : FForm → Nat → Nat → Nat → Nat) :
    LaneOut :=
  s.un l d a fun x => (perHalf t g (x.setWidth 32) 0 0).setWidth 64

/-- Two sources, on codes. -/
def State.fun2 (s : State) (l : Lane) (d : Reg) (t : Ty) (a b : Src) (g : FForm → Nat → Nat → Nat → Nat) :
    LaneOut :=
  s.bin l d a b fun x y => (perHalf t g (x.setWidth 32) (y.setWidth 32) 0).setWidth 64

/-- One source and an immediate that holds the codes (09 R206). -/
def State.funI (s : State) (l : Lane) (d : Reg) (t : Ty) (a : Src) (imm : Word)
    (g : FForm → Nat → Nat → Nat → Nat) : LaneOut :=
  s.un l d a fun x => (perHalf t g (x.setWidth 32) imm 0).setWidth 64

/-- One F32 source. -/
def State.fw (s : State) (l : Lane) (d : Reg) (a : Src) (g : Word → Word) : LaneOut :=
  s.un l d a fun x => (g (x.setWidth 32)).setWidth 64

/-- Two F32 sources. -/
def State.fw2 (s : State) (l : Lane) (d : Reg) (a b : Src) (g : Word → Word → Word) : LaneOut :=
  s.bin l d a b fun x y => (g (x.setWidth 32) (y.setWidth 32)).setWidth 64

/-! ## Meanings -/

/-- `fadd` (09 R207). -/
def execFadd (h : Hdr) (t : Ty) (m : Rnd) (d : Reg) (a b : Src) (s : State) : Out :=
  .next (s.runLanes (.fadd h t m d a b) h fun s l => s.fun2 l d t a b (codeAdd m))

/-- `fadd` with an immediate (09 R206). -/
def execFaddXi (h : Hdr) (t : Ty) (m : Rnd) (d : Reg) (a : Src) (imm : Word) (s : State) : Out :=
  .next (s.runLanes (.faddXi h t m d a imm) h fun s l => s.funI l d t a imm (codeAdd m))

/-- `fsub` (09 R207). -/
def execFsub (h : Hdr) (m : Rnd) (d : Reg) (a b : Src) (s : State) : Out :=
  .next (s.runLanes (.fsub h m d a b) h fun s l => s.fun2 l d .f32 a b (codeSub m))

/-- `fmul` (09 R207). -/
def execFmul (h : Hdr) (t : Ty) (m : Rnd) (d : Reg) (a b : Src) (s : State) : Out :=
  .next (s.runLanes (.fmul h t m d a b) h fun s l => s.fun2 l d t a b (codeMul m))

/-- `fmul` with an immediate (09 R206). -/
def execFmulXi (h : Hdr) (t : Ty) (m : Rnd) (d : Reg) (a : Src) (imm : Word) (s : State) : Out :=
  .next (s.runLanes (.fmulXi h t m d a imm) h fun s l => s.funI l d t a imm (codeMul m))

/-- `ffma` (09 R207). -/
def execFfma (h : Hdr) (t : Ty) (m : Rnd) (d : Reg) (a b c : Src) (s : State) : Out :=
  .next (s.runLanes (.ffma h t m d a b c) h fun s l => s.tern l d a b c fun x y z =>
    (perHalf t (codeFma m) (x.setWidth 32) (y.setWidth 32) (z.setWidth 32)).setWidth 64)

/-- `fmin` (09 R207). -/
def execFmin (h : Hdr) (t : Ty) (d : Reg) (a b : Src) (s : State) : Out :=
  .next (s.runLanes (.fmin h t d a b) h fun s l => s.fun2 l d t a b fun f x y _ => fminmax f false false x y)

/-- `fmin` with an immediate (09 R206). -/
def execFminXi (h : Hdr) (t : Ty) (d : Reg) (a : Src) (imm : Word) (s : State) : Out :=
  .next (s.runLanes (.fminXi h t d a imm) h fun s l => s.funI l d t a imm fun f x y _ => fminmax f false false x y)

/-- `fmax` (09 R207). -/
def execFmax (h : Hdr) (t : Ty) (d : Reg) (a b : Src) (s : State) : Out :=
  .next (s.runLanes (.fmax h t d a b) h fun s l => s.fun2 l d t a b fun f x y _ => fminmax f true false x y)

/-- `fmax` with an immediate (09 R206). -/
def execFmaxXi (h : Hdr) (t : Ty) (d : Reg) (a : Src) (imm : Word) (s : State) : Out :=
  .next (s.runLanes (.fmaxXi h t d a imm) h fun s l => s.funI l d t a imm fun f x y _ => fminmax f true false x y)

/-- `fminn` (09 R207). -/
def execFminn (h : Hdr) (t : Ty) (d : Reg) (a b : Src) (s : State) : Out :=
  .next (s.runLanes (.fminn h t d a b) h fun s l => s.fun2 l d t a b fun f x y _ => fminmax f false true x y)

/-- `fmaxn` (09 R207). -/
def execFmaxn (h : Hdr) (t : Ty) (d : Reg) (a b : Src) (s : State) : Out :=
  .next (s.runLanes (.fmaxn h t d a b) h fun s l => s.fun2 l d t a b fun f x y _ => fminmax f true true x y)

/-- `fabs` (09 R210). -/
def execFabs (h : Hdr) (t : Ty) (d : Reg) (a : Src) (s : State) : Out :=
  .next (s.runLanes (.fabs h t d a) h fun s l => s.fun1 l d t a codeAbs)

/-- `fneg` (09 R210). -/
def execFneg (h : Hdr) (t : Ty) (d : Reg) (a : Src) (s : State) : Out :=
  .next (s.runLanes (.fneg h t d a) h fun s l => s.fun1 l d t a codeNeg)

/-- `fsgn` (09 R210). -/
def execFsgn (h : Hdr) (t : Ty) (d : Reg) (a b : Src) (s : State) : Out :=
  .next (s.runLanes (.fsgn h t d a b) h fun s l => s.fun2 l d t a b codeSgn)

/-- `fdiv` (09 R207). -/
def execFdiv (h : Hdr) (m : Rnd) (d : Reg) (a b : Src) (s : State) : Out :=
  .next (s.runLanes (.fdiv h m d a b) h fun s l => s.fw2 l d a b fun x y =>
    BitVec.ofNat 32 (fdivRound .f32 m (f32v x) (f32v y)))

/-- `fsqrt` (09 R207). -/
def execFsqrt (h : Hdr) (m : Rnd) (d : Reg) (a : Src) (s : State) : Out :=
  .next (s.runLanes (.fsqrt h m d a) h fun s l => s.fw l d a fun x => BitVec.ofNat 32 (fsqrtRound .f32 m (f32v x)))

/-- `frcp`: the rounding code is ignored (06 R152, R153). -/
def execFrcp (h : Hdr) (m : Rnd) (d : Reg) (a : Src) (s : State) : Out :=
  .next (s.runLanes (.frcp h m d a) h fun s l => s.fw l d a sfRcp)

/-- `frsq`: the rounding code is ignored (06 R152, R153). -/
def execFrsq (h : Hdr) (m : Rnd) (d : Reg) (a : Src) (s : State) : Out :=
  .next (s.runLanes (.frsq h m d a) h fun s l => s.fw l d a sfRsq)

/-- `fex2`: the rounding code is ignored (06 R152, R153). -/
def execFex2 (h : Hdr) (m : Rnd) (d : Reg) (a : Src) (s : State) : Out :=
  .next (s.runLanes (.fex2 h m d a) h fun s l => s.fw l d a sfEx2)

/-- `flg2`: the rounding code is ignored (06 R152, R153). -/
def execFlg2 (h : Hdr) (m : Rnd) (d : Reg) (a : Src) (s : State) : Out :=
  .next (s.runLanes (.flg2 h m d a) h fun s l => s.fw l d a sfLg2)

/-- `fsin`: the rounding code is ignored (06 R152, R153). -/
def execFsin (h : Hdr) (m : Rnd) (d : Reg) (a : Src) (s : State) : Out :=
  .next (s.runLanes (.fsin h m d a) h fun s l => s.fw l d a sfSin)

/-- `fcos`: the rounding code is ignored (06 R152, R153). -/
def execFcos (h : Hdr) (m : Rnd) (d : Reg) (a : Src) (s : State) : Out :=
  .next (s.runLanes (.fcos h m d a) h fun s l => s.fw l d a sfCos)

/-- `ftanh`: the rounding code is ignored (06 R152, R153). -/
def execFtanh (h : Hdr) (m : Rnd) (d : Reg) (a : Src) (s : State) : Out :=
  .next (s.runLanes (.ftanh h m d a) h fun s l => s.fw l d a sfTanh)

/-- `frnd` (09 R211). -/
def execFrnd (h : Hdr) (m : Rnd) (d : Reg) (a : Src) (s : State) : Out :=
  .next (s.runLanes (.frnd h m d a) h fun s l => s.fw l d a (fRndInt m))

/-- `ffrc` (09 R211). -/
def execFfrc (h : Hdr) (m : Rnd) (d : Reg) (a : Src) (s : State) : Out :=
  .next (s.runLanes (.ffrc h m d a) h fun s l => s.fw l d a (fFrac m))

/-- `fscale` (09 R211). -/
def execFscale (h : Hdr) (m : Rnd) (d : Reg) (a b : Src) (s : State) : Out :=
  .next (s.runLanes (.fscale h m d a b) h fun s l => s.fw2 l d a b (fScale m))

/-- `fdot2` (09 R209). -/
def execFdot2 (h : Hdr) (t : Ty) (m : Rnd) (d : Reg) (a b c : Src) (s : State) : Out :=
  .next (s.runLanes (.fdot2 h t m d a b c) h fun s l => s.tern l d a b c fun x y z =>
    (dot2 t m (x.setWidth 32) (y.setWidth 32) (z.setWidth 32)).setWidth 64)

end Sys2Proof.Machine
end

