-- ==== Sys2Proof/Machine/Convert.lean ====
section
/-! DEFINITION. Class 2: conversion and packing (09 R212 to R217). -/

namespace Sys2Proof.Machine

/-- `cvt` of a source of type u to type t (09 R212). -/
def convert (t u : Ty) (m : Rnd) (sat : Bool) (v : DWord) : DWord :=
  if u.isInt then
    if t.isInt then
      putInt t (if sat then clampInt (tyMin t) (tyMax t) (readInt u v) else readInt u v)
    else BitVec.ofNat 64 ((FVal.ofInt (readInt u v)).round (fformOf t) false m)
  else
    let x := (fformOf u).decode (v.toNat % 2 ^ tyBits u)
    if t.isInt then putInt t (fToInt m (tyMin t) (tyMax t) x)
    else BitVec.ofNat 64 (x.round (fformOf t) sat m)

/-- `cvt.pack` (09 R213). -/
def cvtPackWord (t : Ty) (m : Rnd) (a b c : Word) : Word :=
  let r := fun (sat : Bool) (x : Word) => (f32v x).round (fformOf t) sat m
  if t = .f16x2 || t = .bf16x2 then BitVec.ofNat 32 (r false b * 65536 + r false a)
  else BitVec.ofNat 32 (c.toNat % 65536 * 65536 + r true b * 256 + r true a)

/-- The references of eight consecutive registers (09 R214, R215). -/
def eightRefs (r : Reg) : List WRef :=
  (List.range 8).map fun k =>
    match r with
    | .g n _ => .g (n.toNat + k)
    | .s n _ => .s (n.toNat + k)

/-- One step of `qpack`: the codes so far with their NaN mark, and the next source (09 R214). -/
def qpackStep (tag : Nat) (acc : List Nat × Bool) (x : Word) : List Nat × Bool :=
  match f32v x with
  | .nan => (acc.1 ++ [0], true)
  | v =>
    if acc.2 || tagZero tag then (acc.1 ++ [0], acc.2)
    else (acc.1 ++ [q4Quot (tagQ tag) v (tagScale tag)], acc.2)

/-- Eight codes in a word, element 0 lowest. -/
def nibbles (cs : List Nat) : Nat := cs.foldr (fun c acc => c % 16 + 16 * acc) 0

/-- `qpack`: the code word and the output tag (09 R214). -/
def qpackWord (tag : Nat) (xs : List Word) : Word × Word :=
  let r := xs.foldl (qpackStep tag) ([], tagNan tag)
  (BitVec.ofNat 32 (nibbles r.1),
   BitVec.ofNat 32 (if r.2 then tag / 1024 * 1024 + 255 * 4 else tag))

/-- Element k of `qunpack` (09 R215). -/
def qunpackWord (m : Rnd) (tag : Nat) (a : Word) (k : Nat) : Word :=
  if tagNan tag then f32Nan
  else if tagZero tag then 0
  else toF32 m ((q4Value (tagQ tag) (a.toNat / 16 ^ k % 16)).mul (tagScale tag))

/-- Byte i of `bsel`, after the byte before it (09 R216). -/
def bselByte (a b : Word) (sel i prev : Nat) : Nat :=
  let src := a.toNat + b.toNat * 2 ^ 32
  if sel ≤ 7 then src / 256 ^ sel % 256
  else if sel = 8 then 0
  else if sel = 9 then 255
  else if sel = 10 then if i = 0 then 0 else if 128 ≤ prev then 255 else 0
  else if sel = 11 then if i = 0 then 0 else prev
  else (List.range 8).foldl
    (fun acc k => acc * 2 + if (a.toNat / 256 ^ (sel - 12)).testBit k then 1 else 0) 0

/-- `bsel` (09 R216). -/
def bselWord (a b c : Word) : Word :=
  let sel := fun (i : Nat) => c.toNat / 16 ^ i % 16
  let b0 := bselByte a b (sel 0) 0 0
  let b1 := bselByte a b (sel 1) 1 b0
  let b2 := bselByte a b (sel 2) 2 b1
  let b3 := bselByte a b (sel 3) 3 b2
  BitVec.ofNat 32 (b0 + 256 * b1 + 65536 * b2 + 16777216 * b3)

/-- An element of `pack`: the low bits, or the clamped value (09 R217). -/
def packElem (t : Ty) (sat : Bool) (v : Word) : Nat :=
  if sat then
    let x : Int := if t.isSigned then v.toInt else v.toNat
    (BitVec.ofInt (tyBits t) (clampInt (tyMin t) (tyMax t) x)).toNat
  else v.toNat % 2 ^ tyBits t

/-- `pack` (09 R217). -/
def packWord (t : Ty) (sat : Bool) (a b c : Word) : Word :=
  if tyBits t = 8 then
    BitVec.ofNat 32 (c.toNat % 65536 * 65536 + packElem t sat b * 256 + packElem t sat a)
  else BitVec.ofNat 32 (packElem t sat b * 65536 + packElem t sat a)

/-- `unpack` (09 R217). -/
def unpackWord (t : Ty) (a b : DWord) : DWord :=
  let k := countOf b % (32 / tyBits t)
  putInt t ((countOf a / 2 ^ (k * tyBits t) : Nat) : Int)

/-! ## Meanings -/

/-- `cvt` (09 R212). -/
def execCvt (h : Hdr) (t u : Ty) (m : Rnd) (sat : Bool) (d : Reg) (a : Src) (s : State) : Out :=
  .next (s.runLanes (.cvt h t u m sat d a) h fun s l => s.un l d a (convert t u m sat))

/-- `cvt.pack` (09 R213). -/
def execCvtPack (h : Hdr) (t : Ty) (m : Rnd) (d : Reg) (a b c : Src) (s : State) : Out :=
  .next (s.runLanes (.cvtPack h t m d a b c) h fun s l => s.ternIf (t != .f16x2 && t != .bf16x2) l d a b c fun x y z =>
    (cvtPackWord t m (x.setWidth 32) (y.setWidth 32) (z.setWidth 32)).setWidth 64)

/-- `qpack` (09 R214). -/
def execQpack (h : Hdr) (d a : Reg) (b : Src) (c : Reg) (s : State) : Out :=
  .next (s.runLanes (.qpack h d a b c) h fun s l =>
    let rs := eightRefs a
    match s.readCheck l (rs.map (fun r => (r, l.hint 77)) ++
        (Src.refs b).map fun r => (r, l.hint 76)) with
    | some o => o
    | none =>
      match s.destCheck l (Reg.refs d ++ Reg.refs c) with
      | some o => o
      | none =>
        let tag := (s.srcVal l b).toNat % 65536
        if !tagOk true tag then .trap (trapOf .cvtTag)
        else
          let r := qpackWord tag (rs.map fun r => (s.word l.core l.t r).val)
          .write (destWrites d (r.1.setWidth 64) ++ destWrites c (r.2.setWidth 64)) none)

/-- `qunpack` (09 R215). -/
def execQunpack (h : Hdr) (m : Rnd) (d : Reg) (a b : Src) (s : State) : Out :=
  .next (s.runLanes (.qunpack h m d a b) h fun s l =>
    s.compute l [a, b] (eightRefs d) fun vs =>
      let tag := (vs.getD 1 0).toNat % 65536
      if !tagOk true tag then .trap (trapOf .cvtTag)
      else .write ((eightRefs d).zipIdx.map fun e =>
        (e.1, qunpackWord m tag ((vs.getD 0 0).setWidth 32) e.2)) none)

/-- `bsel` (09 R216). -/
def execBsel (h : Hdr) (d : Reg) (a b c : Src) (s : State) : Out :=
  .next (s.runLanes (.bsel h d a b c) h fun s l => s.tern l d a b c fun x y z =>
    (bselWord (x.setWidth 32) (y.setWidth 32) (z.setWidth 32)).setWidth 64)

/-- `pack` (09 R217). -/
def execPack (h : Hdr) (t : Ty) (sat : Bool) (d : Reg) (a b c : Src) (s : State) : Out :=
  .next (s.runLanes (.pack h t sat d a b c) h fun s l => s.ternIf (t != .i16 && t != .n16) l d a b c fun x y z =>
    (packWord t sat (x.setWidth 32) (y.setWidth 32) (z.setWidth 32)).setWidth 64)

/-- `unpack` (09 R217). -/
def execUnpack (h : Hdr) (t : Ty) (d : Reg) (a b : Src) (s : State) : Out :=
  .next (s.runLanes (.unpack h t d a b) h fun s l => s.bin l d a b (unpackWord t))

end Sys2Proof.Machine
end

