-- ==== Sys2Proof/Machine/Cross.lean ====
section
/-! DEFINITION. Class 5, cross-lane instructions (11 R254 to R266). Values are those of the active lanes of the released
set; other lanes contribute the identity. -/

namespace Sys2Proof.Machine

/-! ## Values of a set -/

/-- The width of a lane's group. -/
def State.widthOf (s : State) (l : Lane) : Nat :=
  match l.t.group with
  | some g => (s.group l.core g.1).width
  | none => 1

/-- The active lane of a number. -/
def laneAt (ls : List Lane) (j : Nat) : Option Lane := ls.find? fun k => k.lane == j

/-- The lowest active lane; group operands are read from it (11 R256, 12 R280). -/
def groupLane : List Lane → Lane → Lane
  | [], l => l
  | k :: _, _ => k

/-- The value of a source in active lane j, or the identity. -/
def State.valAt (s : State) (ls : List Lane) (a : Src) (ident : DWord) (j : Nat) : DWord :=
  match laneAt ls j with
  | some l => s.srcVal l a
  | none => ident

/-- A group operand is read in the lowest active lane alone (11 R256): it waits or traps there. -/
def State.groupRead (s : State) (ls : List Lane) (n : Nat) (srcs : List Src) : Option SetOut :=
  match ls with
  | [] => none
  | l :: _ =>
    match s.readCheck l (hinted l n srcs) with
    | some (.trap t) => some (.trapIn t [l.lane])
    | some _ => some .wait
    | none => none

/-- The value of a group operand. -/
def State.groupVal (s : State) (ls : List Lane) (a : Src) : DWord :=
  match ls with
  | [] => 0
  | l :: _ => s.srcVal l a

/-- A group operand that a code range rejects when the instruction executes traps ILLEGAL_OP, KIND 6. -/
def illegalNow : Trap := trapOf .illegalOp 6

/-! ## Reductions (11 R261 to R263) -/

/-- The combine of an operation (11 R261). -/
def RedOp.combine (op : RedOp) (t : Ty) (m : Rnd) (a b : DWord) : DWord :=
  let f := fun (g : Nat → Nat → Nat) =>
    BitVec.ofNat 64 (g (a.toNat % 2 ^ 32) (b.toNat % 2 ^ 32))
  match op with
  | .add => if t = .f32 then f fun x y => codeAdd m .f32 x y 0 else intAdd t a b
  | .min => if t = .f32 then f fun x y => fminmax .f32 false false x y else intMin t a b
  | .max => if t = .f32 then f fun x y => fminmax .f32 true false x y else intMax t a b
  | .minn => f fun x y => fminmax .f32 false true x y
  | .maxn => f fun x y => fminmax .f32 true true x y
  | .and => a &&& b
  | .or => a ||| b
  | .xor => a ^^^ b

/-- The identity of an operation (11 R261). -/
def RedOp.ident (op : RedOp) (t : Ty) : DWord :=
  match op with
  | .add => if t = .f32 then 0x80000000#64 else 0
  | .min => if t = .f32 then 0x7F800000#64 else putInt t (tyMax t)
  | .max => if t = .f32 then 0xFF800000#64 else putInt t (tyMin t)
  | .minn | .maxn => 0x7FC00000#64
  | .and => ~~~(0 : DWord)
  | .or | .xor => 0

/-- Neighbours of one level combined (11 R262). -/
def pairUp (g : DWord → DWord → DWord) : List DWord → List DWord
  | a :: b :: vs => g a b :: pairUp g vs
  | vs => vs

/-- The tree of `redux` over at most 64 values (11 R262). -/
def reduceTree (g : DWord → DWord → DWord) (vs : List DWord) : DWord :=
  let p := pairUp g
  (p (p (p (p (p (p vs)))))).headD 0

/-- The scan from lane `lo` to lane `hi` exclusive (11 R262). -/
def scanFrom (g : DWord → DWord → DWord) (ident : DWord) (v : Nat → DWord) (lo hi : Nat) : DWord :=
  ((List.range hi).drop lo).foldl (fun acc i => g acc (v i)) ident

/-- The first lane of the segment of lane L (11 R263). -/
def segStart (ls : List Lane) (b : PReg) (l : Nat) : Nat :=
  (ls.filter fun k => k.lane ≤ l && k.t.pred b.toNat).foldl (fun m k => Nat.max m k.lane) 0

/-- The last active lane of the segment of lane L (11 R263). -/
def segLast (ls : List Lane) (b : PReg) (l : Nat) : Nat :=
  (ls.filter fun k => segStart ls b k.lane == segStart ls b l).foldl (fun m k => Nat.max m k.lane) l

/-- The code operand of `segscan` and `segred` names an operation that the type accepts (11 R261). -/
def segOp (v : DWord) (t : Ty) : Option RedOp :=
  let op := RedOp.ofCode (v.setWidth 3)
  if countOf v ≤ 7 && RedOp.tyOk t op then some op else none

/-! ## Meanings -/

/-- The source lane of `shfl`, if any (11 R259). -/
def shflLane (mode : ShflMode) (w l : Nat) (x c : DWord) : Option Nat :=
  let n := Nat.min (countOf c) w
  let sw := if n = 0 then w else 2 ^ n.log2
  let base := l - l % sw
  let x := countOf x
  match mode with
  | .idx => some (base + x % sw)
  | .up => if x ≤ l - base then some (l - x) else none
  | .down => if x < base + sw - l then some (l + x) else none
  | .xor => some (l ^^^ (x % sw))

/-- `shfl` (11 R259). -/
def execShfl (h : Hdr) (mode : ShflMode) (t : Ty) (d : Reg) (a b c : Src) (s : State) : Out :=
  .next (s.runSet (.shfl h mode t d a b c) h fun s ls =>
    s.setCompute ls [a, b, c] [] (Reg.refs d) fun ls l =>
      let own := s.srcVal l a
      match shflLane mode (s.widthOf l) l.lane (s.srcVal l b) (s.srcVal l c) with
      | some j => destWrites d (s.valAt ls a own j)
      | none => destWrites d own)

/-- The lanes whose predicate is true, as numbers (11 R260). -/
def trueLanes (ls : List Lane) (p : PReg) : List Nat :=
  (ls.filter fun l => l.t.pred p.toNat).map Lane.lane

/-- The value of `lpred` (11 R260). -/
def lpredVal (op : LpredOp) (ls : List Lane) (p : PReg) : DWord :=
  let ts := trueLanes ls p
  match op with
  | .mask => maskOf ts
  | .count => BitVec.ofNat 64 ts.length
  | .first => match ts with
    | [] => 0xFFFFFFFF#64
    | l :: _ => BitVec.ofNat 64 l
  | .every => if ts.length = ls.length then 1 else 0
  | .some => if ts.isEmpty then 0 else 1
  | .same => if ts.isEmpty || ts.length = ls.length then 1 else 0

/-- The references of an `lpred` destination. -/
def VDst.refs : VDst → List WRef
  | .reg r => Reg.refs r
  | .pred p => [.p p.toNat]

/-- The writes of an `lpred` destination. -/
def VDst.writes : VDst → DWord → List (WRef × Word)
  | .reg r, v => destWrites r v
  | .pred p, v => [(.p p.toNat, v.setWidth 32)]

/-- `lpred` (11 R260). -/
def execLpred (h : Hdr) (op : LpredOp) (d : VDst) (a : PReg) (s : State) : Out :=
  .next (s.runSet (.lpred h op d a) h fun s ls =>
    s.setCompute ls [] [a] (VDst.refs d) fun ls _ => VDst.writes d (lpredVal op ls a))

/-- `redux` (11 R262): a balanced tree over lane positions. -/
def execRedux (h : Hdr) (op : RedOp) (t : Ty) (m : Rnd) (d : Reg) (a : Src) (s : State) : Out :=
  .next (s.runSet (.redux h op t m d a) h fun s ls =>
    s.setCompute ls [a] [] (Reg.refs d) fun ls l =>
      let vs := (List.range (s.widthOf l)).map (s.valAt ls a (RedOp.ident op t))
      destWrites d (reduceTree (RedOp.combine op t m) vs))

/-- `scan` (11 R262): left to right. -/
def execScan (h : Hdr) (op : RedOp) (ex : Bool) (t : Ty) (m : Rnd) (d : Reg) (a : Src) (s : State) :
    Out :=
  .next (s.runSet (.scan h op ex t m d a) h fun s ls =>
    s.setCompute ls [a] [] (Reg.refs d) fun ls l =>
      destWrites d (scanFrom (RedOp.combine op t m) (RedOp.ident op t)
        (s.valAt ls a (RedOp.ident op t)) 0 (if ex then l.lane else l.lane + 1)))

/-- The shape of `segscan` and `segred`: the operation comes from the group operand C. A code that 11 R261 rejects traps before A and the
predicate are looked at, an order that the spec does not give (log 100: DESIGN CHOICE). -/
def State.segment (s : State) (ls : List Lane) (t : Ty) (d : Reg) (a : Src) (b : PReg) (c : Src)
    (f : RedOp → List Lane → Lane → DWord) : SetOut :=
  match s.groupRead ls 1 [c] with
  | some o => o
  | none =>
    match segOp (s.groupVal ls c) t with
    | none => .trap illegalNow
    | some op => s.setCompute ls [a] [b] (Reg.refs d) fun ls l => destWrites d (f op ls l)

/-- The inclusive or exclusive scan of a lane's segment (11 R263). -/
def State.segVal (s : State) (t : Ty) (a : Src) (b : PReg) (op : RedOp) (ls : List Lane)
    (l : Nat) (ex : Bool) : DWord :=
  scanFrom (RedOp.combine op t .rn) (RedOp.ident op t) (s.valAt ls a (RedOp.ident op t))
    (segStart ls b l) (if ex then l else l + 1)

/-- `segscan` (11 R263). -/
def execSegscan (h : Hdr) (ex : Bool) (t : Ty) (d : Reg) (a : Src) (b : PReg) (c : Src) (s : State) :
    Out :=
  .next (s.runSet (.segscan h ex t d a b c) h fun s ls =>
    s.segment ls t d a b c fun op ls l => s.segVal t a b op ls l.lane ex)

/-- `segred` (11 R263). -/
def execSegred (h : Hdr) (t : Ty) (d : Reg) (a : Src) (b : PReg) (c : Src) (s : State) : Out :=
  .next (s.runSet (.segred h t d a b c) h fun s ls =>
    s.segment ls t d a b c fun op ls l => s.segVal t a b op ls (segLast ls b l.lane) false)

/-- The peers of a lane, as numbers (11 R264). -/
def State.peersOf (s : State) (t : Ty) (a : Src) (ls : List Lane) (l : Lane) : List Nat :=
  (ls.filter fun k => rawOf t (s.srcVal k a) == rawOf t (s.srcVal l a)).map Lane.lane

/-- The value of `peers` (11 R264). -/
def State.peersVal (s : State) (op : PeersOp) (t : Ty) (a : Src) (ls : List Lane) (l : Lane) : DWord :=
  let ps := s.peersOf t a ls l
  match op with
  | .mask => maskOf ps
  | .leader => BitVec.ofNat 64 (ps.headD l.lane)
  | .rank => BitVec.ofNat 64 (ps.countP fun j => decide (j < l.lane))
  | .uniform => if ps.length = ls.length then maskOf ps else 0

/-- `peers` (11 R264). -/
def execPeers (h : Hdr) (op : PeersOp) (t : Ty) (d : Reg) (a : Src) (s : State) : Out :=
  .next (s.runSet (.peers h op t d a) h fun s ls =>
    s.setCompute ls [a] [] (Reg.refs d) fun ls l => destWrites d (s.peersVal op t a ls l))

/-- The number of active lanes below a lane (11 R265). -/
def rankOf (ls : List Lane) (l : Lane) : Nat := ls.countP fun k => decide (k.lane < l.lane)

/-- `lcompress` (11 R265). -/
def execLcompress (h : Hdr) (t : Ty) (d : Reg) (a : Src) (b : PReg) (c : Reg) (s : State) : Out :=
  .next (s.runSet (.lcompress h t d a b c) h fun s ls =>
    s.setCompute ls [a] [b] (Reg.refs d ++ Reg.refs c) fun ls l =>
      let ks := ls.filter fun k => k.t.pred b.toNat
      let v := match ks[rankOf ls l]? with
        | some k => s.srcVal k a
        | none => 0
      destWrites d v ++ destWrites c (BitVec.ofNat 64 ks.length))

/-- `lexpand` (11 R265). -/
def execLexpand (h : Hdr) (t : Ty) (d : Reg) (a : Src) (b : PReg) (c : Src) (s : State) : Out :=
  .next (s.runSet (.lexpand h t d a b c) h fun s ls =>
    s.setCompute ls [a, c] [b] (Reg.refs d) fun ls l =>
      if l.t.pred b.toNat then
        let i := rankOf (ls.filter fun k => k.t.pred b.toNat) l
        match ls[i]? with
        | some k => destWrites d (s.srcVal k a)
        | none => []
      else destWrites d (s.srcVal l c))

/-- `gwait` (11 R266). -/
def execGwait (h : Hdr) (s : State) : Out :=
  .next (s.runSet (.gwait h) h fun _ ls => .write (ls.map fun l => (l, [])))

end Sys2Proof.Machine
end

