-- ==== Sys2Proof/Machine/Threads.lean ====
section
/-! DEFINITION. The life of threads, groups and teams: outstanding requests, exits (01 R13, R21, R40, R43), barriers
(01 R36), grid counts and reservations (01 R21, R23). -/

namespace Sys2Proof.Machine

/-! ## Outstanding requests -/

/-- The request belongs to a context of this package. -/
def Req.ofCtx (r : Req) (c x : Nat) : Bool := r.core == c && r.ctx == x && r.far.isNone

/-- The request has no outcome yet; a prefetch orders nothing (10 R233). -/
def Req.open (r : Req) : Bool :=
  r.kind != .prefetch &&
    match r.stat with
    | .performed | .faulted _ | .returned | .denied _ _ => false
    | _ => true

/-- Requests of a thread that are not performed and have no other outcome. -/
def State.openReqs (s : State) (c x : Nat) : List Req := s.reqs.filter fun r => r.ofCtx c x && r.open

/-- Local accesses of a thread not yet performed (03 R78). -/
def State.localOpen (s : State) (c x : Nat) : Bool := (s.openReqs c x).any fun r => r.isLocal

/-- A request of the thread has faulted, or was returned behind one (10 R249). -/
def State.hasFault (s : State) (c x : Nat) : Bool :=
  s.reqs.any fun r => r.ofCtx c x &&
    match r.stat with
    | .faulted _ | .returned => true
    | _ => false

/-- Every request of the thread has its outcome, and its unit has none that faulted: nothing is kept (10 R249). -/
def State.drained (s : State) (c x : Nat) : Bool :=
  s.reqs.all fun r => !(r.ofCtx c x && r.kind != .prefetch)

/-! ## Counts (01 R21, R23) -/

/-- A message to the grid scheduler of a thread's home package: one exit, and a free thread's units. -/
def State.tellHome (s : State) (c : Nat) (t : Thread) (count units : Bool) : State :=
  if t.vfPkg = s.fabnum then { s with decs := s.decs ++ [⟨t.vf.toNat, t.grid, count, units⟩] }
  else s.sendPacket c t.vfPkg.toNat 0 (.decrement t.vf t.grid count units)

/-- The context of a core that messages name by a number: the one that goes by it, else the context of that number (log 52). -/
def State.named (s : State) (c n : Nat) : Nat := (((s.core c).ctxs.find? fun e => e.2.name == some n).map Prod.fst).getD n

/-- A context takes the number by which messages name it: its own, or a fresh one where an evicted thread goes by that. -/
def State.takeName (s : State) (c x : Nat) : Nat × State :=
  if s.named c x = x then (x, s)
  else
    let n := (s.core c).ctxs.foldl (fun m e => Nat.max m (e.2.name.getD 0 + 1)) (2 ^ 20)
    (n, s.modThread c x fun t => { t with name := some n })

/-- A thread that moves while a message names it keeps the number that it went by. -/
def State.keepName (s : State) (c x : Nat) : State :=
  s.modThread c x fun t =>
    if t.flush.out.isSome || t.kept == some .reserve || t.st == .halted (some .reserve) then { t with name := t.name.or (some x) } else t

/-- A reservation of one unit of the VF's count, and of the grid's where it has a cap (01 R23). -/
def State.askReserve (s : State) (c x : Nat) (t : Thread) (tf : Bool) : State :=
  if t.vfPkg = s.fabnum then
    { s with resvQ := s.resvQ ++ [⟨s.fabnum.toNat, c, x, t.vf.toNat, t.grid, tf⟩] }
  else (s.takeName c x).2.sendPacket c t.vfPkg.toNat 0 (.reserve (BitVec.ofNat 9 c) (s.takeName c x).1 t.vf t.grid tf)

/-! ## Barriers (01 R36, 12 R293) -/

/-- The live groups of a team. -/
def State.liveGroups (s : State) (c t : Nat) : List Nat :=
  (s.team c t).groups.filter fun g => (s.group c g).live

/-- A wait that stays a thread's wait while the thread is parked: what it waits for was started once. -/
def Wait.lasting : Wait → Bool
  | .barTeam | .barRole | .barTree _ | .claim _ | .reserve | .harvest | .set | .flush | .firmware | .fork => true
  | _ => false

/-- Threads that are about to park keep their waits. -/
def State.keepWaits (s : State) (c : Nat) (xs : List Nat) : State :=
  xs.foldl (fun s x => s.modThread c x fun t =>
    match t.st with
    | .waiting w => { t with kept := if w.lasting then some w else none }
    | _ => t) s

/-- A thread of a unit is halted: a trap is no event of its state (01 R40). -/
def State.anyHalted (s : State) (u : FUnit) : Bool :=
  u.threads.any fun e =>
    match (s.thread u.core e.2).st with
    | .halted _ => true
    | _ => false

/-- A unit parks whose threads did not just issue: what they wait for is kept. While one of them is halted the unit is due, and parks when
none is (01 R40; log 101: DEDUCED). -/
def State.parkWhen (s : State) (u : FUnit) (needBuf : Bool) : State :=
  if s.anyHalted u then { s with units := s.units ++ [{ u with id := s.nextUnit, due := some needBuf }], nextUnit := s.nextUnit + 1 }
  else (s.keepWaits u.core (u.threads.map Prod.snd)).park u needBuf

/-- The units of a core that were due park, where none of their threads is halted now. -/
def State.parkDue (s : State) (c : Nat) : State :=
  (s.units.filter fun u => u.core == c && u.due.isSome && !s.anyHalted u).foldl (fun s u =>
    ({ s with units := s.units.filter fun v => v.id != u.id } : State).parkWhen { u with due := none } (u.due.getD false)) s

/-- What a thread waited for has come: it goes on, where it runs; a halted or parked one waits no more. -/
def State.wakeAt (s : State) (c x : Nat) (w : Wait) (pc : Option Word) : State :=
  let t := s.thread c x
  let s' := s.modThread c x fun t => match pc with
    | some p => t.moveTo p
    | none => t
  if t.st = .waiting w then s'.ready c x
  else if t.st = .halted (some w) then s'.modThread c x fun t => { t with st := .halted none }
  else if t.kept = some w then s'.modThread c x fun t => { t with kept := none }
  else s

/-- Members that wait for a reason become ready. -/
def State.wakeMembers (s : State) (c g : Nat) (w : Wait) : State :=
  (s.group c g).present.foldl (fun s x => s.wakeAt c x w none) s

/-- `bar.team` completes when every group that has not ended has arrived. -/
def State.tryBarTeam (s : State) (c t : Nat) : State :=
  let gs := s.liveGroups c t
  if !gs.isEmpty && gs.all (fun g => (s.group c g).arrTeam) then
    gs.foldl (fun s g =>
      (s.modGroup c g fun k => { k with arrTeam := false }).wakeMembers c g .barTeam) s
  else s

/-- `bar.role` completes when every group of the role that has not ended has arrived. -/
def State.tryBarRole (s : State) (c t role : Nat) : State :=
  let gs := (s.liveGroups c t).filter fun g => (s.group c g).role == role
  if !gs.isEmpty && gs.all (fun g => (s.group c g).arrRole) then
    gs.foldl (fun s g =>
      (s.modGroup c g fun k => { k with arrRole := false }).wakeMembers c g .barRole) s
  else s

/-! ## Ends of groups and teams -/

/-- The bytes of a group's tile units at a budget (02 R64). -/
def unitBytes (width budget : Nat) : Nat := width * budget * 4

/-- A cursor slot made free (05 R123). -/
def State.freeSlot (s : State) (c slot : Nat) : State :=
  s.modCore c fun k => { k with cursors := Tbl.del k.cursors slot }

/-- The open cursor slot of a number of a group (05 R123). -/
def State.slotOf (s : State) (c g n : Nat) : Option Nat := Tbl.get none (s.group c g).cursors n

/-- Close a cursor number of a group; closing one that is not open does nothing (05 R123). -/
def State.closeCursor (s : State) (c g n : Nat) : State :=
  match s.slotOf c g n with
  | none => s
  | some slot =>
    (s.freeSlot c slot).modGroup c g fun k => { k with cursors := Tbl.del k.cursors n }

/-- The team ends with its last group: rows, blocks and pool are released (01 R43). -/
def State.tryEndTeam (s : State) (c t : Nat) : State :=
  if (s.team c t).live && (s.liveGroups c t).isEmpty then
    s.modCore c fun k => { k with teams := Tbl.del k.teams t }
  else s

/-- The group number of an arrival of a VF whose group has ended. -/
def goneGroup (v : Nat) : Nat := 2 ^ 30 + v

/-- An arrival of an ended group stays counted for its VF (12 R294), but names no group. -/
def State.treeForget (s : State) (c g v : Nat) : State :=
  { s with parts := s.parts.map fun e => (e.1, { e.2 with trees := e.2.trees.map fun t => (t.1, { t.2 with
      arrivals := t.2.arrivals.map fun a => if a.1 = c ∧ a.2.1 = g then (c, goneGroup v, a.2.2) else a }) }) }

/-- A group ends when its last member has exited (01 R13): its cursors close, its set and its pool bytes are free, those
of its outstanding releases too (its words are gone), its team's barriers count it as arrived. -/
def State.tryEndGroup (s : State) (c g : Nat) : State :=
  let k := s.group c g
  if k.live && k.present.isEmpty then
    let s := (List.range 4).foldl (fun s n => s.closeCursor c g n) s
    let s := s.modCore c fun x => { x with groups := Tbl.del x.groups g }
    let s := s.modTeam c k.team fun t =>
      let out := ((t.releases.filter fun r => r.gset == g).map fun r => unitBytes k.width (r.hi - r.lo)).foldl (· + ·) 0
      { t with
        groups := t.groups.filter (· != g), free := t.free + unitBytes k.width k.budget + out
        releases := t.releases.filter fun r => r.gset != g
        claims := t.claims.filter fun e => e.1 != g }
    let s := (s.treeForget c g (s.team c k.team).vf).tryBarTeam c k.team
    (s.tryBarRole c k.team k.role).tryEndTeam c k.team
  else s

/-- A member leaves its group, by exit or `detach`: the rest may be released (01 R12, R13). -/
def State.leaveGroup (s : State) (c g lane : Nat) : State :=
  let s := s.modGroup c g fun k => { k with exited := lane :: k.exited }
  (s.tryRelease c g).tryEndGroup c g

/-- A request that was combined into one that is gone stands alone again. -/
def Req.alone (ids : List Nat) (r : Req) : Req :=
  match r.stat with
  | .merged k => if ids.contains k then r else { r with stat := .unsent }
  | _ => r

/-- The context number of a lane whose thread is gone. -/
def goneCtx : Nat := 4096

/-- A lane of an operation whose thread exits. -/
def dropLane (x : Nat) (l : Nat × Nat) : Nat × Nat := if l.2 = x then (l.1, goneCtx) else l

/-- A crd operation in progress when a thread of its group exits. -/
def CrdBusy.drop (x : Nat) : CrdBusy → CrdBusy
  | .none => .none
  | .next num lanes d p pc len => .next num (lanes.map (dropLane x)) d p pc len
  | .split num lanes n i pc len => .split num (lanes.map (dropLane x)) n i pc len

/-- The engines keep no name of a context that is released: values for its thread are discarded (02 R68). -/
def Core.forget (k : Core) (x : Nat) : Core :=
  { k with
    mq := k.mq.map fun o => { o with
      lanes := o.lanes.map fun l => if l.ctx = x then { l with ctx := goneCtx } else l }
    copies := k.copies.map fun o => if o.ctx = x then { o with ctx := goneCtx, tok := none } else o
    spills := k.spills.map fun o => if o.ctx = x then { o with ctx := goneCtx, tok := none } else o
    cursors := k.cursors.map fun e => (e.1, { e.2 with busy := e.2.busy.drop x }) }

/-- A context is not part of a set that waits. -/
def Issue.drop (x : Nat) (i : Issue) : Issue := { i with lanes := i.lanes.filter (· != x) }

/-- A parked unit of a core without a context. -/
def FUnit.drop (c x : Nat) (u : FUnit) : FUnit :=
  if u.core = c then
    { u with threads := u.threads.filter fun e => e.2 != x, reqs := u.reqs.filter fun r => r.ctx != x }
  else u

/-- The context of a thread is released, with what it still has on the way (02 R68). -/
def State.dropContext (s : State) (c x : Nat) : State :=
  let s := s.modCore c fun k =>
    { k.forget x with
      ctxs := Tbl.del k.ctxs x
      groups := k.groups.map fun e =>
        (e.1, { e.2 with pend := (e.2.pend.map (Issue.drop x)).filter fun i => !i.lanes.isEmpty }) }
  let rs := s.reqs.filter fun r => !r.ofCtx c x
  { s with
    reqs := rs.map (Req.alone (rs.map Req.id))
    units := (s.units.map (FUnit.drop c x)).filter fun u => u.origin == 1 || !u.threads.isEmpty
    resvQ := s.resvQ.filter fun r => !(r.pkg == s.fabnum.toNat && r.core == c && r.ctx == x)
    grants := s.grants.filter fun g => !(g.core == c && g.ctx == x) }

/-- The thread holds units of 01 R23, or their grant is on its way. -/
def State.holdsUnits (s : State) (c x : Nat) : Bool :=
  (s.thread c x).resv || s.grants.any fun g => g.core == c && g.ctx == x && g.ok

/-- A thread exits (01 R21, R40, R43): its context is released, its counts are returned, its group treats it as exited. -/
def State.exitThread (s : State) (c x : Nat) : State :=
  let t := s.thread c x
  if t.st = .none then s
  else
    let held := s.holdsUnits c x
    let s := (s.dropContext c x).tellHome c t true t.group.isNone
    let s := if held then s.tellHome c t true true else s
    match t.group with
    | some g => s.leaveGroup c g.1 g.2
    | none => s

/-! ## Evicted teams (20 R427) -/

/-- The free slots that a core's rows hold (01 R8); an evicted slot has this number. -/
def slotCount : Nat := 352 * 32

/-- The context numbers of a core. -/
def ctxCount : Nat := 4096

/-- The members of a team that still exist. -/
def State.teamMembers (s : State) (c t : Nat) : List Nat := (s.liveGroups c t).flatMap fun g => (s.group c g).present

/-- Cursor slots of a team. -/
def State.teamSlots (s : State) (c t : Nat) : List Nat :=
  (s.liveGroups c t).flatMap fun g => (s.group c g).cursors.filterMap fun e => e.2

/-- Something of a team lies in the save area. -/
def State.teamGone (s : State) (c t : Nat) : Bool :=
  let m := s.team c t
  m.rowsOut != 0 || !m.spGone.isEmpty || !m.accGone.isEmpty || (s.teamMembers c t).any (ctxCount ≤ ·) ||
    (s.teamSlots c t).any (256 ≤ ·) || (s.liveGroups c t).any fun g => (s.group c g).setGone

/-! ## Frames (01 R26) -/

/-- The frame of a thread (01 R24, R26). It carries the values of g0 to g15 and nothing else of them: a mark that a word holds a token with
nonzero CAUSE (04 R103) is not in the layout and is lost (log 100: DESIGN CHOICE); a poisoned word goes as its frame's POISON (20 R433). -/
def State.mkFrame (s : State) (c : Nat) (t : Thread) (target : Nat) : Frame :=
  { pc := t.pc, pred := setBit16 t.preds 0 false, depth := t.depth, principal := t.principal
    kind := 0, vf := t.vf, khandle := t.khandle, grid := t.grid
    target := BitVec.ofNat 56 target, srcPkg := s.fabnum, bounce := false
    poison := (List.range 16).any fun n => (t.reg n).poison
    srcCore := BitVec.ofNat 9 c, vfPkg := t.vfPkg
    gregs := (List.range 16).map fun n => (t.reg n).val }

/-- The 96 bytes of a frame (01 R26): reserved fields are zero, and register gN stands at 0x20 + 4N. -/
def Frame.bytes (f : Frame) : List Byte :=
  leBytes 4 f.pc.toNat ++ leBytes 2 (f.pred.toNat / 2 * 2) ++ leBytes 2 (f.depth.toNat * 2 ^ 12 + f.principal.toNat) ++
    leBytes 2 (f.kind.toNat * 2 ^ 12 + f.vf.toNat) ++ leBytes 2 f.khandle.toNat ++ leBytes 4 f.grid.toNat ++
    leBytes 8 f.target.toNat ++ leBytes 2 f.srcPkg.toNat ++
    leBytes 2 (bitN f.bounce 15 + bitN f.poison 14 + f.srcCore.toNat) ++ leBytes 4 f.vfPkg.toNat ++
    (List.range 16).flatMap fun n => leBytes 4 (f.gregs.getD n 0).toNat

/-- The frame of 96 bytes (01 R26): a receiver ignores the reserved fields. -/
def Frame.ofBytes (bs : List Byte) : Frame :=
  let at_ := fun (off n lo len : Nat) => bits (fieldAt bs off n) lo len
  { pc := BitVec.ofNat 32 (at_ 0 4 0 32), pred := setBit16 (BitVec.ofNat 16 (at_ 4 2 0 16)) 0 false
    depth := BitVec.ofNat 4 (at_ 6 2 12 4), principal := BitVec.ofNat 12 (at_ 6 2 0 12)
    kind := BitVec.ofNat 4 (at_ 8 2 12 4), vf := BitVec.ofNat 10 (at_ 8 2 0 10)
    khandle := BitVec.ofNat 16 (at_ 0xA 2 0 16), grid := BitVec.ofNat 32 (at_ 0xC 4 0 32)
    target := BitVec.ofNat 56 (at_ 0x10 8 0 56), srcPkg := BitVec.ofNat 16 (at_ 0x18 2 0 16)
    bounce := at_ 0x1A 2 15 1 == 1, poison := at_ 0x1A 2 14 1 == 1
    srcCore := BitVec.ofNat 9 (at_ 0x1A 2 0 9), vfPkg := BitVec.ofNat 16 (at_ 0x1C 4 0 16)
    gregs := (List.range 16).map fun n => BitVec.ofNat 32 (at_ (0x20 + 4 * n) 4 0 32) }

/-- The first port of a way that bounces a frame (19 R391): one of a reserved KIND is discarded instead (01 R27). -/
def State.migWall (s : State) (f : Frame) (way : List Crossing) : Option Nat :=
  if f.kind.toNat ≤ 2 && !f.bounce then s.wallOn f.vf.toNat false way else none

/-- A bounce at a port is counted (19 R391). -/
def State.countBounce (s : State) (p : Nat) : State :=
  { s with fwbounce := Tbl.set s.fwbounce p (Tbl.get (0 : DWord) s.fwbounce p + 1) }

/-- A frame leaves a core for a home. Towards another package it may meet a firewall of this one, which returns it to the core (01 R28). -/
def State.sendFrame (s : State) (c : Nat) (f : Frame) (h : Home) : State :=
  match h with
  | .core d => s.fly f d 16
  | .host => s
  | .far p d =>
    match s.migWall f (crossOut c (outPort c p) p d) with
    | none => s.sendPacket c p d (.frame f (BitVec.ofNat 9 d))
    | some q => (s.countBounce q).fly { f with bounce := true } c 16

/-- Migrate begins (01 R24): FIREWALL at the source, else the thread waits for its words and accesses, then departs. -/
def State.migrate (s : State) (l : Lane) (va : Nat) (h : Home) : LaneOut :=
  if !s.mayRunAt l.t.vf.toNat h then .trap (trapAt .firewall 0 va)
  else if !s.allFull l.core l.t true then
    .wait (.words (((List.range 16).map WRef.g ++ (List.range 16).map WRef.p).filter fun r =>
      !s.isFull l.core l.t r))
  else if !s.drained l.core l.ctx then .wait .drained
  else .act fun s => s.modThread l.core l.ctx fun t =>
    { t with st := .departing (BitVec.ofNat 64 va) h }

end Sys2Proof.Machine
end

