-- ==== Sys2Proof/Machine/Matrix.lean ====
section
/-! DEFINITION. Class 5, matrix instructions (11 R267 to R276) and the matrix engine (04 R110 to R116, 06 R154). -/

namespace Sys2Proof.Machine

/-! ## Scratchpad and accumulator -/

/-- The bytes of a team's scratchpad grant (02 R60). -/
def Team.spSize (t : Team) : Nat := 65536 * t.spBlocks

/-- The rows of a team's accumulator grant (02 R62). -/
def Team.rows (t : Team) : Nat := 64 * t.accBlocks

/-- A range of scratchpad bytes lies in the grant. -/
def Team.inGrant (t : Team) (off n : Nat) : Bool := off + n ≤ t.spSize

/-- A range touches a poisoned 16-byte unit (20 R433). -/
def Team.spBad (t : Team) (off n : Nat) : Bool :=
  t.spPoison.any fun u => off < 16 * u + 16 && 16 * u < off + n

/-- Bytes written to scratchpad; a unit written whole is no longer poisoned (20 R433). -/
def Team.spWrite (t : Team) (off : Nat) (bs : List Byte) : Team :=
  { t with
    sp := Mem.write t.sp off bs
    spPoison := t.spPoison.filter fun u => !(off ≤ 16 * u && 16 * u + 16 ≤ off + bs.length) }

/-- An accumulator row; zero at admission (02 R62). -/
def Team.row (t : Team) (n : Nat) : AccRow := Tbl.get ⟨[], false⟩ t.acc n

/-- The columns of a row. -/
def AccRow.col (r : AccRow) (j : Nat) : Word := Tbl.get (0 : Word) r.cols j

/-- A row of 64 values, free of poison. -/
def rowOfCols (f : Nat → Word) : AccRow := ⟨(List.range 64).map fun j => (j, f j), false⟩

/-- The team with a row replaced. -/
def Team.setRow (t : Team) (n : Nat) (r : AccRow) : Team := { t with acc := Tbl.set t.acc n r }

/-! ## Geometry (04 R111) -/

/-- Bits of an element. -/
def elemBits (t : Ty) : Nat :=
  match t with
  | .q4 => 4
  | .f16 | .bf16 => 16
  | .i32 | .f32 => 32
  | _ => 8

/-- The aligned group size c. -/
def groupC (t : Ty) : Nat := if elemBits t = 16 then 16 else 32

/-- The expanded K of an operation. -/
def kOf (t : Ty) (sp : Bool) : Nat := (if sp then 1024 else 512) / elemBits t

/-- The bytes of the B elements. -/
def bBytes (sp : Bool) : Nat := if sp then 8192 else 4096

/-- The bytes of the B operand with its tags. -/
def bFoot (t : Ty) (sp : Bool) : Nat := bBytes sp + if t = .q4 then bBytes sp / 8 else 0

/-- The bytes of a row in the target format of `acsc` (11 R274). -/
def rowBytes (t : Ty) : Nat := 64 * elemBits t / 8

/-- The `acsc` writes tags (11 R274). -/
def acscTagged (t : Ty) (var : Nat) : Bool := t == .q4 || (elemBits t == 8 && var == 1)

/-- The scratchpad bytes that an operation reads or writes: offset and length (03 R88). -/
def MatOp.bytes (o : MatOp) : Nat × Nat :=
  match o.kind with
  | .mma | .mdist => (o.off, bFoot o.ty false)
  | .mmaSp => (o.off, bFoot o.ty true)
  | .acld | .acst => (o.off, 256 * o.n)
  | .acsc => (o.off, o.n * rowBytes o.ty + if acscTagged o.ty o.var then 4 * o.n else 0)
  | _ => (0, 0)

/-- The operation reads a scratchpad operand. -/
def MatOp.readsSp (o : MatOp) : Bool :=
  match o.kind with
  | .mma | .mmaSp | .mdist | .acld => true
  | _ => false

/-- The operation writes scratchpad bytes. -/
def MatOp.writesSp (o : MatOp) : Bool :=
  match o.kind with
  | .acst | .acsc => true
  | _ => false

/-- The 16-byte units of its scratchpad bytes that an operation has still to read or write (11 R275). -/
def MatOp.left (o : MatOp) : List Nat :=
  if o.readsSp || o.writesSp then
    let lo := o.bytes.1 / 16
    ((List.range ((o.bytes.1 + o.bytes.2 + 15) / 16 - lo)).map (lo + ·)).filter fun u => !o.units.any fun e => e.1 == u
  else []

/-- A write to n bytes of a team's scratchpad from an offset on releases a latch B that holds any of them (04 R115). -/
def State.releaseB (s : State) (c t off n : Nat) : State :=
  s.modCore c fun k => { k with latchB := k.latchB.filter fun l => !((s.group c l.gset).team == t && l.holds off n) }

/-- Bytes written to the scratchpad of a team. -/
def State.spPut (s : State) (c t off : Nat) (bs : List Byte) : State :=
  (s.modTeam c t fun tm => tm.spWrite off bs).releaseB c t off bs.length

/-- The operation has still to read or write one of n scratchpad bytes from an offset on (03 R88). -/
def MatOp.needs (o : MatOp) (off n : Nat) : Bool :=
  off < o.bytes.1 + o.bytes.2 && o.bytes.1 < off + n &&
    o.left.any fun u => Nat.max off o.bytes.1 < 16 * u + 16 && 16 * u < Nat.min (off + n) (o.bytes.1 + o.bytes.2)

/-- The core holds an instruction of a group that touches bytes that a queued operation of the group has still to read or write (03 R88). -/
def State.heldByMatrix (s : State) (c g off n : Nat) : Bool :=
  (s.core c).mq.any fun o => o.gset == g && o.needs off n

/-! ## ExactDotAdd (06 R154) -/

/-- The bits of element `k` of a little-endian number. -/
def elemAt (t : Ty) (v k : Nat) : Nat := bits v (elemBits t * k) (elemBits t)

/-- The value of an element; a Q4 element takes the type of its tag, and +0 in a zero block (06 R141, R143). -/
def elemVal (t : Ty) (tag code : Nat) : FVal :=
  match t with
  | .i8 => FVal.ofInt (BitVec.ofNat 8 code).toInt
  | .q4 => if tagZero tag then .fin false 0 0 else q4Value (tagQ tag) code
  | _ => (fformOf t).decode code

/-- The term of a pair: the product, or the squared difference of `mdist`. -/
def dotTerm (dist : Bool) (a b : FVal) : FVal :=
  if dist then
    let d := fsum .rn [a, b.neg]
    d.mul d
  else a.mul b

/-- An exact integer value. -/
def FVal.toInt : FVal → Int
  | .fin s a e => (if s then -1 else 1) * ((a * 2 ^ e.toNat : Nat) : Int)
  | _ => 0

/-- ExactDotAdd: one aligned group, one rounding. -/
def dotAdd (t : Ty) (dist : Bool) (acc : Word) (ta tb : Nat) (ps : List (FVal × FVal)) : Word :=
  let terms := ps.map fun p => dotTerm dist p.1 p.2
  if t = .i8 then BitVec.ofInt 32 (terms.foldl (fun x v => x + v.toInt) acc.toInt)
  else if t = .q4 then
    if tagNan ta || tagNan tb then f32Nan
    else
      let k := (tagScale ta).mul (tagScale tb)
      toF32 .rn (fsum .rn (f32v acc :: terms.map fun v => k.mul v))
  else toF32 .rn (fsum .rn (f32v acc :: terms))

/-- The expanded positions with the A elements that meet them (04 R111, R113). -/
def positions (t : Ty) (sp : Bool) (md : Nat) : List (Nat × Nat) :=
  if sp then
    (List.range (kOf t true / 8)).flatMap fun g =>
      (List.range 4).map fun m => (8 * g + bits md (12 * g + 3 * m) 3, 4 * g + m)
  else (List.range (kOf t false)).map fun k => (k, k)

/-- Metadata whose indices rise in every group (04 R113). -/
def mdOk (t : Ty) (md : Nat) : Bool :=
  (List.range (kOf t true / 8)).all fun g =>
    let i := fun (m : Nat) => bits md (12 * g + 3 * m) 3
    i 0 < i 1 && i 1 < i 2 && i 2 < i 3

/-- Words joined, the first lowest. -/
def wordsNat (ws : List Word) : Nat := ws.foldr (fun w acc => w.toNat + 2 ^ 32 * acc) 0

/-- One column of one lane of `mma`, `mma.sp` or `mdist` (04 R112). `a`, `md` and `atags` are the lane's operands, `b`
the B bytes, as numbers. -/
def mmaCol (t : Ty) (sp dist : Bool) (a md atags b btags j : Nat) (acc : Word) : Word :=
  let c := groupC t
  (List.range (kOf t sp / c)).foldl (fun acc q =>
    let ta := bits atags (16 * q) 16
    let tb := bits btags (16 * (64 * q + j)) 16
    let ps := ((positions t sp md).filter fun p => p.1 / c == q).map fun p =>
      (elemVal t ta (elemAt t a p.2), elemVal t tb (elemAt t b (64 * p.1 + j)))
    dotAdd t dist acc ta tb ps) acc

/-! ## Order of `mtopk` (04 R114, 11 R272) -/

/-- A list or row entry: value, index, from the row or not, place. -/
structure TopEntry where
  val : Word
  idx : Word
  row : Bool
  place : Nat
  deriving DecidableEq, Repr

/-- The value part of the key: the class (number, NaN, empty) and an integer that orders the class. -/
def topKey (isF mx : Bool) (e : TopEntry) : Nat × Int :=
  if e.idx = 0xFFFFFFFF#32 then (2, 0)
  else if isF then
    match f32v e.val with
    | .nan => (1, 0)
    | v =>
      let k := if v.isZero then 0
        else if v.signBit then -((e.val.toNat % 2 ^ 31 : Nat) : Int) else (e.val.toNat : Int)
      (0, if mx then -k else k)
  else (0, if mx then -e.val.toInt else e.val.toInt)

/-- Entry a comes before entry b. -/
def topBefore (isF mx : Bool) (a b : TopEntry) : Bool :=
  let ka := topKey isF mx a
  let kb := topKey isF mx b
  if ka.1 ≠ kb.1 then ka.1 < kb.1
  else if ka.2 ≠ kb.2 then ka.2 < kb.2
  else if ka.1 ≠ 2 && a.idx ≠ b.idx then a.idx.toNat < b.idx.toNat
  else if a.row ≠ b.row then b.row
  else a.place < b.place

/-- An entry put in its place. -/
def topInsert (isF mx : Bool) (e : TopEntry) : List TopEntry → List TopEntry
  | [] => [e]
  | x :: xs => if topBefore isF mx e x then e :: x :: xs else x :: topInsert isF mx e xs

/-- The best k of a lane's list and row. -/
def topBest (isF mx : Bool) (g0 : Word) (vals idxs : List Word) (r : AccRow) : List TopEntry :=
  let es := (vals.zip idxs).zipIdx.map fun e => (⟨e.1.1, e.1.2, false, e.2⟩ : TopEntry)
  let rs := (List.range 64).map fun j =>
    (⟨r.col j, g0 + BitVec.ofNat 32 j, true, j⟩ : TopEntry)
  ((es ++ rs).foldr (topInsert isF mx) []).take vals.length

/-! ## `acsc` (11 R274) -/

/-- The scale target M(T). -/
def scaleTarget (t : Ty) (var : Nat) : Nat :=
  match t with
  | .e4m3 => 448
  | .e5m2 => 57344
  | _ => [7, 6, 8, 12].getD var 7

/-- FMT of the tags that `acsc` writes. -/
def acscFmt (t : Ty) : Nat :=
  match t with
  | .e4m3 => 1
  | .e5m2 => 2
  | _ => 0

/-- v / scale rounded into the target. -/
def acscCode (t : Ty) (var : Nat) (v scale : FVal) : Nat :=
  if t = .q4 then q4Quot var v scale
  else
    match v, scale with
    | .fin s a e, .fin _ b f => roundRat (fformOf t) true .rn s a b (e - f)
    | x, _ => x.round (fformOf t) true .rn

/-- A block of 32 values: its tag and codes. -/
def acscBlock (t : Ty) (var : Nat) (vs : List Word) : Nat × List Nat :=
  let xs := vs.map f32v
  let mag := vs.foldl (fun m w => Nat.max m (w.toNat % 2 ^ 31)) 0
  if xs.any FVal.isNan then (mkTag (acscFmt t) (if t = .q4 then var else 0) (255 * 4), xs.map fun _ => 0)
  else if mag = 0 then (mkTag (acscFmt t) (if t = .q4 then var else 0) 0, xs.map fun _ => 0)
  else
    let n := leastScale (FForm.f32.decode mag) (scaleTarget t var)
    let tag := mkTag (acscFmt t) (if t = .q4 then var else 0) n
    (tag, xs.map fun x => acscCode t var x (tagScale tag))

/-- Codes of a width packed into bytes. -/
def packCodes (w : Nat) (cs : List Nat) : List Byte :=
  leBytes (cs.length * w / 8) (cs.foldr (fun c acc => c % 2 ^ w + 2 ^ w * acc) 0)

/-- The bytes of one row, and its tags. -/
def acscRow (t : Ty) (var : Nat) (f : Word) (r : AccRow) : List Byte × List Byte :=
  let vs := (List.range 64).map fun j =>
    toF32 .rn ((f32v (r.col j)).mul (f32v f))
  if acscTagged t var then
    let b0 := acscBlock t var (vs.take 32)
    let b1 := acscBlock t var (vs.drop 32)
    (packCodes (elemBits t) (b0.2 ++ b1.2), leBytes 2 b0.1 ++ leBytes 2 b1.1)
  else
    (packCodes (elemBits t) (vs.map fun v =>
      match f32v v with
      | .fin s a e => roundRat (fformOf t) true .rn s a 1 e
      | .inf s => (fformOf t).signed s (fformOf t).maxCode
      | .nan => (fformOf t).nanCode), [])

/-! ## `sprune` (11 R271) -/

/-- The magnitude of an element as a number that orders it; a NaN is above every number. -/
def pruneMag (t : Ty) (code : Nat) : Nat :=
  if t = .i8 then (BitVec.ofNat 8 code).toInt.natAbs
  else
    let f := fformOf t
    if (f.decode code).isNan then 2 ^ 20 else code % 2 ^ f.signPos

/-- The four kept positions of a group, rising: those that fewer than four others precede. -/
def pruneKeep (mags : List Nat) : List Nat :=
  (List.range 8).filter fun p =>
    ((List.range 8).countP fun q =>
      let a := mags.getD q 0
      let b := mags.getD p 0
      decide (b < a) || (a == b && decide (q < p))) < 4

/-- The kept row and the metadata of a dense row. -/
def pruneRow (t : Ty) (a : Nat) : Nat × Nat :=
  (List.range (kOf t true / 8)).foldl (fun acc g =>
    let keep := pruneKeep ((List.range 8).map fun p => pruneMag t (elemAt t a (8 * g + p)))
    let vals := (keep.zipIdx).foldl (fun v e =>
      v + elemAt t a (8 * g + e.1) * 2 ^ (elemBits t * (4 * g + e.2))) 0
    let md := (keep.zipIdx).foldl (fun v e => v + e.1 * 2 ^ (12 * g + 3 * e.2)) 0
    (acc.1 + vals, acc.2 + md)) (0, 0)

/-! ## Queueing (11 R268) -/

/-- The lane registers n to n + k − 1. -/
def gRefs (n k : Nat) : List WRef := (List.range k).map fun i => .g (n + i)

/-- The values of lane registers. -/
def Thread.vals (t : Thread) (n k : Nat) : List Word := (List.range k).map fun i => (t.reg (n + i)).val

/-- The registers of an operation's matrix sources: first register and count. -/
def MatOp.srcRegs (o : MatOp) : List (Nat × Nat) :=
  match o.kind with
  | .mma => (8 * o.tile, 16) :: if o.ty = .q4 then [(o.mdReg, 2)] else []
  | .mmaSp => [(8 * o.tile, 16), (8 * o.mdReg, if o.ty = .q4 then 16 else 8)]
  | .mdist => [(8 * o.tile, 16)]
  | _ => []

/-- The words that an operation makes EMPTY in a lane: a token, or the 2k words of `mtopk`. -/
def MatOp.emptyRegs (o : MatOp) (k : Nat) : List WRef :=
  match o.kind with
  | .mtopk => gRefs (8 * o.tile) k ++ gRefs (8 * o.tile + 16) k
  | .acld | .acst => [.g o.tok]
  | _ => []

/-- The rows that an operation names. -/
def MatOp.rowsNamed (o : MatOp) : List Nat :=
  match o.kind with
  | .mma | .mmaSp | .mdist | .mtopk => o.lanes.map fun l => o.row + l.lane
  | .accp => if o.n = 0 then [] else [o.row + o.n - 1, o.row2 + o.n - 1]
  | _ => if o.n = 0 then [] else [o.row + o.n - 1]

/-- The offset alignment of an operation (11 R268). -/
def MatOp.alignment (o : MatOp) : Nat :=
  match o.kind with
  | .mma | .mmaSp | .mdist => 128
  | .acld | .acst | .acsc => 64
  | _ => 1

/-- The metadata of a lane, as a number (11 R270). -/
def MatOp.mdOf (o : MatOp) (t : Thread) : Nat := wordsNat (t.vals (8 * o.mdReg) 12)

/-- The checks of 11 R268, in order, with the lanes that fail. -/
def MatOp.check (o : MatOp) (ls : List Lane) (tm : Team) : Option (Trap × List Nat) :=
  let all := ls.map Lane.lane
  let badMd := if o.kind = .mmaSp then (ls.filter fun l => !mdOk o.ty (o.mdOf l.t)).map Lane.lane else []
  if o.kind = .mtopk && o.lanes.any (fun m => m.k = 0 || m.k > 16) then some (illegalNow, all)
  else if o.rowsNamed.any (fun r => r ≥ tm.rows) then some (trapOf .accRange, all)
  else if o.off % o.alignment ≠ 0 then some (trapOf .align, all)
  else if !tm.inGrant o.bytes.1 o.bytes.2 then some (trapOf .prot 1, all)
  else if !badMd.isEmpty then some (trapOf .mmaMeta, badMd)
  else none

/-- The operation joins the queue: matrix sources LOCKED, tokens and list words EMPTY, threads go on. A row count of 0
queues nothing and writes the token 0 (11 R268). -/
def State.matQueue (s : State) (o : MatOp) (ls : List Lane) (counted : Bool) : State :=
  let c := (ls.head?.map Lane.core).getD 0
  if counted && o.n = 0 then
    ls.foldl (fun s l =>
      let s := (o.emptyRegs 0).foldl (fun s r => s.writeWord c l.ctx r 0) s
      s.goesOn c l.ctx l.nextPc l.yields) s
  else
    let s := ls.foldl (fun s l =>
      let s := o.srcRegs.foldl (fun s r =>
        (List.range r.2).foldl (fun s i => s.modRegSt c l.ctx (r.1 + i) lockState) s) s
      let k := ((o.lanes.find? fun m => m.lane == l.lane).map MLane.k).getD 0
      let s := (o.emptyRegs k).foldl (fun s r => s.emptyWord c l.ctx r) s
      s.goesOn c l.ctx l.nextPc l.yields) s
    s.modCore c fun k => { k with mq := k.mq ++ [o] }

/-- The reads of a matrix instruction in one lane, with the hints of its slots; `mtopk` reads its list (11 R268, R272). -/
def MatOp.reads (o : MatOp) (l : Lane) : List (WRef × Bool) :=
  let k := ((o.lanes.find? fun m => m.lane == l.lane).map fun m => Nat.min m.k 16).getD 0
  (o.srcRegs.zipIdx.flatMap fun e =>
    (gRefs e.1.1 e.1.2).map fun r => (r, l.hint (if e.2 = 0 then 77 else 75))) ++
  if o.kind = .mtopk then (o.emptyRegs k).map fun r => (r, false) else []

/-- A matrix instruction executes for a released set (04 R110, 11 R268). `grp` are the operands read under 11 R256, the first of
them register source `n` of the instruction, or one in slot D, which has no hint, at `n` = 3 (08 R176); `lane` those read per lane; `mk`
builds the operation from their values. The spec gives no order among the waits and the traps of the sources, nor between them and the wait
for a full queue (log 100: DESIGN CHOICE): an operand of the group that is EMPTY makes the set wait before another source's trap-on-empty is
looked at, and a source that traps does so even while the queue is full. -/
def State.matIssue (s : State) (ls : List Lane) (n : Nat) (grp lane : List Src) (counted : Bool)
    (mk : List Lane → MatOp) : SetOut :=
  match s.groupRead ls n grp, s.setRead ls lane [] with
  | some o, _ => o
  | none, some o => o
  | none, none =>
    let o := mk ls
    let c := (ls.head?.map Lane.core).getD 0
    match s.readAll ls o.reads with
    | some (.trapIn t bad) => .trapIn t bad
    | reads =>
      let busy := ls.any fun l =>
        let k := ((o.lanes.find? fun m => m.lane == l.lane).map MLane.k).getD 0
        (s.destCheck l (o.emptyRegs k)).isSome
      if reads.isSome || busy || (s.core c).mq.length ≥ 8 then .wait
      else
        match o.check ls (s.team c o.team) with
        | some (t, bad) => .trapIn t bad
        | none => .act fun s => s.matQueue o ls counted

/-- An operation of a set, with its lanes. -/
def State.matOp (s : State) (kind : MKind) (ty : Ty) (ls : List Lane) : MatOp :=
  let l := ls.head?
  let g := ((l.bind fun k => k.t.group).map Prod.fst).getD 0
  let c := (l.map Lane.core).getD 0
  { kind := kind, gset := g, team := (s.group c g).team
    vf := (l.map fun k => k.t.vf.toNat).getD 0, ty := ty, flag := false, var := 0, row := 0
    row2 := 0, off := 0, n := 0, f := 0, tile := 0, mdReg := 0
    lanes := ls.map fun k => ⟨k.lane, k.ctx, 0, 0, [], []⟩
    grid := (l.map fun k => k.t.grid).getD 0, bad := false
    tok := 0, reuseA := (l.map fun k => k.hint 79).getD false
    reuseB := (l.map fun k => k.hint 78).getD false, start := none
    pc := (l.map fun k => k.t.pc).getD 0, units := [] }

/-- The value of a group operand as a number. -/
def State.groupNat (s : State) (ls : List Lane) (a : Src) : Nat := countOf (s.groupVal ls a)

/-! ## Meanings -/

/-- `mma` (11 R267 to R269). -/
def execMma (h : Hdr) (z : Bool) (t : Ty) (row : Row) (a : Tile) (off : Src) (tag : GReg) (s : State) :
    Out :=
  .next (s.runSet (.mma h z t row a off tag) h fun s ls =>
    s.matIssue ls 1 [off] [] false fun ls =>
      { s.matOp .mma t ls with
        flag := z, row := row.toNat, tile := a.toNat, off := s.groupNat ls off, mdReg := tag.toNat })

/-- `mma.sp` (11 R267 to R270). -/
def execMmaSp (h : Hdr) (z : Bool) (t : Ty) (row : Row) (a : Tile) (off : Src) (md : Tile) (s : State) :
    Out :=
  .next (s.runSet (.mmaSp h z t row a off md) h fun s ls =>
    s.matIssue ls 1 [off] [] false fun ls =>
      { s.matOp .mmaSp t ls with
        flag := z, row := row.toNat, tile := a.toNat, off := s.groupNat ls off, mdReg := md.toNat })

/-- `sprune` (11 R271): every source is read before any destination is written. Where the metadata tile overlaps the destination
tiles the spec does not say which write stands: the metadata is written last (DESIGN CHOICE, log 97). -/
def execSprune (h : Hdr) (t : Ty) (d a c : Tile) (s : State) : Out :=
  .next (s.runSet (.sprune h t d a c) h fun s ls =>
    match s.readAll ls fun l => (gRefs (8 * a.toNat) 32).map fun r => (r, l.hint 77) with
    | some o => o
    | none =>
      let ds := gRefs (8 * d.toNat) 16 ++ gRefs (8 * c.toNat) 8
      match s.setDest ls ds with
      | some o => o
      | none => .write (ls.map fun l =>
          let r := pruneRow t (wordsNat (l.t.vals (8 * a.toNat) 32))
          let word := fun (v i : Nat) => BitVec.ofNat 32 (v / 2 ^ (32 * i))
          (l, (gRefs (8 * d.toNat) 16).zipIdx.map (fun e => (e.1, word r.1 e.2)) ++
            (gRefs (8 * c.toNat) 8).zipIdx.map fun e => (e.1, word r.2 e.2))))

/-- `mdist` (11 R267 to R269). -/
def execMdist (h : Hdr) (z : Bool) (t : Ty) (row : Row) (a : Tile) (off : Src) (s : State) : Out :=
  .next (s.runSet (.mdist h z t row a off) h fun s ls =>
    s.matIssue ls 1 [off] [] false fun ls =>
      { s.matOp .mdist t ls with
        flag := z, row := row.toNat, tile := a.toNat, off := s.groupNat ls off })

/-- `mtopk` (11 R272): each lane's list is read now, its 2k words become EMPTY. -/
def execMtopk (h : Hdr) (mx : Bool) (t : Ty) (d : Tile) (row : Row) (g0 k : Src) (s : State) : Out :=
  .next (s.runSet (.mtopk h mx t d row g0 k) h fun s ls =>
    s.matIssue ls 0 [] [g0, k] false fun ls =>
      { s.matOp .mtopk t ls with
        flag := mx, row := row.toNat, tile := d.toNat
        lanes := ls.map fun l =>
          let n := countOf (s.srcVal l k)
          ⟨l.lane, l.ctx, (s.srcVal l g0).setWidth 32, n, l.t.vals (8 * d.toNat) (Nat.min n 16),
           l.t.vals (8 * d.toNat + 16) (Nat.min n 16)⟩ })

/-- `acz` (11 R273). -/
def execAcz (h : Hdr) (row : Row) (n : Src) (s : State) : Out :=
  .next (s.runSet (.acz h row n) h fun s ls =>
    s.matIssue ls 0 [n] [] true fun ls =>
      { s.matOp .acz .i32 ls with row := row.toNat, n := s.groupNat ls n })

/-- `acld` (11 R273). -/
def execAcld (h : Hdr) (row : Row) (off n : Src) (tok : GReg) (s : State) : Out :=
  .next (s.runSet (.acld h row off n tok) h fun s ls =>
    s.matIssue ls 0 [off, n] [] true fun ls =>
      { s.matOp .acld .i32 ls with
        row := row.toNat, off := s.groupNat ls off, n := s.groupNat ls n, tok := tok.toNat })

/-- `acst` (11 R273). -/
def execAcst (h : Hdr) (row : Row) (off n : Src) (tok : GReg) (s : State) : Out :=
  .next (s.runSet (.acst h row off n tok) h fun s ls =>
    s.matIssue ls 0 [off, n] [] true fun ls =>
      { s.matOp .acst .i32 ls with
        row := row.toNat, off := s.groupNat ls off, n := s.groupNat ls n, tok := tok.toNat })

/-- `accp` (11 R273). -/
def execAccp (h : Hdr) (t : Ty) (d b : Row) (n : Src) (s : State) : Out :=
  .next (s.runSet (.accp h t d b n) h fun s ls =>
    s.matIssue ls 0 [n] [] true fun ls =>
      { s.matOp .accp t ls with row := d.toNat, row2 := b.toNat, n := s.groupNat ls n })

/-- `acsc` (11 R274). The offset stands in slot D, which the trap-on-empty bits do not cover (08 R176). -/
def execAcsc (h : Hdr) (t : Ty) (var : BitVec 2) (off : Src) (row : Row) (n f : Src) (s : State) : Out :=
  .next (s.runSet (.acsc h t var off row n f) h fun s ls =>
    (s.groupRead ls 3 [off]).getD (s.matIssue ls 0 [n, f] [] true fun ls =>
      { s.matOp .acsc t ls with
        var := var.toNat, row := row.toNat, off := s.groupNat ls off, n := s.groupNat ls n
        f := (s.groupVal ls f).setWidth 32 }))

/-! ## The engine (04 R110 to R116) -/

/-- What an operation does to its team: the team after it and the values its lanes receive, or the cause that ends it. -/
def MatOp.run (o : MatOp) (t : Team) : Except Cause (Team × List (Nat × List (WRef × Word))) :=
  let rowBad := fun (r : Nat) => (t.row r).poison
  let rows := List.range o.n
  match o.kind with
  | .mma | .mmaSp | .mdist =>
    let sp := o.kind == .mmaSp
    if o.bad || t.spBad o.off (bFoot o.ty sp) then .error .poison
    else if !o.flag && o.lanes.any (fun l => rowBad (o.row + l.lane)) then .error .poison
    else
      let b := Mem.readNat t.sp o.off (bBytes sp)
      let bt := if o.ty = .q4 then Mem.readNat t.sp (o.off + bBytes sp) (bBytes sp / 8) else 0
      let atags := fun (l : MLane) => if sp then wordsNat (l.md.drop 12) else wordsNat l.md
      let nq := kOf o.ty sp / groupC o.ty
      let badTag := o.ty == .q4 && o.lanes.any fun l =>
        (List.range nq).any fun q => tagFmt (bits (atags l) (16 * q) 16) != 0 ||
          (List.range 64).any fun j => tagFmt (bits bt (16 * (64 * q + j)) 16) != 0
      if badTag then .error .cvtTag
      else .ok (o.lanes.foldl (fun tm l =>
        tm.setRow (o.row + l.lane) (rowOfCols fun j =>
          mmaCol o.ty sp (o.kind == .mdist) (wordsNat l.a) (wordsNat (l.md.take 12)) (atags l) b bt j
            (if o.flag then 0 else (t.row (o.row + l.lane)).col j))) t, [])
  | .mtopk =>
    if o.lanes.any (fun l => rowBad (o.row + l.lane)) then .error .poison
    else .ok (t, o.lanes.map fun l =>
      let best := topBest (o.ty == .f32) o.flag l.g0 l.a l.md (t.row (o.row + l.lane))
      (l.ctx, best.zipIdx.flatMap fun e =>
        [(.g (8 * o.tile + e.2), e.1.val), (.g (8 * o.tile + 16 + e.2), e.1.idx)]))
  | .acz => .ok (rows.foldl (fun tm i => tm.setRow (o.row + i) ⟨[], false⟩) t, [])
  | .acld =>
    if t.spBad o.off (256 * o.n) then .error .poison
    else .ok (rows.foldl (fun tm i => tm.setRow (o.row + i) (rowOfCols fun j =>
      BitVec.ofNat 32 (Mem.readNat t.sp (o.off + 256 * i + 4 * j) 4))) t, [])
  | .acst =>
    if rows.any (fun i => rowBad (o.row + i)) then .error .poison
    else .ok (rows.foldl (fun tm i => tm.spWrite (o.off + 256 * i)
      ((List.range 64).flatMap fun j => leBytes 4 ((t.row (o.row + i)).col j).toNat)) t, [])
  | .accp =>
    if rows.any (fun i => rowBad (o.row + i) || rowBad (o.row2 + i)) then .error .poison
    else .ok (rows.foldl (fun tm i =>
      let a := tm.row (o.row + i)
      let b := tm.row (o.row2 + i)
      tm.setRow (o.row + i) (rowOfCols fun j =>
        if o.ty = .f32 then f32Add .rn (a.col j) (b.col j) else a.col j + b.col j)) t, [])
  | .acsc =>
    if rows.any (fun i => rowBad (o.row + i)) then .error .poison
    else .ok (rows.foldl (fun tm i =>
      let r := acscRow o.ty o.var o.f (t.row (o.row + i))
      let tm := tm.spWrite (o.off + i * rowBytes o.ty) r.1
      if acscTagged o.ty o.var then tm.spWrite (o.off + o.n * rowBytes o.ty + 4 * i) r.2 else tm) t, [])

/-- A team with one 16-byte unit of scratchpad replaced. -/
def Team.setUnit (t : Team) (u : Nat) (bs : List Byte) (poison : Bool) : Team :=
  { t with
    sp := Mem.write t.sp (16 * u) bs
    spPoison := if poison then u :: t.spPoison.filter (· != u) else t.spPoison.filter (· != u) }

/-- The 16 bytes of a unit. -/
def Team.unitAt (t : Team) (u : Nat) : List Byte := Mem.read t.sp (16 * u) 16

/-- The team as an operation has read it: each unit as it was when the engine read it. -/
def MatOp.asRead (o : MatOp) (t : Team) : Team :=
  if o.readsSp then o.units.foldl (fun t e => t.setUnit e.1 e.2.1 e.2.2) t else t

/-- The team after an operation that ends now: units that it wrote before are not written again. -/
def MatOp.finish (o : MatOp) (t : Team) : Except Cause (Team × List (Nat × List (WRef × Word))) :=
  (o.run (o.asRead t)).map fun r =>
    (if o.readsSp then { r.1 with sp := t.sp, spPoison := t.spPoison }
     else o.units.foldl (fun tm e => tm.setUnit e.1 (t.unitAt e.1) (t.spPoison.contains e.1)) r.1, r.2)

/-- The executing operation reads or writes one unit. -/
def State.matUnit (s : State) (c : Nat) (o : MatOp) (rest : List MatOp) (u : Nat) : State :=
  let t := s.team c o.team
  let did := fun (s : State) (e : Nat × List Byte × Bool) =>
    s.modCore c fun k => { k with mq := { o with units := e :: o.units } :: rest }
  if o.readsSp then did s (u, t.unitAt u, t.spPoison.contains u)
  else
    match o.run t with
    | .ok r => did ((s.modTeam c o.team fun t => t.setUnit u (r.1.unitAt u) (r.1.spPoison.contains u)).releaseB c o.team (16 * u) 16)
        (u, [], false)
    | .error _ => s

/-- The matrix sources of an operation are released by one read. -/
def State.unlockOp (s : State) (c : Nat) (o : MatOp) : State :=
  o.lanes.foldl (fun s l => o.srcRegs.foldl (fun s r =>
    (List.range r.2).foldl (fun s i => s.modRegSt c l.ctx (r.1 + i) unlockState) s) s) s

/-- A register that the operation reads is poisoned in one of its lanes (20 R433). -/
def State.matBad (s : State) (c : Nat) (o : MatOp) : Bool :=
  o.lanes.any fun l => o.srcRegs.any fun r => (List.range r.2).any fun i => ((s.thread c l.ctx).reg (r.1 + i)).poison

/-- The head of the queue starts: it reads its register operands and releases them (04 R110, R115); one that is poisoned now ends the
operation with POISON (20 R433). -/
def State.matStart (s : State) (c : Nat) : State :=
  match (s.core c).mq with
  | [] => s
  | o :: rest =>
    let take := fun (l : MLane) =>
      let t := s.thread c l.ctx
      match o.kind with
      | .mma => { l with a := t.vals (8 * o.tile) 16, md := if o.ty = .q4 then t.vals o.mdReg 2 else [] }
      | .mmaSp => { l with a := t.vals (8 * o.tile) 16, md := t.vals (8 * o.mdReg) 16 }
      | .mdist => { l with a := t.vals (8 * o.tile) 16 }
      | _ => l
    let o' := { o with lanes := o.lanes.map take, start := some s.clk, bad := s.matBad c o }
    (s.unlockOp c o).modCore c fun k =>
      { k with
        mq := o' :: rest
        latchA := if o.reuseA then some ⟨o.gset, 8 * o.tile, 16⟩ else none
        latchB := if o.reuseB then some ⟨o.gset, o.bytes.1, o.bytes.2⟩ else none }

/-- Present members of a group as (lane, context) pairs that still hold a context. -/
def State.membersOf (s : State) (c g : Nat) : List (Nat × Nat) :=
  let k := s.group c g
  ((List.range k.width).filter fun l => !k.exited.contains l).map fun l => (l, k.members.getD l 0)

/-- The members of a group park because a matrix operation failed (04 R115, R116); each resumes at its own PC. A halted member stays halted
(01 R40) and parks when it resumes (log 101). -/
def State.parkMatrix (s : State) (c g : Nat) (o : MatOp) (t : Trap) : State :=
  let ms := (s.membersOf c g).filter fun m =>
    match (s.thread c m.2).st with
    | .none | .parked => false
    | _ => true
  match ms with
  | [] => s
  | m :: _ =>
    let low := ((o.lanes.head?.map MLane.ctx).getD m.2)
    s.parkWhen (FUnit.atIssue c o.vf (some g) ms t (o.lanes.map MLane.lane) o.pc (s.thread c low).pc 3 .none) false

/-- A token of an operation that ended: its cause (04 R103). -/
def tokenWord (cause denied : Nat) : Word := BitVec.ofNat 32 (cause * 65536 + Nat.min denied 65535)

/-- The tokens of a matrix operation are written in every lane that still exists. -/
def State.matTokens (s : State) (c : Nat) (o : MatOp) (cause : Nat) : State :=
  match o.kind with
  | .acld | .acst => o.lanes.foldl (fun s l =>
      s.setWord c l.ctx (.g o.tok)
        ⟨tokenWord cause 0, .full, false, if cause = 0 then none else some (BitVec.ofNat 32 o.off)⟩) s
  | _ => s

/-- EMPTY list words of a failed `mtopk` return to FULL with their old values (11 R272). -/
def State.matRestore (s : State) (c : Nat) (o : MatOp) : State :=
  match o.kind with
  | .mtopk => o.lanes.foldl (fun s l => (o.emptyRegs l.k).foldl (fun s r =>
      s.setWord c l.ctx r { s.word c (s.thread c l.ctx) r with st := .full }) s) s
  | _ => s

/-- The executing operation ends: its rows and values are written, or its group parks; the next one starts (04 R110,
R115). -/
def State.matComplete (s : State) (c : Nat) : State :=
  match (s.core c).mq with
  | [] => s
  | o :: rest =>
    if o.start.isNone then s
    else
      let s1 := s.modCore c fun k => { k with mq := rest }
      let s2 :=
        match o.finish (s1.team c o.team) with
        | .ok (t, ws) =>
          let s1 := s1.modTeam c o.team fun _ => t
          let s1 := if o.writesSp then s1.releaseB c o.team o.bytes.1 o.bytes.2 else s1
          let s1 := ws.foldl (fun (s : State) (e : Nat × List (WRef × Word)) =>
            e.2.foldl (fun (s : State) (w : WRef × Word) => s.writeWord c e.1 w.1 w.2) s) s1
          s1.matTokens c o 0
        | .error e =>
          ((s1.matRestore c o).matTokens c o e.code).parkMatrix c o.gset o (trapOf e)
      s2.matStart c

/-- The rows that an operation writes. -/
def MatOp.rowsWritten (o : MatOp) : List Nat :=
  match o.kind with
  | .mma | .mmaSp | .mdist => o.lanes.map fun l => o.row + l.lane
  | .acz | .acld | .accp => (List.range o.n).map fun i => o.row + i
  | _ => []

/-- The accumulator rows that an operation reads or writes. -/
def MatOp.rowsUsed (o : MatOp) : List Nat :=
  match o.kind with
  | .mma | .mmaSp | .mdist | .mtopk => o.lanes.map fun l => o.row + l.lane
  | .accp => (List.range o.n).flatMap fun i => [o.row + i, o.row2 + i]
  | _ => (List.range o.n).map fun i => o.row + i

/-- The rows that an operation was writing become poisoned (04 R116). -/
def State.poisonRows (s : State) (c : Nat) (o : MatOp) : State :=
  s.modTeam c o.team fun t => o.rowsWritten.foldl (fun t r => t.setRow r { t.row r with poison := true }) t

/-- The watchdog resets the engine (04 R116): rows being written are poisoned, queued operations dropped, words released,
every owning group parks with ENGINE_RESET and the count of dropped operations. -/
def State.engineReset (s : State) (c : Nat) : State :=
  match (s.core c).mq with
  | [] => s
  | o :: rest =>
    let s := s.poisonRows c o
    let s := s.modCore c fun k => { k with mq := [], latchA := none, latchB := none }
    let s := rest.foldl (fun s q => s.unlockOp c q) s
    let s := (o :: rest).foldl (fun s q => q.lanes.foldl (fun s l =>
      (q.emptyRegs l.k).foldl (fun s r => s.writeWord c l.ctx r 0) s) s) s
    let gs := (o :: rest).foldl (fun l q => insertPc q.gset l) []
    gs.foldl (fun s g =>
      let first := ((o :: rest).find? fun q => q.gset == g).getD o
      s.parkMatrix c g first ⟨.engineReset, 0, 0, BitVec.ofNat 32 rest.length⟩) s

end Sys2Proof.Machine
end

