-- ==== Sys2Proof/Machine/Home.lean ====
section
/-! DEFINITION. Perform at a home (02 R54): the checks in their fixed order, the operations of atomics (10 R234), and the
read or write itself; the read-only cache (02 R56, R57). -/

namespace Sys2Proof.Machine

/-- The access returns a value (10 R248). -/
def AccKind.returns : AccKind → Bool
  | .load | .ro | .atomic => true
  | _ => false

/-- The access size of a type in bytes (10 R227). -/
def tyBytes (t : Ty) : Nat := tyBits t / 8

/-! ## The checks of Perform (02 R54) -/

/-- What the checks of Perform find: the access waits, traps, is a denied read, or may be made at a physical address (a
host-physical one for a host page). -/
inductive HomeOut where
  | wait
  | trap (t : Trap)
  | denied (e : Pte)
  | ok (p : Nat) (e : Pte)
  deriving DecidableEq, Repr

/-- UNIT of an error-log record (20 R437). -/
def unitCode : ErrUnit → Nat
  | .hbm => 0 | .sram => 1 | .register => 2 | .accumulator => 3 | .dieLink => 4 | .vertLink => 5 | .ucie => 6
  | .ethernet => 7 | .hostLink => 8

/-- A macro of a unit of a core that is under test holds an item (20 R434, R435), whose accesses are held meanwhile: registers of a context, a
uniform set (from 2^16 on), scratchpad or accumulator rows of a team, a line of the cache slice (from 2^20 on). Where the macros lie is open
(log 82). -/
def State.macroHeld (s : State) (u : ErrUnit) (c item : Nat) : Bool :=
  s.tests.any fun t => t.unit == u && t.core == c && Config.macroHolds c (unitCode u) (Config.macroOf (unitCode u) t.loc) item

/-- The registers of a thread, its uniform set among them, are held. -/
def State.regsHeld (s : State) (c x : Nat) : Bool :=
  s.macroHeld .register c x ||
    match (s.thread c x).group with
    | some g => s.macroHeld .register c (2 ^ 16 + g.1)
    | none => false

/-- The line of an address in a cache slice is held. -/
def State.lineHeld (s : State) (c a : Nat) : Bool := s.macroHeld .sram c (2 ^ 20 + a / 1024)

/-- Accesses to the frame or unit of a physical address are held: a scrub (19 R397), a re-key, or a self-test (20 R435). -/
def State.busyAt (s : State) (p : Nat) : Bool :=
  (s.owner (frameOf p)).init || (s.owner (frameOf p)).rekey ||
    s.tests.any fun t => t.unit == .hbm && t.core == p / 2 ^ 31 && t.loc.toNat / 65536 == p % 2 ^ 31 / 65536

/-- The checks after the class: the sector is free and readable. -/
def State.homeRest (s : State) (a : Nat) (e : Pte) (c : Nat) : HomeOut :=
  let p := if e.host then e.offset a else physAddr c (e.offset a)
  if !e.host && s.busyAt p then .wait
  else if !e.host && s.poisoned p then .trap (trapAt .poison 0 a)
  else .ok p e

/-- The sector of an address fails the check of its MAC and counters, and is not known as poisoned yet (19 R403). -/
def State.macFails (s : State) (p : Nat) : Bool :=
  !s.poison.contains (sectorOf p) && !s.retired.contains (frameOf p) && s.encOf p != s.keyOf p

/-- A read that meets such a sector poisons it (19 R403); the record of the error and the test of the unit follow before the next cycle (20
R435). -/
def State.noteMac (s : State) (p : Nat) : State :=
  if s.macFails p then { s with poison := s.poison ++ [sectorOf p], failed := s.failed ++ [p] } else s

/-- The error that an access of a page reports where it traps POISON. -/
def State.noteTrap (s : State) (v a c : Nat) (g : Region) (t : Trap) : State :=
  match t.cause, s.translate v a c g with
  | .poison, .ok e => if e.host then s else s.noteMac (physAddr c (e.offset a))
  | _, _ => s

/-- Perform's checks for an access (02 R54); a closed window turns back the trapping form alone, since no re-key is under way for
another to wait for (19 R409). The access is one of a VF and principal at a home (02 R54). For a host page the home is the issuing core,
which makes the checks (02 R59). -/
def State.homeCheck (s : State) (v pr a : Nat) (k : AccKind) (tf : Bool) (c : Nat) (g : Region) : HomeOut :=
  match s.translate v a c g with
  | .error t => .trap t
  | .ok e =>
    let p := if e.host then e.offset a else physAddr c (e.offset a)
    if AccKind.writes k && e.ro then .trap (trapAt .prot 0 a)
    else if AccKind.writes k && e.replica && k != .mcst then .trap (trapAt .replicaStore 0 a)
    else if !e.host && e.window && tf && (s.rekeying p || s.shut p) then .trap (trapAt .windowClosed 0 a)
    else if !e.host && e.window && s.rekeying p then .wait
    else if !s.checkClass v pr e.cls c then
      if AccKind.writes k then .trap (trapAt .permWrite 0 a) else .denied e
    else s.homeRest a e c

/-- The checks of a read in a page whose class its operation has checked already (05 R122). -/
def State.homePassed (s : State) (a c : Nat) : HomeOut → HomeOut
  | .denied e => s.homeRest a e c
  | o => o

/-- SOURCE of a denial (02 R57, R73, 10 R252). -/
def denialSource (g : Region) (k : AccKind) (e : Pte) : Nat :=
  if g.isHost then 6
  else if g.win then 5
  else if k = .ro && e.ro then 1
  else 0

/-! ## Bytes -/

/-- `n` bytes at the place that Perform found, as a number. -/
def State.homeRead (s : State) (p : Nat) (e : Pte) (n : Nat) : Nat :=
  if e.host then Mem.readNat s.hostMem p n else Mem.readNat s.mem p n

/-- Bytes written at the place that Perform found. -/
def State.homeWrite (s : State) (p : Nat) (e : Pte) (bs : List Byte) : State :=
  if e.host then { s with hostMem := Mem.write s.hostMem p bs } else s.physWrite p bs

/-! ## Atomics (10 R234) -/

/-- The new value of an atomic, or none where it makes no write: old value o, operand v, expected value e. -/
def atomNew (op : AtomOp) (t : Ty) (o v e : DWord) : Option DWord :=
  let f := fun (g : Nat → Nat → Nat) =>
    some (BitVec.ofNat 64 (g (o.toNat % 2 ^ 32) (v.toNat % 2 ^ 32)))
  match op with
  | .add | .addComb => if t = .f32 then f fun x y => codeAdd .rn .f32 x y 0 else some (intAdd t o v)
  | .min => if t = .f32 then f fun x y => fminmax .f32 false true x y else some (intMin t o v)
  | .max => if t = .f32 then f fun x y => fminmax .f32 true true x y else some (intMax t o v)
  | .and => some (o &&& v)
  | .or => some (o ||| v)
  | .xor => some (o ^^^ v)
  | .exch => some v
  | .cas => if rawOf t o = rawOf t e then some v else none
  | .incb => if readInt t o < readInt t v then some (intAdd t o 1) else none
  | .decb => if readInt t v < readInt t o then some (intSub t o 1) else none

/-- The operand of a combined reduction: the parts joined in order (03 R95). -/
def combined (op : AtomOp) (t : Ty) (v : DWord) (vs : List DWord) : DWord :=
  vs.foldl (fun acc x => (atomNew op t acc x 0).getD acc) v

/-- The read, write or read-modify-write of Perform's last step, with the value returned. -/
def State.homeDo (s : State) (k : AccKind) (op : AtomOp) (t : Ty) (size : Nat) (data : BitVec 128)
    (parts : List DWord) (expected : DWord) (p : Nat) (e : Pte) : State × BitVec 128 :=
  let old := s.homeRead p e size
  match k with
  | .load | .ro | .prefetch => (s, BitVec.ofNat 128 old)
  | .store | .mcst => (s.homeWrite p e (leBytes size data.toNat), 0)
  | .atomic | .red =>
    match atomNew op t (BitVec.ofNat 64 old) (combined op t (data.setWidth 64) parts) expected with
    | some w => (s.homeWrite p e (leBytes size w.toNat), BitVec.ofNat 128 old)
    | none => (s, BitVec.ofNat 128 old)

/-! ## The read-only cache (02 R56, R57) -/

/-- The core whose slice holds the line of an address, seen from a core (02 R56). -/
def sliceOf (a core : Nat) : Nat := 64 * dieOf core + (bits a 10 6 ^^^ bits a 16 6)

/-- The slice holds lines: its octant is assigned (02 R56). -/
def State.sliceLive (s : State) (c : Nat) : Bool := (s.partOf c).isSome

/-- The number of sets of a slice (02 R56). -/
def State.sliceSets (s : State) (c : Nat) : Nat :=
  64 * (8 - ((s.partOf c).map fun p => (s.part p).s).getD 8)

/-- The line of an address in its slice, and the sector's bytes where valid. -/
def State.roFind (s : State) (v a core : Nat) : Option (RoLine × List Byte) :=
  let c := sliceOf a core
  if !s.sliceLive c then none
  else
    match (s.core c).ro.find? fun k => k.vf == v && k.line == a / 1024 with
    | none => none
    | some k => if Tbl.has k.sectors (a / 256 % 4) then some (k, Tbl.get [] k.sectors (a / 256 % 4)) else none

/-- A use of a line moves it to the front of the replacement order. -/
def State.roTouch (s : State) (v a core : Nat) : State :=
  s.modCore (sliceOf a core) fun k =>
    { k with
      roClk := k.roClk + 1
      ro := k.ro.map fun x => if x.vf == v && x.line == a / 1024 then { x with age := k.roClk + 1 } else x }

/-- The least of a list of lines by age. -/
def oldestLine : List RoLine → Option RoLine
  | [] => none
  | k :: ks =>
    match oldestLine ks with
    | none => some k
    | some m => some (if k.age ≤ m.age then k else m)

/-- The lines of a set, the new one last: 16 ways; a replacement takes an older line, unmarked ones first; at most 8 keep lines, a ninth
demotes the oldest (02 R56, 08 R176). -/
def trimSet (ls : List RoLine) : List RoLine :=
  let keeps := ls.filter fun k => k.keep
  let ls := if keeps.length > 8 then
      let o := oldestLine keeps
      ls.map fun k => if some k = o then { k with keep := false } else k
    else ls
  if ls.length > 16 then
    let old := ls.dropLast
    let plain := old.filter fun k => !k.keep
    let victim := oldestLine (if plain.isEmpty then old else plain)
    ls.filter fun k => some k != victim
  else ls

/-- A sector filled into a slice (02 R56, R57) with its locality hint (08 R176). -/
def State.roFill (s : State) (f : Fill) : State :=
  let n := s.sliceSets f.slice
  if !s.sliceLive f.slice || n = 0 || f.hint = 3 then s
  else
    s.modCore f.slice fun k =>
      let line := f.sector / 4
      let inSet := fun (x : RoLine) => x.line / 64 % n == line / 64 % n
      let mine := fun (x : RoLine) => x.vf == f.vf && x.line == line
      let age : Int := if f.hint = 1 then -1 - (k.roClk : Int) else k.roClk + 1
      let base := (k.ro.find? mine).getD ⟨f.vf, line, f.cls, [], f.host, false, age⟩
      let secs := if base.cls = f.cls ∧ base.host = f.host then base.sectors else []
      let new := { base with
        cls := f.cls, host := f.host, sectors := Tbl.set secs (f.sector % 4) f.bytes, keep := base.keep || f.hint == 2, age := age }
      let set := (k.ro.filter fun x => inSet x && !mine x) ++ [new]
      { k with roClk := k.roClk + 1, ro := (k.ro.filter fun x => !inSet x) ++ trimSet set }

/-- The read's answer from another package is under way, for an address of a page or any address of the VF. -/
def Req.mayFill (r : Req) (v : Nat) (page : Option (Nat × Nat)) : Bool :=
  r.vf.toNat == v && (r.kind == .ro || r.kind == .prefetch) && r.far.isNone &&
    match page with
    | none => true
    | some (a, n) => a ≤ r.va.toNat / 256 * 256 && r.va.toNat / 256 * 256 < a + n

/-- The lines of a VF dropped from a package's slices: all, or those of a page of addresses (12 R300). The answer of a read that is under
way fills no slice any more (03 R92): from here on it carries the hint of a read that allocates nothing. -/
def State.roDrop (s : State) (v : Nat) (page : Option (Nat × Nat)) : State :=
  { s with
    reqs := s.reqs.map fun r => if r.mayFill v page then { r with hint := 3 } else r
    cores := s.cores.map fun e => (e.1, { e.2 with
      ro := e.2.ro.filter fun k => !(k.vf == v &&
        match page with
        | none => true
        | some (a, n) => a ≤ k.line * 1024 && k.line * 1024 < a + n) })
    fills := s.fills.filter fun f => !(f.vf == v &&
      match page with
      | none => true
      | some (a, n) => a ≤ f.sector * 256 && f.sector * 256 < a + n) }

/-- The fill that an allowed read of a read-only page sends to the slice (02 R57); none for WIN and replicated regions. -/
def State.fillOf (s : State) (v a core : Nat) (g : Region) (p : Nat) (e : Pte) (hint : BitVec 2) : List Fill :=
  if e.ro && !g.win && !g.replicated then
    let q := p / 256 * 256
    [⟨sliceOf a core, v, a / 256, BitVec.ofNat 12 e.cls,
      if e.host then Mem.read s.hostMem q 256 else Mem.read s.mem q 256, hint,
      if e.host then some (q / 1024 * 1024) else none⟩]
  else []

end Sys2Proof.Machine
end

