-- ==== Sys2Proof/Machine/Access.lean ====
section
/-! DEFINITION. Class 4, accesses (10 R226 to R236): addresses and their checks, routes, requests on their way, and the
scratchpad accesses. What a request does at its home stands in Machine/Perform.lean. -/

namespace Sys2Proof.Machine

/-! ## Addresses (08 R180, 10 R228) -/

/-- The address of a global memory operand, modulo 2^64. -/
def State.globalAddr (s : State) (l : Lane) (base : Reg) (disp : BitVec 10) : Nat :=
  (s.regVal l base + disp.signExtend 64).toNat

/-- The address of a scratchpad memory operand, modulo 2^32. -/
def State.spAddr (s : State) (l : Lane) (base : Reg) (disp : BitVec 10) : Nat :=
  ((s.regVal l base).setWidth 32 + disp.signExtend 32).toNat

/-- Steps 2 to 4 of 10 R228; a size of 0 makes no alignment check. -/
def State.addrCheck (s : State) (l : Lane) (a size : Nat) : Except Trap (Region × Home) :=
  if a ≥ 2 ^ 56 then .error (trapAt .pageFault 1 a)
  else
    match s.homeOf l.t.vf.toNat a l.core with
    | .error t => .error t
    | .ok r => if size ≠ 0 ∧ a % size ≠ 0 then .error (trapAt .align 0 a) else .ok r

/-- An access on its way out of an instruction (10 R229). -/
structure Access where
  kind : AccKind
  a : Nat
  size : Nat
  ty : Ty
  op : AtomOp
  data : BitVec 128
  expected : DWord
  tf : Bool
  dst : Option Reg
  acq : Bool
  deriving DecidableEq, Repr

/-- A plain access of a kind. -/
def Access.plain (k : AccKind) (a : Nat) (t : Ty) (tf : Bool) : Access :=
  { kind := k, a := a, size := tyBytes t, ty := t, op := .exch, data := 0, expected := 0, tf := tf
    dst := none, acq := false }

/-! ## Sending (10 R231, 03 R77, R80) -/

/-- The context number that marks a request as an engine's. -/
def engineCtx : Nat := 8192

/-- The key of a fault unit within its issue (10 R246): the group's set, or the context of a free thread. -/
def unitKey (l : Lane) : Nat :=
  match l.t.group with
  | some g => g.1
  | none => 512 + l.ctx

/-- Two requests touch one aligned 16-byte unit (03 R77). -/
def sameUnit (p q : BitVec 64) : Bool := p.toNat / 16 == q.toNat / 16

/-- A request has faulted. -/
def Req.fails (r : Req) : Bool :=
  match r.stat with
  | .faulted _ => true
  | _ => false

/-- A request keeps a place among the outstanding remote requests of its core until its response has returned (10 R231); one that is
combined into another shares that one's (03 R95). -/
def Req.outstanding (r : Req) : Bool :=
  !r.isLocal && r.far.isNone && !r.known &&
    match r.stat with
    | .unsent | .merged _ => false
    | _ => true

/-- Number of outstanding remote requests of a core. -/
def State.outstanding (s : State) (c : Nat) : Nat :=
  s.reqs.countP fun r => r.core == c && r.outstanding

/-- An earlier request that holds a later one of its thread, or of its instruction, to the same 16-byte unit (03 R77,
R80). -/
def Req.holds (x r : Req) : Bool :=
  x.id < r.id && x.kind != .prefetch && r.kind != .prefetch && x.stat != .performed && x.stat != .merged r.id && x.core == r.core && x.far.isNone && sameUnit x.va r.va &&
    (x.ctx == r.ctx || x.issue == r.issue)

/-- The core knows that a request of its unit, or an earlier one of its thread, has faulted: it is not sent (10 R247, R249). A replay's own
requests do not wait for another parked unit of the thread (20 R421). -/
def State.barred (s : State) (r : Req) : Bool :=
  (s.reqs.any fun x => x.core == r.core && x.far.isNone && x.known && x.fails &&
    ((x.issue == r.issue && x.key == r.key) || (x.ctx == r.ctx && x.id < r.id))) ||
  (!r.again && s.units.any fun u => u.core == r.core && u.resume == .requests && (u.threads.any fun e => e.2 == r.ctx) &&
    !u.reqs.any fun x => x.issue == r.issue && x.key == r.key)

/-- Both requests go to one home of this package, the host included (03 R79). -/
def sameHome (a b : Home) : Bool :=
  match a with
  | .far _ _ => false
  | _ => a == b

/-- A home lies in another package. -/
def Home.isFar : Home → Bool
  | .far _ _ => true
  | _ => false

/-- An earlier local access of the thread before which a later one may not be performed (03 R78). -/
def Req.localFirst (x r : Req) : Bool := x.isLocal && !(x.kind == .store && (r.kind == .load || r.kind == .ro))

/-- An earlier request of the same thread before which a request may not be performed (03 R77 to R79): a replayed one comes after every
access that the thread made before its fault (03 R96). -/
def Req.precedes (x r : Req) : Bool :=
  x.id < r.id && x.core == r.core && x.ctx == r.ctx && x.far.isNone && r.far.isNone && x.open && x.stat != .merged r.id &&
    r.kind != .prefetch &&
    (r.again || sameUnit x.va r.va || x.localFirst r || (!x.isLocal && !r.isLocal && sameHome x.home r.home))

/-- A request may be sent but for its place among the outstanding ones. One to another package is performed there at any time, so it
follows the thread's earlier local accesses (03 R78). -/
def State.sendable (s : State) (r : Req) : Bool :=
  !s.barred r && !(s.reqs.any fun x => x.holds r) && !(r.home.isFar && s.reqs.any fun x => x.precedes r)

/-- A request may be sent now. -/
def State.maySend (s : State) (r : Req) : Bool := (r.isLocal || s.outstanding r.core < 4096) && s.sendable r

/-- Two reductions that one core may combine (03 R95): the packet of one to another package has not left. -/
def Req.combines (x r : Req) : Bool :=
  x.kind == .red && r.kind == .red && (x.stat == .unsent || (x.stat == .sent && !x.home.isFar)) && !x.isLocal && !r.isLocal &&
    x.far.isNone && x.id != r.id && x.core == r.core && x.vf == r.vf && x.principal == r.principal && x.va == r.va && x.op == r.op &&
    x.ty == r.ty && x.tf == r.tf && (r.ty != .f32 || r.op == .addComb)

/-- The request that a reduction is combined into, where the core takes that choice (log 11): no other access of its thread that comes
before it is open (03 R77 to R79). -/
def State.partner (s : State) (r : Req) : Option Req :=
  if Config.combine s.tick && !s.barred r then
    s.reqs.find? fun x => x.combines r &&
      (s.reqs.all fun y => !(y.holds r || y.precedes r) || y.id == x.id || y.stat == .merged x.id)
  else none

/-- The packet of a request. -/
def Req.wire (r : Req) (home : Nat) : WireReq :=
  { id := r.id, ctx := r.ctx, round := r.round, engine := r.engine, hint := r.hint, kind := r.kind, vf := r.vf
    principal := r.principal, khandle := r.khandle
    grid := r.grid, pc := r.pc, srcCore := BitVec.ofNat 9 r.core, core := BitVec.ofNat 9 home
    va := r.va, size := r.size, ty := r.ty, op := r.op, data := r.data, expected := r.expected
    win := r.win, tf := r.tf }

/-- The operand of a combined reduction: the parts joined in order (03 R95). -/
def State.joined (s : State) (r : Req) : DWord :=
  combined r.op r.ty (r.data.setWidth 64) ((s.reqs.filter fun x => x.stat == .merged r.id).map fun x => x.data.setWidth 64)

/-- The state with a request changed. -/
def State.modReq (s : State) (id : Nat) (f : Req → Req) : State :=
  { s with reqs := s.reqs.map fun r => if r.id = id then f r else r }

/-- A write to another package joins the flush set of its thread (03 R85). -/
def Flush.add (f : Flush) (p : Nat) : Flush :=
  if f.full || f.pkgs.contains p then f
  else if f.pkgs.length < 16 then { f with pkgs := p :: f.pkgs }
  else { f with full := true }

/-- Send a request: on its way inside the package, or as a packet (21 R439) with the reductions combined into it. -/
def State.send (s : State) (r : Req) : State :=
  let s := s.modReq r.id fun q => { q with stat := .sent }
  let r := { r with
    round := (s.thread r.core r.ctx).round, data := if r.kind = AccKind.red then (s.joined r).setWidth 128 else r.data }
  match r.home with
  | .far p d =>
    let s := if AccKind.writes r.kind then
        s.modThread r.core r.ctx fun t => { t with flush := t.flush.add p }
      else s
    s.sendPacket r.core p d (.request (r.wire d))
  | _ => s

/-- A request, with those combined into it, is combined into another one. -/
def State.mergeInto (s : State) (r : Req) (id : Nat) : State :=
  { s with reqs := s.reqs.map fun q => if q.id = r.id ∨ q.stat = .merged r.id then { q with stat := .merged id } else q }

/-- Try to send a request: combined, sent, or left unsent. -/
def State.trySend (s : State) (r : Req) : State :=
  match s.partner r with
  | some x => s.mergeInto r x.id
  | none => if s.maySend r then s.send r else s

/-- Requests of a thread that are not sent yet, or at which it stands after their fault. -/
def State.hasUnsent (s : State) (c x : Nat) : Bool :=
  s.reqs.any fun r => r.ofCtx c x && (r.stat == .unsent || (r.held && r.fails))

/-! ## Issuing an access -/

/-- The request of a lane's access, not sent yet. -/
def State.newReq (s : State) (l : Lane) (x : Access) (g : Region) (h : Home) : Req :=
  let isLocal := h == .core l.core
  let own := l.t.group.isNone && isLocal
  { id := s.nextReq, issue := l.num, key := unitKey l, core := l.core, ctx := l.ctx, lane := l.lane
    seq := l.t.seq, vf := l.t.vf, principal := l.t.principal, khandle := l.t.khandle
    grid := l.t.grid, pc := l.t.pc, next := l.nextPc, held := false, kind := x.kind
    va := BitVec.ofNat 64 x.a, size := x.size, ty := x.ty, op := x.op, data := x.data
    expected := x.expected, tf := x.tf, hint := l.locality, home := h, isLocal := isLocal
    win := g.win, dst := x.dst, top := true, acq := x.acq, stat := .unsent, value := 0, reps := []
    far := none, srcCore := if own then l.t.srcCore else BitVec.ofNat 9 l.core
    srcPkg := if own then l.t.srcPkg else s.fabnum, known := false, round := 0, engine := 0, again := false, sector := none }

/-- A request that returns to a uniform register takes the place of lower lanes of its unit (08 R187). -/
def Req.overtakes (r q : Req) : Bool :=
  q.issue == r.issue && q.key == r.key &&
    match r.dst with
    | some (.s _ _) => true
    | _ => false

/-- The lower lanes' requests of a unit do not write the uniform register that a higher lane returns to. -/
def State.outrank (s : State) (r : Req) : State :=
  { s with reqs := s.reqs.map fun q => if r.overtakes q then { q with top := false } else q }

/-- A request joins those on their way. -/
def State.addReq (s : State) (r : Req) : State :=
  let s := s.outrank r
  { s with reqs := s.reqs ++ [r], nextReq := s.nextReq + 1 }

/-- An access joins the requests of its thread: its destination becomes EMPTY (02 R66) and it is sent if it may be; the
thread goes on, or waits until it is sent (10 R231). -/
def State.issueAccess (s : State) (l : Lane) (x : Access) (g : Region) (h : Home) : State :=
  let r := s.newReq l x g h
  let refs := (x.dst.map Reg.refs).getD []
  let s := refs.foldl (fun s d => s.emptyWord l.core l.ctx d) (s.addReq r)
  let s := s.modThread l.core l.ctx fun t =>
    { t with seq := t.seq + 1, acq := if x.acq then refs else t.acq }
  let s := s.trySend r
  if s.hasUnsent l.core l.ctx then
    (s.modThread l.core l.ctx fun t => t.moveTo l.nextPc).waits l.core l.ctx .send
  else s.goesOn l.core l.ctx l.nextPc l.yields

/-! ## Lanes of an access -/

/-- The outcome of a lane of an access: one of the ordinary outcomes, an access to make (how, and what making it does), an access whose
check fails at the issuing core (10 R228), a local one that Perform traps (10 R249), a scratchpad access with what it returns, or one that
finds poison (10 R247). -/
inductive AccOut where
  | other (o : LaneOut)
  | go (x : Access) (g : Region) (h : Home) (act : State → State)
  | bad (x : Access) (t : Trap)
  | late (x : Access) (g : Region) (t : Trap)
  | sp (f : State → State × List (WRef × Word))
  | spBad (t : Trap)

/-- The trap of an ordinary outcome. -/
def AccOut.trapOf : AccOut → Option Trap
  | .other o => o.trapOf
  | _ => none

/-- The trap of a failed check. -/
def AccOut.fails : AccOut → Option Trap
  | .bad _ t => some t
  | _ => none

/-- The trap of a failed check, of a local access, or of poison in scratchpad. -/
def AccOut.faults : AccOut → Option Trap
  | .bad _ t | .late _ _ t | .spBad t => some t
  | _ => none

/-- The lane is one of the unit's that access memory. -/
def AccOut.accesses : AccOut → Bool
  | .other _ | .sp _ | .spBad _ => false
  | _ => true

/-- The kept request of a lane whose unit parks at the access (10 R248); none for a lane that waits. `bad` says that a check failed, so
that a local access that Perform would trap is not made. -/
def State.keptReq (s : State) (l : Lane) (bad : Bool) : AccOut → Option Req
  | .other _ | .sp _ | .spBad _ => none
  | .go x g h _ => some { s.newReq l x g h with held := true }
  | .bad x t => some { s.newReq l x default (.core l.core) with held := true, stat := .faulted t, known := true }
  | .late x g t =>
    let r := { s.newReq l x g (.core l.core) with held := true }
    some (if bad then r else { r with stat := .faulted t, known := true })

/-- What an outcome does when no lane of its unit fails a check of 10 R228; `stopped` says that a lane before it has faulted, after which
none is sent (10 R247): its request is kept, and its thread stands at the instruction. -/
def State.applyAcc (s : State) (l : Lane) (stopped : Bool) (o : AccOut) : State :=
  match o, stopped with
  | .other o, _ => s.applyOut l o
  | .sp f, _ => (f s).1.complete l (f s).2 none
  | .go _ _ _ act, false => act s
  | o, _ =>
    match s.keptReq l false o with
    | none => s
    | some r =>
      (((r.dst.map Reg.refs).getD []).foldl (fun s d => s.emptyWord l.core l.ctx d) (s.addReq r)).waits l.core l.ctx .send

/-- Number kept requests afresh. -/
def renumber (n : Nat) : List Req → List Req
  | [] => []
  | r :: rs => { r with id := n } :: renumber (n + 1) rs

/-- The unit parks at its access, no lane sent: lanes that wait for a register are not part of it. -/
def State.parkAccess (s : State) (outs : List (Lane × AccOut)) (t : Trap) : State :=
  let bad := outs.any fun o => o.2.fails.isSome
  match outs.filter fun o => o.2.accesses with
  | [] => s
  | o :: os =>
    let rs := renumber s.nextReq ((o :: os).filterMap fun o => s.keptReq o.1 bad o.2)
    let l := o.1
    let u := FUnit.atIssue l.core l.t.vf.toNat (l.t.group.map Prod.fst)
      ((o :: os).map fun o => (o.1.lane, o.1.ctx)) t ((rs.filter Req.fails).map Req.lane) l.t.pc l.t.pc 0 .requests
    ({ s with nextReq := s.nextReq + rs.length } : State).park { u with reqs := rs } false

/-- The lanes of a unit act in lane order up to the first local access that Perform traps; the unit parks when those that were sent have
their outcomes (10 R247), at once where none was. -/
def State.actLanes (s : State) (outs : List (Lane × AccOut)) : State :=
  let accs := outs.filter fun o => o.2.accesses
  match (accs.head?.bind fun o => o.2.faults) with
  | some t => ((outs.filter fun o => !o.2.accesses).foldl (fun s o => s.applyAcc o.1 false o.2) s).parkAccess outs t
  | none =>
    (outs.foldl (fun (a : State × Bool) o => (a.1.applyAcc o.1 a.2 o.2, a.2 || o.2.faults.isSome)) (s, false)).1

/-- A lane makes its scratchpad access in a unit that parks: it returns nothing yet, and its thread goes on after its instruction when the
unit is done (10 R248). -/
def State.spLane (a : State × List (Nat × WRef × RegWord)) (l : Lane) : AccOut → State × List (Nat × WRef × RegWord)
  | .other (.wait w) => (a.1.waits l.core l.ctx w, a.2)
  | .sp f =>
    ((f a.1).1.modThread l.core l.ctx fun t => t.moveTo l.nextPc, a.2 ++ (f a.1).2.map fun e => (l.ctx, e.1, RegWord.ofVal e.2))
  | _ => a

/-- The lane touches scratchpad. -/
def AccOut.touches : AccOut → Bool
  | .sp _ | .spBad _ => true
  | _ => false

/-- The lane finds poison there. -/
def AccOut.spoiled : AccOut → Option Trap
  | .spBad t => some t
  | _ => none

/-- Lanes access scratchpad in lane order up to one that finds poison: the unit parks, with the lanes before it performed and those after it
pending (10 R247, R248). -/
def State.parkSp (s : State) (outs : List (Lane × AccOut)) (t : Trap) : State :=
  let before := outs.takeWhile fun o => o.2.spoiled.isNone
  let bad := ((outs.filter fun o => o.2.spoiled.isSome).take 1).map fun o => o.1.lane
  let unit := outs.filter fun o => o.2.touches
  let a := before.foldl (fun a o => State.spLane a o.1 o.2) (s, [])
  let s := ((outs.drop before.length).filter fun o => !o.2.touches).foldl (fun s o => s.applyAcc o.1 false o.2) a.1
  match unit with
  | [] => s
  | o :: _ =>
    let l := o.1
    let done := maskOf ((before.filter fun o => o.2.touches).map fun o => o.1.lane)
    let u := FUnit.atIssue l.core l.t.vf.toNat (l.t.group.map Prod.fst) (unit.map fun o => (o.1.lane, o.1.ctx)) t bad l.t.pc l.t.pc 0 .reexec
    s.park { u with pending := u.pending &&& ~~~ done, performed := done, issue := some l.num, tokens := a.2 } (!a.2.isEmpty)

/-- The outcome waits to be tried again. -/
def AccOut.held : AccOut → Bool
  | .other x => x.held
  | _ => false

/-- Where a lane of a unit must try again, none of them acts before it does: their accesses to one location keep the lane order (03 R80). -/
def holdAccs (outs : List (Lane × AccOut)) : List (Lane × AccOut) :=
  if outs.any fun o => o.2.held then
    outs.map fun o => match o.2 with
      | .other x => if x.acts then (o.1, .other (.wait .retry)) else o
      | _ => (o.1, .other (.wait .retry))
  else outs

/-- The active lanes of a unit make their accesses: all checks come first (10 R228). -/
def State.runAcc (f : State → Lane → AccOut) (s : State) (ls : List Lane) : State :=
  let outs := ls.map fun l => (l, f s l)
  match outs.findSome? (fun o => o.2.trapOf) with
  | some t =>
    let bad := (outs.filter fun o => o.2.trapOf.isSome).map fun o => o.1.lane
    s.parkLanes ls t bad ((ls.head?.map fun l => l.t.pc).getD 0) .reexec
  | none =>
    match outs.findSome? (fun o => o.2.fails) with
    | none =>
      match (holdAccs outs).findSome? fun o => o.2.spoiled with
      | none => s.actLanes (holdAccs outs)
      | some t => s.parkSp (holdAccs outs) t
    | some t =>
      let waits := outs.filter fun o => !o.2.accesses
      (waits.foldl (fun s o => s.applyAcc o.1 false o.2) s).parkAccess outs t

/-- An instruction that makes accesses. -/
def State.runAccess (i : Instr) (h : Hdr) (f : State → Lane → AccOut) (s : State) : State :=
  s.runUnits i h (State.runAcc f)

/-- An `ld.acq` of the thread has not returned: no later access is issued (03 R84). -/
def State.acqHeld (s : State) (l : Lane) : Bool := l.t.acq.any fun r => s.isEmpty l.core l.t r

/-- The shape of every access: the sources, the acquire, the destination, then the access itself. -/
def State.access (s : State) (l : Lane) (srcs : List Src) (dst : List WRef) (k : AccOut) : AccOut :=
  match s.readCheck l (hinted l 0 srcs) with
  | some o => .other o
  | none =>
    if s.acqHeld l then .other (.wait .acquire)
    else
      match s.destCheck l dst with
      | some o => .other o
      | none => k

/-- An access becomes a request; a local one that Perform would trap fails at its instruction, and one that a re-key, a scrub or a self-test
holds stays there (10 R249: a fault taken locally parks at the faulting PC). -/
def State.request (s : State) (l : Lane) (x : Access) (g : Region) (h : Home) : AccOut :=
  let go := AccOut.go x g h fun s => s.issueAccess l x g h
  if h == .core l.core then
    match s.homeCheck l.t.vf.toNat l.t.principal.toNat x.a x.kind x.tf l.core g with
    | .trap t => .late x g t
    | .wait => .other (.wait .retry)
    | _ => go
  else go

/-- An access to its home (10 R229): a free thread migrates to a writable home elsewhere; every other one becomes a request. -/
def State.route (s : State) (l : Lane) (x : Access) (g : Region) (h : Home) : AccOut :=
  let away := !(h == .core l.core) && !g.win && !g.replicated && !g.isHost
  if away && l.t.group.isNone && x.kind != .red then .other (s.migrate l x.a h) else s.request l x g h

/-- A load (10 R229, R232). -/
def State.load (s : State) (l : Lane) (x : Access) : AccOut :=
  match s.addrCheck l x.a x.size with
  | .error t => .bad x t
  | .ok (g, h) => s.route l x g h

/-- A store, atomic or reduction: a WIN region traps at the issuing core (10 R229). -/
def State.modify (s : State) (l : Lane) (x : Access) : AccOut :=
  match s.addrCheck l x.a x.size with
  | .error t => .bad x t
  | .ok (g, h) => if g.win then .bad x (trapAt .prot 2 x.a) else s.route l x g h

/-- The low bytes of a source as store data. -/
def storeData (t : Ty) (v : DWord) : BitVec 128 := BitVec.ofNat 128 (rawOf t v)

/-! ## The read-only cache (02 R56, R57) -/

/-- The bytes of an access inside its sector, as a number. -/
def sectorNat (bs : List Byte) (a size : Nat) : Nat := fieldAt bs (a % 256) size

/-- The register value of a returned memory value (10 R227). -/
def loadVal (t : Ty) (v : BitVec 128) : DWord :=
  if t.isSigned then putInt t (readInt t (v.setWidth 64)) else rawBits t v.toNat

/-- The denial record of an access (02 R73). -/
def Req.denial (r : Req) (cls source home : Nat) (pkg : BitVec 16) : Denial :=
  { va := r.va.toNat, cls := cls, principal := r.principal.toNat, source := source, length := r.size
    pc := r.pc, grid := r.grid, khandle := r.khandle, homeCore := home, srcCore := r.srcCore
    homePkg := pkg, srcPkg := r.srcPkg }

/-- The denial record of a hit in the read-only cache (02 R57, R73). A free thread's hit in the slice at the core where it stands, and a
read of host memory, are accesses performed at that core and name the source of the frame that brought it (10 R252); any other hit in another
slice names the issuing core (log 98: DESIGN CHOICE). -/
def State.hitDenial (s : State) (l : Lane) (a size : Nat) (cls : Nat) (host : Bool) : Denial :=
  let own := l.t.group.isNone && (host || sliceOf a l.core == l.core)
  { va := a, cls := cls, principal := l.t.principal.toNat, source := if host then 6 else 1
    length := size, pc := l.t.pc, grid := l.t.grid, khandle := l.t.khandle
    homeCore := if host then l.core else sliceOf a l.core, homePkg := s.fabnum
    srcCore := if own then l.t.srcCore else BitVec.ofNat 9 l.core, srcPkg := if own then l.t.srcPkg else s.fabnum }

/-- Earlier accesses of the thread that come before one made now (03 R77, R78); `wr` says that the access writes. -/
def State.heldNow (s : State) (l : Lane) (wr : Bool) (va : Option Nat) : Bool :=
  (s.openReqs l.core l.ctx).any fun r =>
    (r.isLocal && (wr || r.kind != .store)) ||
      match va with
      | some a => sameUnit r.va (BitVec.ofNat 64 a)
      | none => false

/-- A hit of `ld.ro` (02 R57): the value, or zeros after a denial record, before the instruction completes. -/
def State.roHit (s : State) (l : Lane) (x : Access) (d : Reg) (host : Bool) (k : RoLine) (bs : List Byte) : State :=
  let v := l.t.vf.toNat
  let ok := s.checkClass v l.t.principal.toNat k.cls.toNat l.core
  let s := s.outrank { s.newReq l x default (.core l.core) with dst := some d }
  let s := s.mapFill v l.t.principal.toNat k.cls.toNat l.core
  if ok then
    let val := loadVal x.ty (BitVec.ofNat 128 (sectorNat bs x.a x.size))
    (s.roTouch v x.a l.core).complete l (destWrites d val) none
  else
    (s.appendDenial v (s.hitDenial l x.a x.size k.cls.toNat host)).complete l (destWrites d 0) none

/-! ## Meanings: global accesses -/

/-- `ld.g` (10 R232). -/
def execLdG (h : Hdr) (t : Ty) (tf : Bool) (d base : Reg) (disp : BitVec 10) (s : State) : Out :=
  .next (s.runAccess (.ldG h t tf d base disp) h fun s l =>
    s.access l [.reg base] (Reg.refs d)
      (s.load l { Access.plain .load (s.globalAddr l base disp) t tf with dst := some d }))

/-- `st.g` (10 R233). -/
def execStG (h : Hdr) (t : Ty) (tf : Bool) (v : Src) (base : Reg) (disp : BitVec 10) (s : State) : Out :=
  .next (s.runAccess (.stG h t tf v base disp) h fun s l =>
    s.access l [.reg base, v] []
      (s.modify l { Access.plain .store (s.globalAddr l base disp) t tf with
        data := storeData t (s.srcVal l v) }))

/-- `ld.ro` (10 R233, 02 R57): a hit in the slice, else a request to the home. -/
def State.loadRo (s : State) (l : Lane) (x : Access) (d : Reg) : AccOut :=
  match s.addrCheck l x.a x.size with
  | .error e => .bad x e
  | .ok (g, hm) =>
    match s.roFind l.t.vf.toNat x.a l.core with
    | some (k, bs) =>
      if s.heldNow l false (some x.a) || s.lineHeld (sliceOf x.a l.core) x.a then .other (.wait .retry)
      else .go x g hm fun s => s.roHit l x d g.isHost k bs
    | none => s.request l x g hm

/-- `ld.ro` (10 R233). -/
def execLdRo (h : Hdr) (t : Ty) (tf : Bool) (d base : Reg) (disp : BitVec 10) (s : State) : Out :=
  .next (s.runAccess (.ldRo h t tf d base disp) h fun s l =>
    s.access l [.reg base] (Reg.refs d)
      (s.loadRo l { Access.plain .ro (s.globalAddr l base disp) t tf with dst := some d } d))

/-- `pf.ro` (10 R228, R233): never faults; a lane that fails a check is dropped, and so is one that could fill nothing. -/
def execPfRo (h : Hdr) (base : Reg) (disp : BitVec 10) (s : State) : Out :=
  .next (s.runAccess (.pfRo h base disp) h fun s l =>
    let a := s.globalAddr l base disp
    let x := { Access.plain .prefetch (a / 256 * 256) .b32 false with size := 4 }
    s.access l [.reg base] []
      (match s.addrCheck l a 0 with
      | .error _ => .other (.write [] none)
      | .ok (g, hm) =>
        if g.win || g.replicated || !s.sliceLive (sliceOf a l.core) ||
            (s.roFind l.t.vf.toNat a l.core).isSome then .other (.write [] none)
        else .go x g hm fun s => s.issueAccess l x g hm))

/-- `atom.g` (10 R234, R235). -/
def execAtomG (h : Hdr) (op : AtomOp) (t : Ty) (tf : Bool) (d base : Reg) (disp : BitVec 10) (v : Src)
    (s : State) : Out :=
  .next (s.runAccess (.atomG h op t tf d base disp v) h fun s l =>
    s.access l (if op = .cas then [.reg base, .reg d, v] else [.reg base, v]) (Reg.refs d)
      (s.modify l { Access.plain .atomic (s.globalAddr l base disp) t tf with
        op := op, data := storeData t (s.srcVal l v)
        expected := if op = .cas then s.regVal l d else 0
        dst := some d }))

/-- `red.g` (10 R234, R235): never migrates. -/
def execRedG (h : Hdr) (op : AtomOp) (t : Ty) (tf : Bool) (v : Src) (base : Reg) (disp : BitVec 10)
    (s : State) : Out :=
  .next (s.runAccess (.redG h op t tf v base disp) h fun s l =>
    s.access l [.reg base, v] []
      (s.modify l { Access.plain .red (s.globalAddr l base disp) t tf with
        op := op, data := storeData t (s.srcVal l v) }))

/-- The primary replica of an address (03 R93). -/
def State.primaryOf (s : State) (g : Region) (a : Nat) : Home := (s.replicaHomes g a).headD (s.homeAt g.pkg0 (64 * emptyDie + (a - g.base) / 65536 % 64))

/-- `mcst` (10 R236): sent to the primary replica; outside a replicated region it traps. -/
def execMcst (h : Hdr) (t : Ty) (v : Src) (base : Reg) (disp : BitVec 10) (s : State) : Out :=
  .next (s.runAccess (.mcst h t v base disp) h fun s l =>
    let a := s.globalAddr l base disp
    let x := { Access.plain .mcst a t false with data := storeData t (s.srcVal l v) }
    s.access l [.reg base, v] []
      (match s.addrCheck l a (tyBytes t) with
      | .error e => .bad x e
      | .ok (g, _) =>
        if !g.replicated then .bad x (trapAt .prot 3 a)
        else s.request l x g (s.primaryOf g a)))

/-- `ld.acq` (10 R238). -/
def execLdAcq (h : Hdr) (t : Ty) (tf : Bool) (d base : Reg) (disp : BitVec 10) (s : State) : Out :=
  .next (s.runAccess (.ldAcq h t tf d base disp) h fun s l =>
    s.access l [.reg base] (Reg.refs d)
      (s.load l { Access.plain .load (s.globalAddr l base disp) t tf with dst := some d, acq := true }))

/-! ## Scratchpad (02 R60, R61) -/

/-- The team of a bound lane. -/
def State.teamOf (s : State) (l : Lane) : Nat :=
  match l.t.group with
  | some g => (s.group l.core g.1).team
  | none => 0

/-- The scratchpad checks of 10 R228, steps 4 and 5. -/
def State.spCheck (s : State) (l : Lane) (a size : Nat) : Option Trap :=
  if a % size ≠ 0 then some (trapAt .align 0 a)
  else if !(s.team l.core (s.teamOf l)).inGrant a size then some (trapAt .prot 1 a)
  else none

/-- A scratchpad access is held: by earlier accesses (03 R77, R78), by a matrix operation (03 R88), or by a test (20 R435). -/
def State.spHeld (s : State) (l : Lane) (wr : Bool) (a size : Nat) : Bool :=
  s.heldNow l wr none || s.macroHeld .sram l.core (s.teamOf l) || s.heldByMatrix l.core ((l.t.group.map Prod.fst).getD 0) a size

/-- `wait.ctr` at one test (12 R296): it goes on, traps, or keeps waiting. -/
def counterTest (w : Nat) (target : Word) : Option (Except Cause Unit) :=
  let e := bits w 59 5
  if e ≥ 25 then some (.error .illegalOp)
  else if e ≠ 0 then some (.error ((Cause.ofCode e).getD .illegalOp))
  else if bits w 32 27 = 0 && bits w 0 32 ≥ target.toNat then some (.ok ())
  else none

/-- The trap of a counter: a code that names no cause is ILLEGAL_OP, KIND 6; the offset goes to INFO (12 R296). -/
def counterTrap (w : Nat) (off : Word) (c : Cause) : Trap :=
  ⟨c, if bits w 59 5 ≥ 25 then 6 else 0, 0, off⟩

/-- The counter word of a team. -/
def State.counterWord (s : State) (c t off : Nat) : Nat := Mem.readNat (s.team c t).sp off 8

/-- What the test of a thread under `wait.ctr` finds (12 R296), with the PC after the instruction; none where the thread is
not under one. -/
def State.counterOut (s : State) (c x : Nat) : Option (Word × Except Trap Bool) :=
  let t := s.thread c x
  match t.st, t.group with
  | .waiting (.counter off target next), some g =>
    let w := s.counterWord c (s.group c g.1).team off.toNat
    match counterTest w target with
    | none => some (next, .ok false)
    | some (.ok ()) => some (next, .ok true)
    | some (.error e) => some (next, .error (counterTrap w off e))
  | _, _ => none

/-- The lanes of a group that wait under the `wait.ctr` of a PC, as (lane, context). -/
def State.counterLanes (s : State) (c g : Nat) (pc : Word) : List (Nat × Nat) :=
  let k := s.group c g
  ((List.range k.width).map fun l => (l, k.members.getD l 0)).filter fun e =>
    (s.thread c e.2).pc == pc && (s.thread c e.2).group == some (g, e.1) && (s.counterOut c e.2).isSome

/-- One thread under `wait.ctr` is tested (12 R296); a trap parks the lanes that wait with it as one unit (10 R246). -/
def State.testCounter (s : State) (c x : Nat) : State :=
  match s.counterOut c x, (s.thread c x).group with
  | some (next, .ok true), _ => s.goesOn c x next
  | some (_, .error e), some g =>
    let t := s.thread c x
    let ls := s.counterLanes c g.1 t.pc
    s.park (FUnit.atIssue c t.vf.toNat (some g.1) ls e (ls.map Prod.fst) t.pc t.pc 0 .reexec) false
  | _, _ => s

/-- Every `wait.ctr` of a core is tested after an update (12 R296). -/
def State.testCounters (s : State) (c : Nat) : State :=
  (s.core c).ctxs.foldl (fun s e => s.testCounter c e.1) s

/-- A thread's update of scratchpad, and the tests that follow it. -/
def State.spUpdate (s : State) (l : Lane) (a : Nat) (bs : List Byte) : State :=
  (s.spPut l.core (s.teamOf l) a bs).testCounters l.core

/-- `ld.s` (10 R232). -/
def execLdS (h : Hdr) (t : Ty) (d base : Reg) (disp : BitVec 10) (s : State) : Out :=
  .next (s.runAccess (.ldS h t d base disp) h fun s l =>
    let a := s.spAddr l base disp
    let tm := s.team l.core (s.teamOf l)
    s.access l [.reg base] (Reg.refs d)
      (match s.spCheck l a (tyBytes t) with
      | some e => .other (.trap e)
      | none =>
        if s.spHeld l false a (tyBytes t) then .other (.wait .retry)
        else if tm.spBad a (tyBytes t) then .spBad (trapAt .poison 0 a)
        else .sp fun s => (s, destWrites d (loadVal t (BitVec.ofNat 128 (Mem.readNat tm.sp a (tyBytes t)))))))

/-- `st.s` (10 R233). -/
def execStS (h : Hdr) (t : Ty) (v : Src) (base : Reg) (disp : BitVec 10) (s : State) : Out :=
  .next (s.runAccess (.stS h t v base disp) h fun s l =>
    let a := s.spAddr l base disp
    s.access l [.reg base, v] []
      (match s.spCheck l a (tyBytes t) with
      | some e => .other (.trap e)
      | none =>
        if s.spHeld l true a (tyBytes t) then .other (.wait .retry)
        else .sp fun s0 => (s0.spUpdate l a (leBytes (tyBytes t) (s.srcVal l v).toNat), [])))

/-- One `atom.s` on the state: the write, and the old value for the destination (10 R235). -/
def State.atomSp (s : State) (l : Lane) (op : AtomOp) (t : Ty) (d : Reg) (a : Nat) (v e : DWord) : State × List (WRef × Word) :=
  let n := tyBytes t
  let o : DWord := BitVec.ofNat 64 (Mem.readNat (s.team l.core (s.teamOf l)).sp a n)
  let s := match atomNew op t o v e with
    | some w => s.spUpdate l a (leBytes n w.toNat)
    | none => s
  (s, destWrites d o)

/-- `atom.s` (10 R234, R235). -/
def execAtomS (h : Hdr) (op : AtomOp) (t : Ty) (d base : Reg) (disp : BitVec 10) (v : Src) (s : State) :
    Out :=
  .next (s.runAccess (.atomS h op t d base disp v) h fun s l =>
    let a := s.spAddr l base disp
    s.access l (if op = .cas then [.reg base, .reg d, v] else [.reg base, v]) (Reg.refs d)
      (match s.spCheck l a (tyBytes t) with
      | some e => .other (.trap e)
      | none =>
        if s.spHeld l true a (tyBytes t) then .other (.wait .retry)
        else if (s.team l.core (s.teamOf l)).spBad a (tyBytes t) then .spBad (trapAt .poison 0 a)
        else .sp fun s0 => s0.atomSp l op t d a (s.srcVal l v) (s.regVal l d)))

/-! ## REMOTE_REQUEST_SEND (95) -/

/-- A thread whose requests are all sent becomes ready (10 R231). -/
def State.wakeSent (s : State) (c x : Nat) : State :=
  if (s.thread c x).st = .waiting .send ∧ !s.hasUnsent c x then s.ready c x else s

/-- REMOTE_REQUEST_SEND: the next unsent request of its issue, of any of its threads, goes out as an entry becomes free (10 R231). -/
def execRemoteRequestSend (id : Nat) (s : State) : Out :=
  .next (match s.reqs.find? fun r => r.id == id && r.stat == .unsent with
    | none => s
    | some r =>
      if s.reqs.any fun x => x.core == r.core && x.far.isNone && x.issue == r.issue && x.stat == .unsent && x.id < r.id && s.sendable x
      then s
      else (s.trySend r).wakeSent r.core r.ctx)

end Sys2Proof.Machine
end

