-- ==== Sys2Proof/Machine/Perform.lean ====
section
/-! DEFINITION. Requests at their homes (02 R52, R54, 03 R74 to R80), their responses (10 R248, R249), the firewall's drops
(19 R391), table walks (19 R396), sector fills (02 R57) and the forwarding of `mcst` (03 R93). -/

namespace Sys2Proof.Machine

/-! ## Requests behind a fault (10 R249) -/

/-- An earlier request of the thread faulted at the same home, or was returned by it: this one is returned too (10 R249). -/
def Req.turnsBack (x r : Req) : Bool :=
  x.id < r.id && x.core == r.core && x.ctx == r.ctx && x.far.isNone && r.far.isNone &&
    x.home == r.home && x.kind != .prefetch && r.kind != .prefetch &&
    match x.stat with
    | .faulted _ | .returned => true
    | _ => false

/-- A request of another package belongs to the thread of an earlier one that faulted here, with no replay between them. -/
def Turned.holds (x : Turned) (r : Req) : Bool :=
  match r.far with
  | none => false
  | some f => x.pkg == f.1 && x.core == f.2.1 && x.ctx == r.ctx && x.round == r.round && x.id < f.2.2 && r.kind != .prefetch

/-- The home notes that it faulted or returned a request of another package's thread. -/
def State.noteTurned (s : State) (r : Req) : State :=
  match r.far with
  | none => s
  | some f =>
    if r.engine ≠ 0 ∨ 2 ^ 60 ≤ f.2.2 ∨ r.kind = .prefetch then s
    else
      let t : Turned := ⟨f.1, f.2.1, r.ctx, r.round, f.2.2⟩
      { s with turned := t :: s.turned.filter fun x =>
          !(x.pkg == t.pkg && x.core == t.core && x.ctx == t.ctx && x.round != t.round) }

/-- A request is returned unperformed, and those combined into it stand alone again. -/
def State.turnBack (s : State) (r : Req) : State :=
  let s := s.noteTurned r
  { s with reqs := s.reqs.map fun q =>
      if q.id = r.id then { q with stat := .returned, known := true }
      else if q.stat = .merged r.id then { q with stat := .unsent } else q }

/-! ## Firewalls (19 R391) -/

/-- The ports that a request crosses on its way (19 R391): on the die network, and an Ethernet port to or from another package. -/
def Req.way (r : Req) : List Crossing :=
  match r.home with
  | .host => []
  | .far p d => crossOut r.core (outPort r.core p) p d
  | .core c => if r.far.isSome then crossIn (inPort c r.srcPkg.toNat) c else crossings r.core c

/-- The first port that drops a request (19 R391). -/
def State.wallOf (s : State) (r : Req) : Option Nat := s.wallOn r.vf.toNat (r.win && !AccKind.writes r.kind) (Req.way r)

/-- A firewall keeps the request from its home. -/
def State.walled (s : State) (r : Req) : Bool := (s.wallOf r).isSome

/-! ## Outcomes -/

/-- A request and those combined into it get an outcome (03 R95). -/
def State.reqOutcome (s : State) (id : Nat) (st : RStat) (v : BitVec 128) : State :=
  { s with reqs := s.reqs.map fun r =>
      if r.id = id ∨ r.stat = .merged id then { r with stat := st, value := v } else r }

/-- The code of a replica in `Req.reps`. -/
def State.repCode (s : State) : Home → Nat
  | .core c => s.fabnum.toNat * 8 + dieOf c
  | .far p c => p * 8 + dieOf c
  | .host => 0

/-- The replicas that an `mcst` still has to write when its primary one is written (03 R93). -/
def State.otherReps (s : State) (r : Req) (g : Region) : List Nat :=
  if r.kind = .mcst && r.home == s.primaryOf g r.va.toNat then
    ((s.replicaHomes g r.va.toNat).drop 1).map s.repCode
  else []

/-- A request that Perform traps. -/
def State.reqFault (s : State) (r : Req) (t : Trap) : State := (s.noteTurned r).reqOutcome r.id (.faulted t) 0

/-- The last step of Perform: the bytes are read or written; an `mcst` goes on to the other replicas. The sector that a read of a
read-only page found goes to the slice of the issuing die, wherever the home lies (02 R57, 12 R300). -/
def State.performOk (s : State) (r : Req) (c : Nat) (g : Region) (p : Nat) (e : Pte) : State :=
  let v := r.vf.toNat
  let a := r.va.toNat
  let parts := (s.reqs.filter fun x => x.stat == .merged r.id).map fun x => x.data.setWidth 64
  let s := (s.tlbFill v a c g).mapFill v r.principal.toNat e.cls c
  let fills := if r.kind = .ro || r.kind = .prefetch then s.fillOf v a r.core g p e r.hint else []
  let o := s.homeDo r.kind r.op r.ty r.size r.data parts r.expected p e
  let s := if r.far.isSome then o.1.modReq r.id fun q => { q with sector := fills.head?.map fun f => (f.cls, f.bytes) }
    else { o.1 with fills := o.1.fills ++ fills }
  match s.otherReps r g with
  | [] => s.reqOutcome r.id .performed o.2
  | reps => s.modReq r.id fun q => { q with reps := reps, value := BitVec.ofNat 128 s.tick }

/-- Perform (02 R54) at a core of this package, or at the issuing core for the host. -/
def State.performAt (s : State) (r : Req) (c : Nat) (g : Region) : State :=
  let v := r.vf.toNat
  let a := r.va.toNat
  let out := s.homeCheck v r.principal.toNat a r.kind r.tf c g
  match if r.engine = 2 then s.homePassed a c out else out with
  | .wait => s
  | .trap t => (s.noteTrap v a c g t).reqFault r t
  | .denied e =>
    let s := (s.tlbFill v a c g).mapFill v r.principal.toNat e.cls c
    if r.kind = .prefetch then s.reqOutcome r.id .performed 0
    else if r.engine ≠ 0 then s.reqOutcome r.id (.denied (BitVec.ofNat 12 e.cls) e.size) 0
    else (s.appendDenial v (r.denial e.cls (denialSource g r.kind e) c s.fabnum)).reqOutcome r.id .performed 0
  | .ok p e => s.performOk r c g p e

/-! ## Events -/

/-- PERFORM (02 R54): a sent request that order and firewalls let through is performed, or returned unperformed. -/
def execPerform (id : Nat) (s : State) : Out :=
  .next (match s.reqs.find? fun r => r.id == id && r.stat == .sent && r.reps.isEmpty with
    | none => s
    | some r =>
      let go := fun (f : Region → State) =>
        if s.reqs.any (fun x => x.turnsBack r) || s.turned.any (fun x => x.holds r) then s.turnBack r
        else if s.walled r || s.reqs.any (fun x => x.precedes r) then s
        else
          match s.regionOf r.vf.toNat r.va.toNat with
          | none => s.reqFault r (trapAt .pageFault 2 r.va.toNat)
          | some g => f g
      match r.home with
      | .far _ _ => s
      | .core c => go fun g => s.performAt r c g
      | .host => go fun g => s.performAt r r.core g)

/-- FIREWALL_DROP (19 R391): the request is dropped, counted, and returns FIREWALL, KIND 0. -/
def execFirewallDrop (id : Nat) (s : State) : Out :=
  .next (match s.reqs.find? fun r => r.id == id && r.stat == .sent && r.reps.isEmpty with
    | none => s
    | some r =>
      match s.wallOf r with
      | none => s
      | some q => (s.countDrop q).reqFault r (trapAt .firewall 0 r.va.toNat))

/-- TABLE_WALK (19 R396, R398): the translation of an address enters the home's TLB. -/
def execTableWalk (core vf : Nat) (va : BitVec 64) (s : State) : Out :=
  .next (match s.regionOf vf va.toNat with
    | none => s
    | some g => s.tlbFill vf va.toNat core g)

/-- RO_SECTOR_FILL (02 R57). -/
def execRoSectorFill (n : Nat) (s : State) : Out :=
  .next (match s.fills[n]? with
    | none => s
    | some f => { s.roFill f with fills := s.fills.eraseIdx n })

/-- The number of a forwarded write in a packet (03 R93). -/
def repId (id rep : Nat) : Nat := 2 ^ 60 + id * 2 ^ 20 + rep

/-- A replica acknowledges a forwarded write that the request still lists; after the last one the `mcst` is performed. -/
def State.repDone (s : State) (id rep : Nat) : State :=
  match s.reqs.find? fun r => r.id == id && r.reps.contains rep with
  | none => s
  | some r =>
    let rest := r.reps.filter (· != rep)
    if rest.isEmpty then (s.modReq id fun q => { q with reps := [] }).reqOutcome id .performed 0
    else s.modReq id fun q => { q with reps := rest }

/-- An `mcst` that the replica at a home does not take faults there (10 R249); the other replicas are asked no more. -/
def State.mcstFault (s : State) (r : Req) (h : Home) (t : Trap) : State := (s.modReq r.id fun q => { q with reps := [], home := h }).reqFault r t

/-- The core of a request's home in this package; the issuing one where it has none. -/
def Req.homeCore (r : Req) : Nat :=
  match r.home with
  | .core c => c
  | _ => r.core

/-- MCST_FORWARD (03 R93): the write goes to another replica, once that replica has acknowledged earlier writes to the
location; a firewall between drops it (19 R391). -/
def execMcstForward (id rep : Nat) (s : State) : Out :=
  .next (match s.reqs.find? fun r => r.id == id && r.stat == .sent && r.reps.contains rep with
    | none => s
    | some r =>
      let a := r.va.toNat
      let earlier := s.reqs.any fun x =>
        x.id != id && x.kind == .mcst && sameUnit x.va r.va && x.value.toNat < r.value.toNat &&
          (x.reps.contains rep || x.reps.contains (rep + 2 ^ 19))
      if earlier || rep ≥ 2 ^ 19 then s
      else
        match s.regionOf r.vf.toNat a with
        | none => s.mcstFault r r.home (trapAt .pageFault 2 a)
        | some g =>
          let core := 64 * (rep % 8) + (a - g.base) / 65536 % 64
          let h := s.homeAt (rep / 8) core
          match s.wallOf { r with core := r.homeCore, home := h, far := none } with
          | some q => (s.countDrop q).mcstFault r r.home (trapAt .firewall 0 a)
          | none =>
            match h with
            | .core _ =>
              match s.homeCheck r.vf.toNat r.principal.toNat a .mcst false core g with
              | .wait => s
              | .trap t => s.mcstFault r h t
              | .denied _ => s
              | .ok p e =>
                ((s.tlbFill r.vf.toNat a core g).homeWrite p e (leBytes r.size r.data.toNat)).repDone id rep
            | _ =>
              (s.modReq id fun q =>
                { q with reps := q.reps.map fun k => if k = rep then rep + 2 ^ 19 else k }).sendPacket
                  r.homeCore (rep / 8) core (.request { r.wire core with id := repId id rep }))

/-! ## Responses and parked units (10 R248 to R250) -/

/-- A thread's place and its team's footprint are at the core, and its VF is active there (20 R421, R429). -/
def State.mayRunNow (s : State) (c x : Nat) : Bool :=
  let t := s.thread c x
  t.priv || (x < ctxCount && s.vfActive t.vf.toNat c &&
    match t.group with
    | some g => !s.teamGone c (s.group c g.1).team
    | none => !t.slot.any fun n => slotCount ≤ n)

/-- A thread that a unit let go resumes ready (01 R40), with what it goes on waiting for when it is next picked; halted where it may
not run (20 R421). -/
def State.resume (s : State) (c x : Nat) (w : Option Wait) : State :=
  let s := s.modThread c x fun t => { t with kept := none }
  if s.mayRunNow c x then s.holdReady c x w
  else s.modThread c x fun t => { t with st := .halted w, haltBy := some s.clk, atSafe := false }

/-- The returned requests of later instructions of a thread are sent, in issue order (10 R250). -/
def State.resend (s : State) (c x : Nat) : State :=
  let s : State :=
    { s with
      reqs := s.reqs.map fun r =>
        if r.ofCtx c x && r.stat == .returned then { r with stat := .unsent } else r }
  (s.reqs.filter fun r => r.ofCtx c x && r.stat == .unsent).foldl (fun s r => s.trySend r) s

/-- What a thread that resumes waits for first: to send what it kept, or, where it executes its instruction again, the outcomes of its earlier
accesses, which the replayed ones come after (03 R96). -/
def State.firstWait (s : State) (c x : Nat) (pc : Option Word) : Option Wait :=
  if s.hasUnsent c x then some .send
  else if pc.isNone && (s.thread c x).kept.isNone && (s.thread c x).snap.isSome && !(s.openReqs c x).isEmpty then some .drained
  else (s.thread c x).kept

/-- A thread leaves a parked unit: with no other unit it resumes at its parked PC, after its instruction where it stood at
it and `past` says so. -/
def State.letGo (s : State) (c x id : Nat) (pc : Option Word) : State :=
  let s := s.modThread c x fun t =>
    let t := { t with units := t.units.filter (· != id), round := s.nextUnit }
    match pc with
    | some p => t.moveTo p
    | none => t
  if (s.thread c x).st = .parked ∧ (s.thread c x).units.isEmpty then
    let s := s.resend c x
    s.resume c x (s.firstWait c x pc)
  else s

/-- The buffer entry of a unit is free again (10 R250). -/
def State.freeBuf (s : State) (u : FUnit) : State :=
  match u.buf with
  | none => s
  | some e => s.modCore u.core fun k => { k with rbuf := Tbl.set k.rbuf e none }

/-- A parked unit is done: its tokens are written, its entry is free, its threads resume (10 R250, 12 R281). -/
def State.unitDone (s : State) (u : FUnit) : State :=
  let s := ({ s with units := s.units.filter fun v => v.id != u.id } : State).freeBuf u
  let s := u.tokens.foldl (fun s e => s.setWord u.core e.1 e.2.1 e.2.2) s
  u.threads.foldl (fun s e =>
    s.letGo u.core e.2 u.id
      ((u.reqs.find? fun r => r.ctx == e.2 && r.held).map Req.next)) s

/-- Requests of one fault unit. -/
def Req.inUnit (r : Req) (core issue key : Nat) : Bool :=
  r.core == core && r.issue == issue && r.key == key && r.far.isNone

/-- Every lane of the request's unit is performed, as its core knows (10 R248). -/
def State.unitSettled (s : State) (r : Req) : Bool :=
  s.reqs.all fun x => !x.inUnit r.core r.issue r.key || (x.stat == .performed && x.known)

/-- The response of an access of this package: the destination is written, and a unit that was replayed is done with its
last one. -/
def State.deliver (s : State) (r : Req) : State :=
  let s : State := match r.dst with
    | some d =>
      if r.top then
        (destWrites d (loadVal r.ty r.value)).foldl (fun s w => s.writeWord r.core r.ctx w.1 w.2) s
      else s
    | none => s
  let s := { s with reqs := s.reqs.filter fun x => x.id != r.id }
  if s.reqs.any (fun x => x.inUnit r.core r.issue r.key) then s
  else
    match s.units.find? fun u => u.busy && u.reqs.any fun x => x.inUnit r.core r.issue r.key with
    | none => s
    | some u => s.unitDone u

/-- The response packet to another package (02 R52). -/
def Req.answer (r : Req) : WireResp :=
  match r.stat, r.sector with
  | .faulted t, _ => .trap t.cause.code t.kind
  | .returned, _ => .returned
  | .denied c n, _ => .denied c n
  | _, some x => .sector r.value x.1 x.2
  | _, none => .value r.value

/-- REQUEST_RESPONSE (02 R52, 10 R248): no destination of an instruction is written before every lane of its unit is
performed; with the last one they all are. Of a trap the core learns now (10 R249). -/
def execRequestResponse (id : Nat) (s : State) : Out :=
  .next (match s.reqs.find? fun r => r.id == id with
    | none => s
    | some r =>
      let out := match r.stat with
        | .performed | .faulted _ => true
        | .denied _ _ | .returned => r.far.isSome
        | _ => false
      let gone := { s with reqs := s.reqs.filter fun x => x.id != id }
      match r.far, r.home with
      | some f, .core c =>
        if out then gone.sendAs c f.1 f.2.1 r.cls (.response f.2.2 r.answer) else s
      | _, _ =>
        if r.ctx = engineCtx then s
        else if r.kind = .prefetch then (if out then gone else s)
        else
          match r.stat with
          | .performed =>
            let s := s.modReq id fun q => { q with known := true }
            if s.unitSettled r then (s.reqs.filter fun x => x.inUnit r.core r.issue r.key).foldl State.deliver s else s
          | .faulted _ => s.modReq id fun q => { q with known := true }
          | _ => s)

/-! ## UNIT_PARK (10 R247 to R249) -/

/-- A request that is on its way, without an outcome. -/
def Req.underway (r : Req) : Bool :=
  match r.stat with
  | .sent | .merged _ => true
  | _ => false

/-- The lanes of a unit's requests whose status a test accepts. -/
def lanesWhere (rs : List Req) (p : Req → Bool) : BitVec 64 := maskOf ((rs.filter p).map Req.lane)

/-- The threads of a unit's requests, in lane order. -/
def unitThreads (rs : List Req) : List (Nat × Nat) :=
  rs.foldl (fun l r => if l.contains (r.lane, r.ctx) then l else l ++ [(r.lane, r.ctx)]) []

/-- The trap of the lowest faulting lane. -/
def lowestTrap (rs : List Req) : Option (Nat × Trap) :=
  rs.foldl (fun m r =>
    match r.stat, m with
    | .faulted t, none => some (r.lane, t)
    | .faulted t, some k => if r.lane < k.1 then some (r.lane, t) else some k
    | _, _ => m) none

/-- The unit of requests that parks: a lane is performed when all its requests are, faulting when one faulted, else
pending (10 R247). -/
def State.lateUnit (s : State) (rs : List Req) (t : Trap) : FUnit :=
  let r := rs.headD default
  let low := ((unitThreads rs).headD (0, 0)).2
  let act := lanesWhere rs fun _ => true
  let bad := lanesWhere rs Req.fails
  let open_ := lanesWhere rs fun r => r.stat != .performed
  { id := 0, seq := none, vf := r.vf.toNat, core := r.core
    gset := (s.thread r.core r.ctx).group.map Prod.fst, threads := unitThreads rs, trap := t
    origin := 0, pc := r.pc, parkPc := (s.thread r.core low).pc, performed := act &&& ~~~ open_
    faulting := bad, pending := open_ &&& ~~~ bad, active := act, buf := none, reqs := rs
    resume := .requests, busy := false, issue := some r.issue, tokens := [] }

/-- A unit that was being replayed gives way to its new record (20 R421). -/
def State.retireUnit (s : State) (core issue key : Nat) : State :=
  match s.units.find? fun u => u.busy && u.reqs.any fun x => x.inUnit core issue key with
  | none => s
  | some u =>
    let s := ({ s with units := s.units.filter fun v => v.id != u.id } : State).freeBuf u
    u.threads.foldl (fun s e =>
      s.modThread core e.2 fun t => { t with units := t.units.filter (· != u.id) }) s

/-- UNIT_PARK: the unit of an issue parks when a lane faulted and every request that its threads sent has an outcome that the core
knows. An engine's access is of no unit (04 R108). -/
def execUnitPark (issue key : Nat) (s : State) : Out :=
  .next (
    let rs : List Req := s.reqs.filter fun r => r.issue == issue && r.key == key && r.far.isNone && r.kind != .prefetch
    match lowestTrap rs, rs with
    | some t, r :: _ =>
      let xs := (unitThreads rs).map Prod.snd
      if r.ctx = engineCtx then s
      else if s.reqs.any (fun q => q.core == r.core && q.far.isNone && q.kind != .prefetch &&
          xs.contains q.ctx && q.underway) || (rs.any fun q => !q.known && q.fails) then s
      else
        let u := s.lateUnit rs t.2
        let s := s.retireUnit r.core issue key
        let s : State := { s with reqs := s.reqs.filter fun (q : Req) => !(q.inUnit r.core issue key && q.kind != .prefetch) }
        s.parkWhen u (rs.any fun (q : Req) => q.stat == .performed && AccKind.returns q.kind)
    | _, _ => s)

end Sys2Proof.Machine
end

