-- ==== Sys2Proof/Machine/Engines.lean ====
section
/-! DEFINITION. Class 6, copies, gathers, spills and fills (12 R278 to R284, R290) and what their engines do (04 R97 to R109).
An element that a home of another package performs travels as a request and stays open until its response. -/

namespace Sys2Proof.Machine

/-! ## Accesses of engines -/

/-- What an engine's access comes to: it waits, waits for the driver with a PAGE_FAULT, fails, is a denied read, or is done
with the value read. -/
inductive ElemOut where
  | wait
  | fault (t : Trap)
  | fail (t : Trap)
  | denied (e : Pte)
  | ok (v : Nat)

/-- Who an engine works for, and where: core, VF, principal, kernel handle, grid, PC (02 R52). -/
structure Asker where
  core : Nat
  vf : BitVec 10
  principal : BitVec 12
  khandle : BitVec 16
  grid : Word
  pc : Word
  deriving DecidableEq, Repr

/-- The page that a denial of another package names. -/
def pteOfDenial (cls : BitVec 12) (size : Nat) : Pte := { Pte.ofNat 0 with cls := cls.toNat, size := size }

/-- Requests of an engine operation are forgotten: those of the units that a test keeps. -/
def State.dropUnits (s : State) (c tag : Nat) (p : Nat → Bool) : State :=
  { s with reqs := s.reqs.filter fun r => !(r.ctx == engineCtx && r.core == c && r.key == tag && p r.lane) }

/-- The outcome that a request to another package brought back, or the request goes out. What came back stays with the operation until
its element is done; a fault goes, so that a retry asks again. A request waits for a place among the outstanding ones of its core (10
R231). -/
def State.farAsk (s : State) (q : Asker) (tag unit a size : Nat) (k : AccKind) (data : Nat) (win : Bool)
    (h : Home) : State × ElemOut :=
  match s.reqs.find? fun r => r.ctx == engineCtx && r.core == q.core && r.key == tag && r.lane == unit with
  | some r =>
    match r.stat with
    | .performed => (s, .ok r.value.toNat)
    | .denied c n => (s, .denied (pteOfDenial c n))
    | .faulted t => (s.dropUnits q.core tag (· == unit), if t.cause = .pageFault then .fault t else .fail t)
    | _ => (s, .wait)
  | none =>
    let r : Req :=
      { (default : Req) with
        id := s.nextReq, key := tag, core := q.core, ctx := engineCtx, lane := unit, vf := q.vf
        principal := q.principal, khandle := q.khandle, grid := q.grid, pc := q.pc, kind := k
        va := BitVec.ofNat 64 a, size := size, data := BitVec.ofNat 128 data, home := h, win := win, engine := 1
        srcCore := BitVec.ofNat 9 q.core, srcPkg := s.fabnum }
    (if s.outstanding q.core < 4096 then (s.addReq r).send r else s, .wait)

/-- A firewall stands between the source and the home of an engine's access (19 R391). -/
def State.engineWalled (s : State) (q : Asker) (win : Bool) (k : AccKind) (d : Nat) : Bool :=
  (s.wallOn q.vf.toNat (win && !AccKind.writes k) (crossings q.core d)).isSome

/-- One access of an engine, at most 16 bytes (04 R100, R107, R109): Perform at its home with the issuer's VF and
principal; towards another package or a firewall it goes out as a request, which the firewall drops and counts (19 R391). -/
def State.elemAccess (s : State) (q : Asker) (tag unit a size : Nat) (k : AccKind) (data : Nat) :
    State × ElemOut :=
  let v := q.vf.toNat
  if a ≥ 2 ^ 56 then (s, .fault (trapAt .pageFault 1 a))
  else
    match s.homeOf v a q.core with
    | .error t => (s, .fault t)
    | .ok (g, h) =>
      if g.win && AccKind.writes k then (s, .fail (trapAt .prot 2 a))
      else
        let at_ := fun (d : Nat) =>
          match s.homeCheck v q.principal.toNat a k false d g with
          | .wait => (s, .wait)
          | .trap t => (s.noteTrap v a d g t, if t.cause = .pageFault then .fault t else .fail t)
          | .denied e => (s.tlbFill v a d g, .denied e)
          | .ok p e =>
            let s := s.tlbFill v a d g
            if AccKind.writes k then (s.homeWrite p e (leBytes size data), .ok 0)
            else (s, .ok (s.homeRead p e size))
        match h with
        | .far _ _ => s.farAsk q tag unit a size k data g.win h
        | .core d => if s.engineWalled q g.win k d then s.farAsk q tag unit a size k data g.win h else at_ d
        | .host => at_ q.core

/-- An engine record (04 R108, 12 R302): ORIGIN 1, the element address, the descriptor offset in INFO; the element waits for
the driver. -/
def State.engineRecord (s : State) (q : Asker) (t : Trap) (info : Word) (r : Resume) : State :=
  let u : FUnit :=
    { id := 0, seq := none, vf := q.vf.toNat, core := q.core, gset := none, threads := []
      trap := { t with info := info }, origin := 1, pc := q.pc, parkPc := 0, performed := 0, faulting := 0
      pending := 0, active := 0, buf := none, reqs := [], resume := r, busy := false, issue := none, tokens := [] }
  s.park u false

/-- An engine access that writes joins the flush set of its thread (03 R85). -/
def State.flushAdd (s : State) (c x : Nat) (h : Home) : State :=
  match h with
  | .far p _ =>
    if (s.thread c x).st = .none then s
    else s.modThread c x fun t => { t with flush := t.flush.add p }
  | _ => s

/-! ## Arrival counters (12 R295) -/

/-- A counter word rewritten. -/
def State.setCounter (s : State) (c t off w : Nat) : State :=
  (s.spPut c t off (leBytes 8 w)).testCounters c

/-- The counter word of its fields. -/
def counterMk (err pend count : Nat) : Nat := err * 2 ^ 59 + pend * 2 ^ 32 + count % 2 ^ 32

/-- Posting B bytes; none where PENDING would overflow. -/
def State.counterPost (s : State) (c t off b : Nat) : Option State :=
  let w := s.counterWord c t off
  if bits w 32 27 + b < 2 ^ 27 then
    some (s.setCounter c t off (counterMk (bits w 59 5) (bits w 32 27 + b) (bits w 0 32)))
  else none

/-- b bytes written: from pending to counted. -/
def State.counterCount (s : State) (c t off b : Nat) : State :=
  let w := s.counterWord c t off
  s.setCounter c t off (counterMk (bits w 59 5) (bits w 32 27 - b) (bits w 0 32 + b))

/-- An operation ended by an error with u bytes unwritten. -/
def State.counterError (s : State) (c t off u cause : Nat) : State :=
  let w := s.counterWord c t off
  s.setCounter c t off
    (counterMk (if bits w 59 5 = 0 then cause else bits w 59 5) (bits w 32 27 - u) (bits w 0 32))

/-! ## Copy descriptors (04 R98, R99) -/

/-- The fields of a copy descriptor; dimensions beyond NDIM have extent 1, box 1 and origin 0. -/
structure CopyDesc where
  gaddr : Nat
  spoff : Nat
  dir : Nat
  esize : Nat
  conv : Nat
  rnd : Rnd
  fill : Bool
  done : Bool
  ext : List Nat
  str : List Nat
  box : List Nat
  org : List Int
  spstr : List Nat
  ctroff : Nat
  fillv : Nat
  tagaddr : Nat
  tagsp : Nat
  reservedOk : Bool
  deriving DecidableEq, Repr

/-- The rounding of a code. -/
def Rnd.ofCode (n : Nat) : Rnd :=
  match n with
  | 0 => .rn | 1 => .rz | 2 => .rd | _ => .ru

/-- A copy descriptor read from its 128 bytes. -/
def CopyDesc.ofBytes (d : List Byte) : CopyDesc :=
  let w := fieldAt d 0x0C 4
  let nd := bits w 17 2
  let dims := List.range 4
  let pick := fun (i : Nat) (v dflt : Nat) => if i ≤ nd then v else dflt
  { gaddr := bits (fieldAt d 0 8) 0 56, spoff := fieldAt d 8 4, dir := bits w 28 4, esize := bits w 25 3
    conv := bits w 22 3, rnd := Rnd.ofCode (bits w 20 2), fill := w.testBit 19, done := w.testBit 16
    ext := dims.map fun i => pick i (fieldAt d (0x10 + 4 * i) 4) 1
    str := dims.map fun i => if i = 0 then 0 else pick i (bits (fieldAt d (0x18 + 8 * i) 8) 0 48) 0
    box := dims.map fun i => pick i (fieldAt d (0x38 + 2 * i) 2) 0
    org := dims.map fun i => if i ≤ nd then (BitVec.ofNat 32 (fieldAt d (0x40 + 4 * i) 4)).toInt else 0
    spstr := dims.map fun i => if i = 0 then 0 else pick i (fieldAt d (0x4C + 4 * i) 4) 0
    ctroff := fieldAt d 0x5C 4, fillv := fieldAt d 0x60 16, tagaddr := bits (fieldAt d 0x70 8) 0 56
    tagsp := fieldAt d 0x78 4
    reservedOk := bits (fieldAt d 0 8) 56 8 == 0 && bits w 0 16 == 0 &&
      ([0x20, 0x28, 0x30].all fun o => bits (fieldAt d o 8) 48 16 == 0) &&
      bits (fieldAt d 0x70 8) 56 8 == 0 && fieldAt d 0x7C 4 == 0 }

/-- The read-side element size. -/
def CopyDesc.readSize (d : CopyDesc) : Nat := 2 ^ d.esize

/-- The written-side element size. -/
def CopyDesc.writeSize (d : CopyDesc) : Nat :=
  match d.conv with
  | 1 | 2 => d.readSize / 2
  | 3 | 4 => d.readSize * 2
  | _ => d.readSize

/-- EG. -/
def CopyDesc.eg (d : CopyDesc) : Nat := if d.dir = 0 then d.readSize else d.writeSize
/-- ES. -/
def CopyDesc.es (d : CopyDesc) : Nat := if d.dir = 0 then d.writeSize else d.readSize
/-- The number of elements of the box. -/
def CopyDesc.count (d : CopyDesc) : Nat := d.box.foldl (fun n b => n * (b + 1)) 1

/-- The index of element k of the box, dimension 0 fastest. -/
def CopyDesc.index (d : CopyDesc) (k : Nat) : List Nat :=
  (d.box.foldl (fun (acc : List Nat × Nat) b => (acc.1 ++ [acc.2 % (b + 1)], acc.2 / (b + 1))) ([], k)).1

/-- The tensor coordinate of element k. -/
def CopyDesc.coord (d : CopyDesc) (k : Nat) : List Int :=
  (d.org.zip (d.index k)).map fun e => e.1 + (e.2 : Int)

/-- Element k is in bounds (04 R100). -/
def CopyDesc.inside (d : CopyDesc) (k : Nat) : Bool :=
  ((d.coord k).zip d.ext).all fun e => 0 ≤ e.1 && e.1 < (e.2 : Int)

/-- The global address of element k, in bounds. -/
def CopyDesc.gAt (d : CopyDesc) (k : Nat) : Nat :=
  let c := (d.coord k).map Int.toNat
  d.gaddr + c.headD 0 * d.eg + ((c.zip d.str).map fun e => e.1 * e.2).foldl (· + ·) 0

/-- The scratchpad offset of element k. -/
def CopyDesc.sAt (d : CopyDesc) (k : Nat) : Nat :=
  let j := d.index k
  d.spoff + j.headD 0 * d.es + ((j.zip d.spstr).map fun e => e.1 * e.2).foldl (· + ·) 0

/-- The global address of the tag of element k (04 R101). -/
def CopyDesc.tagAt (d : CopyDesc) (k : Nat) : Nat := d.tagaddr + 2 * ((d.gAt k - d.gaddr) / 16)

/-- The checks of 04 R99, in the order of its table. The alignment of TAGADDR and TAGSP, whose rows name no condition, is checked where CONV
is 5, which alone uses them (log 100: DESIGN CHOICE). -/
def CopyDesc.check (d : CopyDesc) (tm : Team) (off : Word) : Option Trap :=
  let bad := fun (c : Cause) (k : Nat) => some (⟨c, k, 0, off⟩ : Trap)
  let pair := match d.conv with
    | 0 => true | 1 | 2 => d.esize == 2 | 3 | 4 => d.esize == 1 | _ => d.esize == 4
  let last := d.spoff + ((d.box.zip d.spstr).map fun e => e.1 * e.2).foldl (· + ·) 0 + d.box.headD 0 * d.es
  if !d.reservedOk || d.dir > 1 || d.esize > 4 || d.conv > 5 || !pair then bad .illegalOp 6
  else if d.gaddr % d.eg ≠ 0 || d.str.any (fun x => x % d.eg ≠ 0) || (d.conv = 5 && d.tagaddr % 16 ≠ 0) then
    bad .align 0
  else if d.spoff % d.es ≠ 0 || d.spstr.any (fun x => x % d.es ≠ 0) then bad .align 0
  else if (d.done && d.ctroff % 8 ≠ 0) || (d.conv = 5 && d.tagsp % 16 ≠ 0) then bad .align 0
  else if !tm.inGrant last d.es || (d.done && !tm.inGrant d.ctroff 8) ||
      (d.conv = 5 && !tm.inGrant d.tagsp (2 * d.count)) then bad .prot 1
  else none

/-- The steps of a copy: 2k moves element k, 2k + 1 its tag (log 17: an element out of bounds has no tag copied). -/
def CopyDesc.steps (d : CopyDesc) : List Nat :=
  (List.range d.count).flatMap fun k =>
    if d.conv = 5 && d.inside k then [2 * k, 2 * k + 1]
    else if d.dir = 0 || d.inside k then [2 * k]
    else []

/-- The bytes that one step counts (04 R102). -/
def CopyDesc.stepBytes (d : CopyDesc) (e : Nat) : Nat :=
  if e % 2 = 1 then 2 else if d.dir = 0 then d.es else d.eg

/-- B (04 R102). -/
def CopyDesc.total (d : CopyDesc) : Nat := (d.steps.map d.stepBytes).foldl (· + ·) 0

/-- The converted element (04 R98, 06 R148). -/
def CopyDesc.convert (d : CopyDesc) (v : Nat) : Nat :=
  let f := fun (t u : Ty) => (Machine.convert t u d.rnd false (BitVec.ofNat 64 v)).toNat
  match d.conv with
  | 1 => f .bf16 .f32
  | 2 => f .f16 .f32
  | 3 => f .f32 .bf16
  | 4 => f .f32 .f16
  | _ => v

/-! ## Gather descriptors (04 R107) -/

/-- The fields of a gather descriptor. -/
structure GatherDesc where
  table : Nat
  stride : Nat
  rows : Nat
  rowSize : Nat
  idxoff : Nat
  count : Nat
  done : Bool
  dst : Nat
  dstStride : Nat
  defoff : Nat
  ctroff : Nat
  reservedOk : Bool
  deriving DecidableEq, Repr

/-- A gather descriptor read from its 64 bytes; `count` is COUNT + 1 and `rowSize` the row in bytes. -/
def GatherDesc.ofBytes (d : List Byte) : GatherDesc :=
  let w := fieldAt d 0x1C 4
  { table := bits (fieldAt d 0 8) 0 56, stride := bits (fieldAt d 8 8) 0 48, rows := fieldAt d 0x10 4
    rowSize := 16 * (fieldAt d 0x14 2 + 1), idxoff := fieldAt d 0x18 4, count := bits w 16 16 + 1
    done := w.testBit 0, dst := fieldAt d 0x20 4, dstStride := fieldAt d 0x24 4, defoff := fieldAt d 0x28 4
    ctroff := fieldAt d 0x2C 4
    reservedOk := bits (fieldAt d 0 8) 56 8 == 0 && bits (fieldAt d 8 8) 48 16 == 0 &&
      fieldAt d 0x16 2 == 0 && bits w 1 15 == 0 && fieldAt d 0x30 16 == 0 }

/-- Its checks (04 R107, 12 R284). -/
def GatherDesc.check (d : GatherDesc) (tm : Team) (off : Word) : Option Trap :=
  let bad := fun (c : Cause) (k : Nat) => some (⟨c, k, 0, off⟩ : Trap)
  if !d.reservedOk then bad .illegalOp 6
  else if d.table % 16 ≠ 0 || d.stride % 16 ≠ 0 || d.idxoff % 4 ≠ 0 || d.dst % 16 ≠ 0 || d.dstStride % 16 ≠ 0 ||
      d.defoff % 16 ≠ 0 || (d.done && d.ctroff % 8 ≠ 0) then bad .align 0
  else if !tm.inGrant d.idxoff (4 * d.count) || !tm.inGrant (d.dst + (d.count - 1) * d.dstStride) d.rowSize ||
      !tm.inGrant d.defoff d.rowSize || (d.done && !tm.inGrant d.ctroff 8) then bad .prot 1
  else none

/-! ## Issue (12 R283, R284) -/

/-- A new copy or gather of a lane. -/
def State.newCopy (s : State) (l : Lane) (isGather : Bool) (desc : List Byte) (off : Word) (left : List Nat)
    (bytes : Nat) (tok : Option Nat) : CopyOp :=
  { id := s.nextUnit, isGather := isGather, ctx := l.ctx, gset := (l.t.group.map Prod.fst).getD 0, lane := l.lane
    team := s.teamOf l, issue := l.num, seq := l.t.seq, vf := l.t.vf, principal := l.t.principal
    khandle := l.t.khandle, grid := l.t.grid, pc := l.t.pc, desc := desc, off := off, left := left, stuck := []
    denied := 0, deniedPages := [], index := [], bytesLeft := bytes, err := none, tok := tok }

/-- The operation is accepted: its bytes are posted, its token is EMPTY or zero, the lane goes on (12 R283). -/
def State.startCopy (s : State) (l : Lane) (tok : GReg) (ctr : Option Nat) (op : CopyOp) : Option State :=
  let s' := match ctr with
    | some off => s.counterPost l.core op.team off op.bytesLeft
    | none => some s
  s'.map fun s =>
    let s := s.modCore l.core fun k => { k with copies := k.copies ++ [op] }
    let s := { s with nextUnit := s.nextUnit + 1 }
    let s := if ctr.isSome then s.writeWord l.core l.ctx (.g tok.toNat) 0
      else s.emptyWord l.core l.ctx (.g tok.toNat)
    (s.modThread l.core l.ctx fun t => { t with seq := t.seq + 1 }).goesOn l.core l.ctx l.nextPc l.yields

/-- A descriptor that was read: its checks, then the issue; while PENDING would overflow the lane waits with what it has read (12 R283). -/
def State.tryCopy (s : State) (l : Lane) (tok : GReg) (o : Word) (isGather : Bool) (d : List Byte)
    (x : Option Trap × List Nat × Nat × Option Nat) : LaneOut :=
  match x with
  | (some t, _) => .trap t
  | (none, left, b, ctr) =>
    match s.startCopy l tok ctr (s.newCopy l isGather d o left b (if ctr.isSome then none else some tok.toNat)) with
    | none => .ask fun s => (s.modThread l.core l.ctx fun t => { t with read := d }).waits l.core l.ctx .retry
    | some s' => .act fun _ => s'

/-- The shape of `tcopy` and `gather`: token free, room in the engine, the offset's checks, the descriptor read once, after every earlier
local access of the lane (03 R86), and checked, then the issue. `mk` gives the check, the steps, B and the counter. -/
def State.issueCopy (s : State) (l : Lane) (tok : GReg) (off : Src) (size : Nat) (isGather : Bool)
    (mk : List Byte → Team → Word → Option Trap × List Nat × Nat × Option Nat) : LaneOut :=
  match s.readCheck l (hinted l 0 [off]) with
  | some o => o
  | none =>
    let o : Word := (s.srcVal l off).setWidth 32
    let tm := s.team l.core (s.teamOf l)
    if s.acqHeld l then .wait .acquire
    else
      match s.destCheck l [.g tok.toNat] with
      | some w => w
      | none =>
        if (s.core l.core).copies.length ≥ 64 then .wait .retry
        else if l.t.read ≠ [] then s.tryCopy l tok o isGather l.t.read (mk l.t.read tm o)
        else if o.toNat % size ≠ 0 then .trap ⟨.align, 0, 0, o⟩
        else if !tm.inGrant o.toNat size then .trap ⟨.prot, 1, 0, o⟩
        else if s.spHeld l true o.toNat size then .wait .retry
        else if tm.spBad o.toNat size then .trap ⟨.poison, 0, 0, o⟩
        else
          let d := Mem.read tm.sp o.toNat size
          s.tryCopy l tok o isGather d (mk d tm o)

/-- `tcopy` (12 R283). -/
def execTcopy (h : Hdr) (tok : GReg) (off : Src) (s : State) : Out :=
  .next (s.runInOrder (.tcopy h tok off) h true true fun s _ l =>
    s.issueCopy l tok off 128 false fun b tm o =>
      let d := CopyDesc.ofBytes b
      (d.check tm o, d.steps, d.total, if d.done then some d.ctroff else none))

/-- `gather` (12 R284). -/
def execGather (h : Hdr) (tok : GReg) (off : Src) (s : State) : Out :=
  .next (s.runInOrder (.gather h tok off) h true true fun s _ l =>
    s.issueCopy l tok off 64 true fun b tm o =>
      let d := GatherDesc.ofBytes b
      (d.check tm o, List.range d.count, d.count * d.rowSize, if d.done then some d.ctroff else none))

/-! ## Elements and rows (04 R100 to R108) -/

/-- Who a copy works for. -/
def CopyOp.asker (o : CopyOp) (c : Nat) : Asker := ⟨c, o.vf, o.principal, o.khandle, o.grid, o.pc⟩

/-- The arrival counter of an operation. -/
def CopyOp.counter (o : CopyOp) : Option Nat :=
  if o.isGather then
    let d := GatherDesc.ofBytes o.desc
    if d.done then some d.ctroff else none
  else
    let d := CopyDesc.ofBytes o.desc
    if d.done then some d.ctroff else none

/-- An earlier local access of the issuing thread is not performed yet: the fork waits (03 R86). -/
def State.forkHeld (s : State) (c x seq : Nat) : Bool :=
  s.reqs.any fun r => r.ofCtx c x && r.isLocal && r.open && r.seq < seq

/-- The state with a copy changed. -/
def State.modCopy (s : State) (c id : Nat) (f : CopyOp → CopyOp) : State :=
  s.modCore c fun k => { k with copies := k.copies.map fun o => if o.id = id then f o else o }

/-- A step of an operation is done: its bytes are counted. -/
def State.stepDone (s : State) (c : Nat) (o : CopyOp) (e b : Nat) : State :=
  let s := s.dropUnits c (2 ^ 20 + o.id) fun u => if o.isGather then u / 65536 == e else u == e
  let s := s.modCopy c o.id fun o => { o with left := o.left.filter (· != e), bytesLeft := o.bytesLeft - b }
  match o.counter with
  | some off => s.counterCount c o.team off b
  | none => s

/-- A step that failed: it waits for the driver after a PAGE_FAULT, or ends the operation (04 R108). -/
def State.stepFail (s : State) (c : Nat) (o : CopyOp) (e : Nat) (t : Trap) (waits : Bool) : State :=
  if waits then
    (s.modCopy c o.id fun o => { o with left := o.left.filter (· != e), stuck := e :: o.stuck }).engineRecord
      (o.asker c) t o.off (.element c o.id e)
  else s.modCopy c o.id fun o => { o with err := some t.cause, left := [], stuck := [] }

/-- Bytes written to the scratchpad of an operation's team; a write that a thread waits for is tested with the counter. -/
def State.opWrite (s : State) (c : Nat) (o : CopyOp) (a : Nat) (bs : List Byte) : State :=
  (s.spPut c o.team a bs).testCounters c

/-- Bytes read from the scratchpad of an operation's team; none where poisoned. -/
def State.opRead (s : State) (c : Nat) (o : CopyOp) (a n : Nat) : Option Nat :=
  let tm := s.team c o.team
  if tm.spBad a n then none else some (Mem.readNat tm.sp a n)

/-- The denial record of a page that a copy reads, once per page (02 R70, R73): the first denied address and the bytes of the
operation in the page. -/
def State.copyDenied (s : State) (c : Nat) (o : CopyOp) (d : CopyDesc) (a : Nat) (e : Pte) (home : BitVec 16 × Nat) : State :=
  let n := 65536 * e.frames
  if o.deniedPages.contains (a / n) then s
  else
    let es := ((List.range d.count).filter d.inside).map fun k => (d.gAt k, d.eg)
    let ts := if d.conv = 5 then ((List.range d.count).filter d.inside).map fun k => (d.tagAt k, 2) else []
    let mine := (es ++ ts).filter fun x => x.1 / n == a / n
    let rec_ : Denial :=
      { va := mine.foldl (fun m x => Nat.min m x.1) a, cls := e.cls, principal := o.principal.toNat, source := 2
        length := (mine.map Prod.snd).foldl (· + ·) 0, pc := o.pc, grid := o.grid, khandle := o.khandle
        homePkg := home.1, homeCore := home.2, srcCore := BitVec.ofNat 9 c, srcPkg := s.fabnum }
    (s.appendDenial o.vf.toNat rec_).modCopy c o.id fun o =>
      { o with denied := o.denied + 1, deniedPages := (a / n) :: o.deniedPages }

/-- The package and core at which an engine's access is checked. -/
def State.checkAt (s : State) (v a c : Nat) : BitVec 16 × Nat :=
  match s.homeOf v a c with
  | .ok (_, .core d) => (s.fabnum, d)
  | .ok (_, .far p d) => (BitVec.ofNat 16 p, d)
  | _ => (s.fabnum, c)

/-- A step that reads memory and writes scratchpad; a tag is checked as it is read (04 R101), although 06 R140 says of units that move tags
undecoded that they do not (log 98). -/
def State.copyIn (s : State) (c : Nat) (o : CopyOp) (d : CopyDesc) (e : Nat) : State :=
  let k := e / 2
  let tag := e % 2 = 1
  let a := if tag then d.tagAt k else d.gAt k
  let n := if tag then 2 else d.eg
  let dst := if tag then d.tagsp + 2 * k else d.sAt k
  let put := fun (s : State) (v : Nat) =>
    (s.opWrite c o dst (leBytes (if tag then 2 else d.es) v)).stepDone c o e (d.stepBytes e)
  if !tag && !d.inside k then put s (if d.fill then d.fillv else 0)
  else
    match s.elemAccess (o.asker c) (2 ^ 20 + o.id) e a n .load 0 with
    | (s, .wait) => s
    | (s, .fault t) => s.stepFail c o e t true
    | (s, .fail t) => s.stepFail c o e t false
    | (s, .denied p) => put (s.copyDenied c o d a p (s.checkAt o.vf.toNat a c)) 0
    | (s, .ok v) =>
      if tag then if tagFmt v ≥ 4 then s.stepFail c o e (trapOf .cvtTag) false else put s v
      else put s (d.convert v)

/-- A step that reads scratchpad and writes memory, with the same check of a tag. -/
def State.copyOut (s : State) (c : Nat) (o : CopyOp) (d : CopyDesc) (e : Nat) : State :=
  let k := e / 2
  let tag := e % 2 = 1
  let a := if tag then d.tagAt k else d.gAt k
  match s.opRead c o (if tag then d.tagsp + 2 * k else d.sAt k) (if tag then 2 else d.es) with
  | none => s.stepFail c o e (trapOf .poison) false
  | some v =>
    if tag && tagFmt v ≥ 4 then s.stepFail c o e (trapOf .cvtTag) false
    else
      let s := match s.homeOf o.vf.toNat a c with
        | .ok (_, h) => s.flushAdd c o.ctx h
        | .error _ => s
      match s.elemAccess (o.asker c) (2 ^ 20 + o.id) e a (if tag then 2 else d.eg) .store
          (if tag then v else d.convert v) with
      | (s, .wait) => s
      | (s, .fault t) => s.stepFail c o e t true
      | (s, .fail t) => s.stepFail c o e t false
      | (s, .denied _) => s
      | (s, .ok _) => s.stepDone c o e (d.stepBytes e)

/-- COPY_ELEMENT (04 R100, R101). -/
def execCopyElement (core op elem : Nat) (s : State) : Out :=
  .next (match (s.core core).copies.find? fun o => o.id == op && !o.isGather && o.left.contains elem with
    | none => s
    | some o =>
      if s.forkHeld core o.ctx o.seq then s
      else
        let d := CopyDesc.ofBytes o.desc
        if d.dir = 0 then s.copyIn core o d elem else s.copyOut core o d elem)

/-- The units of a row, read in order: the state, the first failure, the first denied address, the values. -/
def State.rowUnits (q : Asker) (tag row a : Nat) : Nat → State → List Nat →
    Option (Nat × Pte) → State × Option (Trap × Bool) × Bool × Option (Nat × Pte) × List Nat
  | 0, s, vs, dn => (s, none, false, dn, vs)
  | n + 1, s, vs, dn =>
    let u := vs.length
    match s.elemAccess q tag (row * 65536 + u) (a + 16 * u) 16 .load 0 with
    | (s, .wait) => (s, none, true, dn, vs)
    | (s, .fault t) => (s, some (t, true), false, dn, vs)
    | (s, .fail t) => (s, some (t, false), false, dn, vs)
    | (s, .denied e) => State.rowUnits q tag row a n s (vs ++ [0]) (dn.or (some (a + 16 * u, e)))
    | (s, .ok v) => State.rowUnits q tag row a n s (vs ++ [v]) dn

/-- The list entry of a row (04 R107): read once, however often the row's reads at another package are tried. -/
def State.rowIndex (s : State) (c : Nat) (o : CopyOp) (d : GatherDesc) (n : Nat) : Option Nat :=
  match o.index.find? fun e => e.1 == n with
  | some e => some e.2
  | none => s.opRead c o (d.idxoff + 4 * n) 4

/-- One row of a gather is written (04 R107). -/
def State.gatherOne (s : State) (c : Nat) (o : CopyOp) (d : GatherDesc) (n : Nat) : State :=
  let put := fun (s : State) (bs : List Byte) =>
    (s.opWrite c o (d.dst + n * d.dstStride) bs).stepDone c o n d.rowSize
  match s.rowIndex c o d n with
  | none => s.stepFail c o n (trapOf .poison) false
  | some x =>
    let s := s.modCopy c o.id fun o => { o with index := if o.index.any fun e => e.1 == n then o.index else (n, x) :: o.index }
    if x ≥ d.rows then
      match s.opRead c o d.defoff d.rowSize with
      | none => s.stepFail c o n (trapOf .poison) false
      | some v => put s (leBytes d.rowSize v)
    else
      match State.rowUnits (o.asker c) (2 ^ 20 + o.id) n (d.table + x * d.stride) (d.rowSize / 16) s [] none with
      | (s, some (t, waits), _) => s.stepFail c o n t waits
      | (s, none, true, _) => s
      | (s, none, false, some (a, e), _) =>
        let rec_ : Denial :=
          { va := a, cls := e.cls, principal := o.principal.toNat, source := 3, length := d.rowSize, pc := o.pc
            grid := o.grid, khandle := o.khandle, homePkg := (s.checkAt o.vf.toNat a c).1
            homeCore := (s.checkAt o.vf.toNat a c).2
            srcCore := BitVec.ofNat 9 c, srcPkg := s.fabnum }
        put ((s.appendDenial o.vf.toNat rec_).modCopy c o.id fun o => { o with denied := o.denied + 1 })
          (List.replicate d.rowSize 0)
      | (s, none, false, none, vs) => put s (vs.flatMap fun v => leBytes 16 v)

/-- GATHER_ROW (04 R107). -/
def execGatherRow (core op row : Nat) (s : State) : Out :=
  .next (match (s.core core).copies.find? fun o => o.id == op && o.isGather && o.left.contains row with
    | none => s
    | some o =>
      if s.forkHeld core o.ctx o.seq then s
      else s.gatherOne core o (GatherDesc.ofBytes o.desc) row)

/-- A parked unit of which the lane of a context is a performed one, its instruction that of an issue. -/
def FUnit.owes (u : FUnit) (c x issue : Nat) : Bool :=
  u.core == c && u.issue == some issue && u.threads.any fun e => e.2 == x && u.performed.getLsbD e.1

/-- The token of an operation that ended, where a thread still owns it (04 R103); while its lane's unit is parked, it waits in the replay
buffer (12 R281). -/
def State.writeToken (s : State) (c x issue : Nat) (tok : Option Nat) (cause denied : Nat) (off : Word) : State :=
  match tok with
  | none => s
  | some r =>
    let w : RegWord := ⟨tokenWord cause denied, .full, false, if cause = 0 then none else some off⟩
    if s.units.any fun u => u.owes c x issue then
      { s with units := s.units.map fun u => if u.owes c x issue then { u with tokens := u.tokens ++ [(x, .g r, w)] } else u }
    else s.setWord c x (.g r) w

/-- Requests of an engine operation that ended are forgotten. -/
def State.dropAsks (s : State) (c tag : Nat) : State := s.dropUnits c tag fun _ => true

/-- A write of an engine operation is on its way to another package, or to a firewall. -/
def State.writesOut (s : State) (c tag : Nat) : Bool :=
  s.reqs.any fun r => r.ctx == engineCtx && r.core == c && r.key == tag && AccKind.writes r.kind && r.stat == .sent

/-- COPY_COMPLETE (04 R103 to R105): the token, or the error of the counter, once every write that was sent is performed. -/
def execCopyComplete (core op : Nat) (s : State) : Out :=
  .next (match (s.core core).copies.find? fun o => o.id == op && o.left.isEmpty && o.stuck.isEmpty && !s.writesOut core (2 ^ 20 + op) with
    | none => s
    | some o =>
      let cause := (o.err.map Cause.code).getD 0
      let s := s.modCore core fun k => { k with copies := k.copies.filter fun p => p.id != op }
      let s := s.dropAsks core (2 ^ 20 + op)
      match o.counter with
      | some off => if cause = 0 then s else s.counterError core o.team off o.bytesLeft cause
      | none => s.writeToken core o.ctx o.issue o.tok cause o.denied o.off)

/-! ## Spill and fill (04 R109, 12 R290) -/

/-- The tile units' place of a lane: W and L; a free thread uses 1 and 0. -/
def State.spillGeo (s : State) (l : Lane) : Nat × Nat := (s.widthOf l, if l.t.group.isSome then l.lane else 0)

/-- The checks of 12 R290, in the order of its table. -/
def State.spillCheck (s : State) (l : Lane) (isFill sp : Bool) (tok tile n a : Nat) : Option Trap :=
  let tm := s.team l.core (s.teamOf l)
  if n = 0 || n > 8 || tile + n > 8 then some illegalNow
  else if 8 * tile ≤ tok && tok < 8 * (tile + n) then some illegalNow
  else if 8 * (tile + n) > s.budget l.core l.t then some (trapOf .regRange)
  else if a % 32 ≠ 0 then some (trapAt .align 0 a)
  else if sp then
    if tm.inGrant a (n * s.widthOf l * 32) then none else some (trapAt .prot 1 a)
  else
    match s.addrCheck l a 0 with
    | .error t => some t
    | .ok (g, _) =>
      if isFill then none
      else if g.win then some (trapAt .prot 2 a)
      else if g.replicated then some (trapAt .replicaStore 0 a)
      else none

/-- The address operand of a spill: a pair for the global form, one word for the scratchpad form. -/
def State.spillAddr (s : State) (l : Lane) (sp : Bool) (b : Src) : Nat :=
  if sp then countOf (s.srcVal l b) else (s.srcVal l b).toNat

/-- A new spill or fill of a lane. -/
def State.newSpill (s : State) (l : Lane) (isFill sp : Bool) (tok tile n a : Nat) : SpillOp :=
  let g := s.spillGeo l
  { id := s.nextUnit, isFill := isFill, toSp := sp, ctx := l.ctx, gset := l.t.group.map Prod.fst, lane := g.2
    width := g.1, issue := l.num, seq := l.t.seq, vf := l.t.vf, principal := l.t.principal
    khandle := l.t.khandle, grid := l.t.grid, pc := l.t.pc, tile := tile, n := n, addr := BitVec.ofNat 64 a
    words := if isFill then [] else (List.range (8 * n)).map fun i => s.word l.core l.t (.g (8 * tile + i))
    tok := some tok, left := List.range n, stuck := [], halves := [], lost := [], err := none, denied := 0 }

/-- The shape of `spill` and `fill`. A spill reads its tiles: an error token there traps (04 R103), poison moves along (20 R433). -/
def State.issueSpill (s : State) (l : Lane) (isFill sp : Bool) (tok : GReg) (tile : Tile) (b n : Src) : LaneOut :=
  match s.readCheck l ((hinted l (if isFill then 0 else 1) [b, n])) with
  | some o => o
  | none =>
    if s.acqHeld l then .wait .acquire
    else
      let cnt := countOf (s.srcVal l n)
      let a := s.spillAddr l sp b
      match s.spillCheck l isFill sp tok.toNat tile.toNat cnt a with
      | some t => .trap t
      | none =>
        let regs := gRefs (8 * tile.toNat) (8 * cnt)
        let empty := regs.filter fun r => s.isEmpty l.core l.t r
        match s.destCheck l (.g tok.toNat :: if isFill then regs else []) with
        | some w => w
        | none =>
          let tokens := regs.filterMap fun r => ({ s.word l.core l.t r with poison := false } : RegWord).readTrap
          if !empty.isEmpty then
            if !isFill && l.hint 77 then .trap (trapOf .emptyRead) else .wait (.words empty)
          else if !isFill && !tokens.isEmpty then .trap (tokens.headD default)
          else if (s.core l.core).spills.length ≥ 32 then .wait .retry
          else
            let op := s.newSpill l isFill sp tok.toNat tile.toNat cnt a
            .act fun s =>
              let s := s.modCore l.core fun k => { k with spills := k.spills ++ [op] }
              let s := { s with nextUnit := s.nextUnit + 1 }
              let s := (.g tok.toNat :: if isFill then regs else []).foldl
                (fun s r => s.emptyWord l.core l.ctx r) s
              (s.modThread l.core l.ctx fun t => { t with seq := t.seq + 1 }).goesOn l.core l.ctx l.nextPc l.yields

/-- `spill` (12 R290). -/
def execSpill (h : Hdr) (sp : Bool) (tok : GReg) (a : Tile) (b n : Src) (s : State) : Out :=
  .next (s.runInOrder (.spill h sp tok a b n) h true true fun s _ l => s.issueSpill l false sp tok a b n)

/-- `fill` (12 R290). -/
def execFill (h : Hdr) (sp : Bool) (tok : GReg) (a : Tile) (b n : Src) (s : State) : Out :=
  .next (s.runInOrder (.fill h sp tok a b n) h true true fun s _ l => s.issueSpill l true sp tok a b n)

/-- Who a spill works for. -/
def SpillOp.asker (o : SpillOp) (c : Nat) : Asker := ⟨c, o.vf, o.principal, o.khandle, o.grid, o.pc⟩

/-- The place of a lane's part of a unit (04 R109). -/
def SpillOp.partAt (o : SpillOp) (u : Nat) : Nat := o.addr.toNat + u * o.width * 32 + o.lane * 32

/-- The state with a spill changed. -/
def State.modSpill (s : State) (c id : Nat) (f : SpillOp → SpillOp) : State :=
  s.modCore c fun k => { k with spills := k.spills.map fun o => if o.id = id then f o else o }

/-- A part of a spill is moved. -/
def State.partDone (s : State) (c : Nat) (o : SpillOp) (u : Nat) : State :=
  (s.dropUnits c (2 ^ 20 + o.id) fun n => n / 2 == u).modSpill c o.id fun o =>
    { o with left := o.left.filter (· != u), halves := o.halves.filter fun e => e.1 != u }

/-- An operation ends by an error; what it has not moved stays unmoved. -/
def SpillOp.fail (o : SpillOp) (c : Cause) : SpillOp :=
  { o with err := some c, lost := o.left ++ o.stuck, left := [], stuck := [] }

/-- The eight words of a fill's part are written. -/
def State.fillPart (s : State) (c : Nat) (o : SpillOp) (u v : Nat) (bad : Bool) : State :=
  (List.range 8).foldl (fun s i =>
    s.setWord c o.ctx (.g (8 * (o.tile + u) + i)) ⟨BitVec.ofNat 32 (v / 2 ^ (32 * i)), .full, bad, none⟩) s

/-- The value of a spill's part, and whether a word of it is poisoned. -/
def SpillOp.partVal (o : SpillOp) (u : Nat) : Nat × Bool :=
  let ws := (o.words.drop (8 * u)).take 8
  (wordsNat (ws.map RegWord.val), ws.any RegWord.poison)

/-- A part of a scratchpad form: poison moves with the words (20 R433). -/
def State.movePartSp (s : State) (c : Nat) (o : SpillOp) (team u : Nat) : State :=
  let a := o.partAt u
  let s :=
    if o.isFill then
      let tm := s.team c team
      s.fillPart c o u (Mem.readNat tm.sp a 32) (tm.spBad a 32)
    else
      let v := o.partVal u
      ((s.spPut c team a (leBytes 32 v.1)).modTeam c team fun t =>
        if v.2 then { t with spPoison := a / 16 :: (a / 16 + 1) :: t.spPoison } else t).testCounters c
  s.partDone c o u

/-- The denial record of a fill's part (12 R290). -/
def State.fillDenied (s : State) (c : Nat) (o : SpillOp) (a : Nat) (e : Pte) : State :=
  let rec_ : Denial :=
    { va := a, cls := e.cls, principal := o.principal.toNat, source := 2, length := 32, pc := o.pc, grid := o.grid
      khandle := o.khandle, homePkg := (s.checkAt o.vf.toNat a c).1, homeCore := (s.checkAt o.vf.toNat a c).2, srcCore := BitVec.ofNat 9 c
      srcPkg := s.fabnum }
  (s.appendDenial o.vf.toNat rec_).modSpill c o.id fun o => { o with denied := o.denied + 1 }

/-- A part of a global form: two 16-byte accesses at its home. -/
def State.movePart (s : State) (c : Nat) (o : SpillOp) (u : Nat) : State :=
  let a := o.partAt u
  let v := o.partVal u
  let tag := 2 ^ 20 + o.id
  let fail := fun (s : State) (t : Trap) (waits : Bool) =>
    if waits then
      (s.modSpill c o.id fun o => { o with left := o.left.filter (· != u), stuck := u :: o.stuck }).engineRecord
        (o.asker c) t 0 (.element c o.id u)
    else s.modSpill c o.id fun o => o.fail t.cause
  let k : AccKind := if o.isFill then .load else .store
  let s := match s.homeOf o.vf.toNat a c with
    | .ok (_, h) => if o.isFill then s else s.flushAdd c o.ctx h
    | .error _ => s
  let first := match o.halves.find? fun e => e.1 == u with
    | some e => (s, ElemOut.ok e.2)
    | none => s.elemAccess (o.asker c) tag (2 * u) a 16 k (v.1 % 2 ^ 128)
  match first with
  | (s, .wait) => s
  | (s, .fault t) => fail s t true
  | (s, .fail t) => fail s t false
  | (s, .denied e) => ((s.fillDenied c o a e).fillPart c o u 0 false).partDone c o u
  | (s, .ok x) =>
    let s := s.modSpill c o.id fun o =>
      { o with halves := if o.halves.any fun e => e.1 == u then o.halves else (u, x) :: o.halves }
    match s.elemAccess (o.asker c) tag (2 * u + 1) (a + 16) 16 k (v.1 / 2 ^ 128) with
    | (s, .wait) => s
    | (s, .fault t) => fail s t true
    | (s, .fail t) => fail s t false
    | (s, .denied e) => ((s.fillDenied c o a e).fillPart c o u 0 false).partDone c o u
    | (s, .ok y) =>
      let s := if o.isFill then s.fillPart c o u (x + 2 ^ 128 * y) false
        else if v.2 then
          match s.homeOf o.vf.toNat a c with
          | .ok (g, .core d) =>
            match s.translate o.vf.toNat a d g with
            | .ok e => { s with poison := sectorOf (physAddr d (e.offset a)) :: s.poison }
            | .error _ => s
          | _ => s
        else s
      s.partDone c o u

/-- SPILL_COMPLETE (04 R109): the parts not yet moved are moved; when none is left the token is written, and the words of a
fill that an error left unwritten are zero. -/
def execSpillComplete (core op : Nat) (s : State) : Out :=
  .next (match (s.core core).spills.find? fun o => o.id == op with
    | none => s
    | some o =>
      if s.forkHeld core o.ctx o.seq then s
      else
        let team := (o.gset.map fun g => (s.group core g).team).getD 0
        let s := o.left.foldl (fun s u =>
          match (s.core core).spills.find? fun o => o.id == op with
          | none => s
          | some o => if o.err.isSome then s else if o.toSp then s.movePartSp core o team u else s.movePart core o u) s
        match (s.core core).spills.find? fun o => o.id == op && o.left.isEmpty && o.stuck.isEmpty && !s.writesOut core (2 ^ 20 + op) with
        | none => s
        | some o =>
          let cause := (o.err.map Cause.code).getD 0
          let s := s.modCore core fun k => { k with spills := k.spills.filter fun p => p.id != op }
          let s := s.dropAsks core (2 ^ 20 + op)
          let s := if o.isFill && cause ≠ 0 then
              (o.lost.flatMap fun u => gRefs (8 * (o.tile + u)) 8).foldl (fun s r =>
                if s.isEmpty core (s.thread core o.ctx) r then s.writeWord core o.ctx r 0 else s) s
            else s
          s.writeToken core o.ctx o.issue o.tok cause o.denied 0)

end Sys2Proof.Machine
end

