-- ==== Sys2Proof/Machine/Chain.lean ====
section
/-! DEFINITION. Launch chains (18 R378 to R387): chain records, the append of the doorbell and of `launch` (10 R244), launch
blocks and their checks (13 R314 to R317), the start and the completion of blocks and grids (18 R382, R384). -/

namespace Sys2Proof.Machine

/-! ## Chain records (18 R379, R386) -/

/-- The address of a chain's record. -/
def State.chainAt (s : State) (v k : Nat) : Nat := (s.vf v).chainBase.toNat + 64 * k

/-- A field of a chain record. -/
def State.chainGet (s : State) (v k off : Nat) : Except Trap Nat := s.devRead v (s.chainAt v k + off) 8

/-- Fields of a chain record written. -/
def State.chainPut (s : State) (v k : Nat) (ws : List (Nat × Nat)) : Except Trap State :=
  (s.devAt v (s.chainAt v k) true).map fun p => ws.foldl (fun s w => s.putAt v w.1 (leBytes 8 w.2) p) s

/-- The state with a chain changed. -/
def State.modChain (s : State) (v k : Nat) (f : Chain → Chain) : State :=
  s.modVf v fun d => { d with chains := Tbl.set d.chains k (f (Tbl.get default d.chains k)) }

/-- A failed chain access leaves a record of ORIGIN 6, with every thread field zero (18 R386). -/
def State.chainRecord (s : State) (v k : Nat) (t : Trap) : State :=
  let r : Rec :=
    { time := s.clk, cause := t.cause.code, kind := t.kind, origin := 6, addr := t.addr, info := BitVec.ofNat 32 k }
  s.postRecord v none none r.bytes

/-- The chain has stopped: only a VF reset restarts it (18 R386). -/
def State.stopChain (s : State) (v k : Nat) : State := s.modChain v k fun x => { x with stopped := true }

/-- CHAINERR takes the first cause, where the record can be written; a chain whose CHAINERR is not 0 has stopped (18 R386). -/
def State.chainErr (s : State) (v k : Nat) (c : Cause) : State :=
  match s.devAt v (s.chainAt v k) true with
  | .error _ => s
  | .ok p =>
    (if s.natAt 0x38 8 p / 2 ^ 48 = 0 then s.putAt v 0x38 (leBytes 8 (c.code * 2 ^ 48)) p else s).stopChain v k

/-- An access of the scheduler to the record or to X.NEXT failed: its record, CHAINERR, and the chain stops. -/
def State.chainFail (s : State) (v k : Nat) (t : Trap) : State := ((s.chainRecord v k t).chainErr v k t.cause).stopChain v k

/-- The scheduler looks at CHAINERR: a chain that it finds in error stays stopped, whatever is stored there later (18 R386). -/
def State.chainSeen (s : State) (v k : Nat) : State :=
  match s.chainGet v k 0x38 with
  | .ok e => if e / 2 ^ 48 = 0 then s else s.stopChain v k
  | .error _ => s

/-! ## Append (18 R380) -/

/-- Where a chain record lies for an append: in the VF's home package (01 R23), whichever package runs the thread. -/
def State.recordAt (s : State) (v k pkg : Nat) : Except Trap DevAt :=
  if pkg = s.fabnum.toNat then s.devAt v (s.chainAt v k) true else s.devThere pkg 0 (s.chainAt v k)

/-- Step 2 of an append at the record: APPENDED, TAIL, and HEAD where no block was linked. -/
def State.linkBlock (s : State) (v k b : Nat) : DevAt → State
  | .here p =>
    let s' := (s.devPut (p + 0x10) (leBytes 8 (s.stillNat (p + 0x10) 8 + 1))).devPut (p + 8) (leBytes 8 b)
    if s.stillNat p 8 % 2 ^ 56 = 0 then s'.devPut p (leBytes 8 b) else s'
  | .far pkg core _ => s.devSend v pkg core (.append k (BitVec.ofNat 64 b))

/-- Append block b to a chain of a VF whose home package is given: the sequence number, or the trap that discarded the append. -/
def State.appendBlock (s : State) (v k b pkg : Nat) : State × Except Trap Nat :=
  match s.devWrite v b (leBytes 8 0) with
  | .error t => (s.chainRecord v k t, .error t)
  | .ok s1 =>
    match s1.recordAt v k pkg with
    | .error t => ((s1.chainRecord v k t).chainErr v k t.cause, .error t)
    | .ok place =>
      let n := (s1.natAt 0x10 8 place + 1) % 2 ^ 64
      let s2 := s1.linkBlock v k b place
      if s1.natAt 0 8 place % 2 ^ 56 = 0 then (s2, .ok n)
      else
        match s2.devWrite v (s1.natAt 8 8 place % 2 ^ 56) (leBytes 8 b) with
        | .ok s3 => (s3, .ok n)
        | .error t => ((s2.chainRecord v k t).chainErr v k t.cause, .ok n)

/-- A store of an append waits: the page of the block, of the chain's record or of its tail is being re-keyed (19 R410). -/
def State.appendWaits (s : State) (v k b : Nat) : Bool :=
  s.devWaits v b || s.devWaits v (s.chainAt v k) ||
    match s.chainGet v k 8 with
    | .ok tail => s.devWaits v (tail % 2 ^ 56)
    | .error _ => false

/-- A doorbell of a chain that is held: later ones of the chain wait behind it. -/
def heldDoorbell (vf chain : Nat) : Instr → Bool
  | .doorbellAppend v k _ => v == vf && k == chain
  | _ => false

/-- A host access that must wait arrives again in the next cycle, before all that comes then, in the order held (20 R434). -/
def State.later (s : State) (i : Instr) : State := { s with waitIn := s.waitIn ++ [i] }

/-- DOORBELL_APPEND (18 R380, R385): an address that is 0, misaligned or too wide is discarded, and so is a write during a
reset; before the package runs no control page is presented (21 R445). -/
def execDoorbellAppend (vf chain : Nat) (v : DWord) (s : State) : Out :=
  .next (
    let b := v.toNat
    if s.power.stage != .running || b = 0 || b % 256 ≠ 0 || b ≥ 2 ^ 56 || (s.vf vf).rst || vf ≥ 1024 || chain ≥ 4 then s
    else if s.appendWaits vf chain b || s.waitIn.any (heldDoorbell vf chain) then s.later (.doorbellAppend vf chain v)
    else (s.appendBlock vf chain b s.fabnum.toNat).1)

/-- The field of a chain record that a register of its block of the control page mirrors (18 R378). -/
def mirrorOf (off : Nat) : Option Nat :=
  match off with
  | 0x08 => some 0x10
  | 0x10 => some 0x20
  | 0x18 => some 0x28
  | 0x20 => some 0x30
  | 0x28 => some 0x38
  | _ => none

/-- What a host read of a VF's control page returns (18 R378). -/
def State.pageRead (s : State) (vf off : Nat) : DWord :=
  if off = 0 then BitVec.ofNat 64 vf
  else if off = 8 then (s.vf vf).chainBase
  else if off = 0x10 then (s.vf vf).irqLost
  else if off < 0x100 ∨ 0x200 ≤ off then 0
  else
    match mirrorOf (off % 0x40) with
    | none => 0
    | some f =>
      match s.chainGet vf ((off - 0x100) / 0x40) f with
      | .ok n => BitVec.ofNat 64 n
      | .error _ => BitVec.allOnes 64

/-- UNSUPPORTED_REQUEST (18 R378): a control-page access that is no aligned 8-byte one of its 4 KiB changes nothing; an aligned read returns
the register, an aligned write of a read-only or reserved offset is discarded. Before the package runs no page is presented (21 R445). -/
def execUnsupportedRequest (vf off size : Nat) (write : Bool) (s : State) : Out :=
  .next (
    if s.power.stage != .running || 1024 ≤ vf then s
    else if ¬ (size = 8 ∧ off % 8 = 0 ∧ off < 4096) then { s with hostOut := s.hostOut ++ [.unsupported vf off] }
    else if write then s
    else { s with hostOut := s.hostOut ++ [.pageData vf off (s.pageRead vf off)] })

/-- The checks of `launch` at the issuing core (10 R244). -/
def State.launchCheck (s : State) (l : Lane) (a : Nat) : Option Trap :=
  match s.addrCheck l a 256 with
  | .error t => some t
  | .ok (g, _) => if g.win || g.replicated || g.isHost then some (trapAt .prot 5 a) else none

/-- A lane that appended goes on with its sequence number: a free thread at once, a bound lane when its instruction's lanes all have, so
that no lane's D is a later one's operand (10 R244, R248). -/
def State.launchEnd (s : State) (l : Lane) (ws : List (WRef × Word)) : State :=
  if l.t.group.isNone then s.complete l ws none
  else (s.modThread l.core l.ctx fun t => { t with rets := ws }).complete l [] none

/-- One lane's append (10 R244): the record's trap is the lane's (18 R386). -/
def State.launchLane (s : State) (l : Lane) (d : Reg) (a k : Nat) : LaneOut :=
  match s.appendBlock l.t.vf.toNat k a l.t.vfPkg.toNat with
  | (s', .ok n) => .act fun _ => s'.launchEnd l (destWrites d (BitVec.ofNat 64 n))
  | (_, .error t) => .trap t

/-- What a failed append leaves behind, beside its lane's trap (18 R386). -/
def State.launchFailure (s : State) (l : Lane) (a k : Nat) : State :=
  match s.appendBlock l.t.vf.toNat k a l.t.vfPkg.toNat with
  | (s', .error _) => s'
  | (_, .ok _) => s

/-- The outcome of a lane of `launch` before its append: sources, destination, checks, the fork (10 R245). -/
def State.launchReady (s : State) (l : Lane) (d : Reg) (a b : Src) : Option LaneOut :=
  match s.readCheck l (hinted l 0 [a, b]) with
  | some o => some o
  | none =>
    match s.destCheck l (Reg.refs d) with
    | some o => some o
    | none =>
      match s.launchCheck l (s.srcVal l a).toNat with
      | some t => some (.trap t)
      | none =>
        if s.acqHeld l then some (.wait .acquire)
        else if s.localOpen l.core l.ctx then some (.wait .retry)
        else if s.appendWaits l.t.vf.toNat (countOf (s.srcVal l b) % 4) (s.srcVal l a).toNat then some (.wait .retry)
        else none

/-- What each lane of `launch` checks before one appends: its sources and its address (10 R244, R247). -/
def State.launchTrap (s : State) (l : Lane) (d : Reg) (a b : Src) : Option Trap :=
  (s.launchReady l d a b).bind LaneOut.trapOf

/-- One lane of `launch`. -/
def State.launchStep (s : State) (l : Lane) (d : Reg) (a b : Src) : LaneOut :=
  (s.launchReady l d a b).getD (s.launchLane l d (s.srcVal l a).toNat (countOf (s.srcVal l b) % 4))

/-- Beside the lane's own record, a failed append leaves one of ORIGIN 6 (18 R386). -/
def State.launchAfter (s : State) (l : Lane) (d : Reg) (a b : Src) : State :=
  if (s.launchReady l d a b).isSome then s
  else s.launchFailure l (s.srcVal l a).toNat (countOf (s.srcVal l b) % 4)

/-- `launch` (10 R244). -/
def execLaunch (h : Hdr) (d : Reg) (a b : Src) (s : State) : Out :=
  .next (s.runUnits (.launch h d a b) h
    (State.runFork true true (fun s _ l => s.launchStep l d a b) (fun s l => s.launchTrap l d a b)
      fun s l => s.launchAfter l d a b))

/-! ## Roles (13 R306, 07 R167) -/

/-- A role entry: entry parcel, budget, groups. -/
def Role.ofNat (e : Nat) : Role := ⟨BitVec.ofNat 32 (bits e 0 32), bits e 32 8, bits e 40 8⟩

/-- A role entry that is in use keeps its limits for a code of n parcels. -/
def roleOk (codeLen e : Nat) : Bool :=
  bits e 48 16 == 0 && 1 ≤ bits e 40 8 && bits e 40 8 ≤ 16 && 8 ≤ bits e 32 8 && bits e 32 8 ≤ 64 &&
    bits e 32 8 % 8 == 0 && bits e 0 32 < codeLen

/-- The bounds of 07 R167 for a width. -/
def groupsOk (w : Nat) (rs : List Role) : Bool :=
  let n := (rs.map Role.groups).foldl (· + ·) 0
  n ≤ 16 && w * n ≤ 1024

/-- The role entries of a table of 32 bytes, where they keep R306. -/
def rolesOf (codeLen n : Nat) (es : List Nat) : Option (List Role) :=
  if (es.take n).all (roleOk codeLen) && (es.drop n).all (· == 0) then some ((es.take n).map Role.ofNat) else none

/-! ## Launch blocks (13 R314) -/

/-- The fields of a launch block. -/
structure LBlock where
  khandle : Nat
  wcode : Nat
  order : Nat
  swz : Nat
  affinity : Bool
  pmode : Nat
  irq : Bool
  nwait : Nat
  irqvec : Nat
  gx : Nat
  gy : Nat
  gz : Nat
  param : Nat
  ftcap : Nat
  pdefault : Nat
  parray : Nat
  afftab : Nat
  roletab : Nat
  waits : List (Nat × Nat)
  reservedOk : Bool
  deriving DecidableEq, Repr

/-- A launch block read from its 256 bytes. -/
def LBlock.ofBytes (b : List Byte) : LBlock :=
  let w := fieldAt b 8 8
  let up := fun (off : Nat) => bits (fieldAt b off 8) 56 8 == 0
  { khandle := bits w 48 16, wcode := bits w 46 2, order := bits w 44 2, swz := bits w 40 4, affinity := w.testBit 39
    pmode := bits w 37 2, irq := w.testBit 36, nwait := bits w 32 4, irqvec := bits w 16 16
    gx := fieldAt b 0x10 4, gy := fieldAt b 0x14 4, gz := fieldAt b 0x18 4
    param := bits (fieldAt b 0x20 8) 0 56, ftcap := fieldAt b 0x28 4, pdefault := bits (fieldAt b 0x2C 4) 0 12
    parray := bits (fieldAt b 0x30 8) 0 56, afftab := bits (fieldAt b 0x38 8) 0 56
    roletab := bits (fieldAt b 0x40 8) 0 56
    waits := (List.range 4).map fun i => (bits (fieldAt b (0x50 + 16 * i) 8) 0 56, fieldAt b (0x58 + 16 * i) 8)
    reservedOk := up 0 && bits w 0 16 == 0 && fieldAt b 0x1C 4 == 0 && up 0x20 &&
      bits (fieldAt b 0x2C 4) 12 20 == 0 && up 0x30 && up 0x38 && up 0x40 && fieldAt b 0x48 8 == 0 &&
      fieldAt b 0x9C 100 == 0 }

/-- The group width of a WCODE. -/
def widthOfCode (c : Nat) : Nat := 8 * 2 ^ c

/-- The sum of the group counts of a list of roles. -/
def groupCount (rs : List Role) : Nat := (rs.map Role.groups).foldl (· + ·) 0

/-- Bytes of a VF's memory read piece by piece for the device. -/
def State.devList (s : State) (v a size n : Nat) : Except Trap (List Nat) :=
  (List.range n).foldl (fun acc i =>
    match acc with
    | .error t => .error t
    | .ok l => (s.devRead v (a + size * i) size).map fun x => l ++ [x]) (.ok [])

/-- The 256 bytes of a block. -/
def State.blockBytes (s : State) (v x : Nat) : Except Trap (List Byte) :=
  (s.devAt v x false).map (s.bytesAt 256)

/-- The waits of a block hold, or not yet, or a wait word cannot be read (13 R315). All are read at once and must hold together: 13 R315 does
not say whether a wait that was seen to hold is done with (log 100: DESIGN CHOICE). -/
def State.waitsHold (s : State) (v : Nat) (ws : List (Nat × Nat)) : Except Trap Bool :=
  ws.foldl (fun acc w =>
    match acc with
    | .error t => .error t
    | .ok b => (s.devRead v w.1 8).map fun x => b && w.2 ≤ x) (.ok true)

/-- The number of entries of a principal array (13 R314). -/
def LBlock.principals (b : LBlock) (g : Nat) : Nat :=
  let n := b.gx * b.gy * b.gz
  match b.pmode with
  | 0 => 0
  | 1 => n / g
  | 2 => n
  | _ => n * widthOfCode b.wcode

/-! ## Resources of a team (01 R15, R16) -/

/-- What a team needs of a core. -/
structure Need where
  width : Nat
  groups : Nat
  rows : Nat
  sp : Nat
  acc : Nat
  deriving DecidableEq, Repr

/-- Pool rows (01 R15). -/
def poolRowsOf (w reserve : Nat) (rs : List Role) : Nat :=
  ((rs.map fun r => r.groups * w * r.budget * 4).foldl (· + ·) 0 + reserve + 2047) / 2048

/-- The resources of a kernel's team. -/
def Kernel.needs (k : Kernel) (w : Nat) (rs : List Role) : Need :=
  ⟨w, groupCount rs, poolRowsOf w k.reserve rs, k.scratch, k.acc⟩

/-- A core could grant the team all it needs (13 R317, STATUS 5). -/
def State.couldGrant (s : State) (c : Nat) (n : Need) : Bool :=
  n.width * n.groups ≤ 4096 - 64 && n.rows ≤ 352 - 2 && n.acc ≤ 32 &&
    n.sp ≤ 16 * ((s.partOf c).map fun p => (s.part p).s).getD 0

/-- The cores of this package where a VF may run. -/
def State.runCores (s : State) (v : Nat) : List Nat := (List.range 512).filter fun c => s.mayRun v (s.partOf c)

/-- The core of an affinity address (13 R317, STATUS 7). -/
def State.affinityCore (s : State) (v a : Nat) : Option Nat :=
  match s.homeOf v a 0 with
  | .error _ => none
  | .ok (g, h) =>
    if g.win || g.replicated || g.isHost then none
    else
      match h with
      | .core c => if s.mayRun v (s.partOf c) then some c else none
      | _ => none

/-! ## The checks of a block (13 R316, R317) -/

/-- What the scheduler found in a block: a reason of 13 R317, a read of it that failed, or the grid to start with its
roles, principals and affinity addresses. -/
inductive Checked where
  | bad (status : Nat)
  | fails (t : Trap)
  | good (rs : List Role) (princs affs : List Nat)
  deriving DecidableEq, Repr

/-- The roles that govern a grid: those of ROLETAB, else the image's. -/
def State.blockRoles (s : State) (v : Nat) (k : Kernel) (b : LBlock) : Except Checked (List Role) :=
  if b.roletab = 0 then .ok k.roles
  else
    match s.devList v b.roletab 8 4 with
    | .error t => .error (.fails t)
    | .ok es =>
      match rolesOf k.code.length k.roles.length es with
      | none => .error (.bad 6)
      | some rs => if groupsOk (widthOfCode b.wcode) rs then .ok rs else .error (.bad 6)

/-- Check 5 (13 R317). -/
def State.roomExists (s : State) (v : Nat) (b : LBlock) (n : Need) (affs : List Nat) : Bool :=
  if b.affinity then
    affs.all fun a => match s.affinityCore v (a % 2 ^ 56) with
      | none => true
      | some c => s.couldGrant c n
  else (s.runCores v).any fun c => s.couldGrant c n

/-- The checks of 13 R317 in their order. -/
def State.checkBlock (s : State) (v : Nat) (b : LBlock) : Checked :=
  let k := s.kernel v b.khandle
  if !k.live then .bad 1
  else if !k.widths.getLsbD b.wcode then .bad 2
  else
    match s.blockRoles v k b with
    | .error c => c
    | .ok rs =>
      let g := groupCount rs
      let n := b.gx * b.gy * b.gz
      if b.pmode ≠ 0 && k.princ ≠ 0 && k.princ ≠ b.pmode then .bad 3
      else
        match s.devList v b.parray 2 (b.principals g) with
        | .error t => .fails t
        | .ok ps =>
          if ps.any fun p => 2 ^ 12 ≤ p then .bad 3
          else if n = 0 || n % g ≠ 0 || 2 ^ 32 < n then .bad 4
          else
            match s.devList v b.afftab 8 (if b.affinity then n / g else 0) with
            | .error t => .fails t
            | .ok affs =>
              if !s.roomExists v b (k.needs (widthOfCode b.wcode) rs) affs then .bad 5
              else if !b.reservedOk || (b.swz ≠ 0 && b.order ≠ 0) || 4 < b.nwait then .bad 6
              else if affs.any fun a => (s.affinityCore v (a % 2 ^ 56)).isNone then .bad 7
              else .good rs ps affs

/-! ## Completion (18 R384) -/

/-- The completed blocks at the front of those examined and not yet covered by DONE. -/
def coveredBlocks (l : List Block) : List Block := l.takeWhile Block.done

/-- The interrupts of a covered block (18 R384). -/
def State.blockIrq (v : Nat) (s : State) (b : Block) : State :=
  if !b.irq then s
  else if b.vec < 16 then { s with irqs := s.irqs ++ [⟨some v, b.vec⟩] }
  else s.modVf v fun d => { d with irqLost := d.irqLost + 1 }

/-- DONE is raised over the completed blocks, then their interrupts are sent (18 R384). -/
def State.raiseDone (s : State) (v k : Nat) : State :=
  let c : Chain := Tbl.get default (s.vf v).chains k
  let cov := coveredBlocks c.blocks
  match cov.getLast? with
  | none => s
  | some b =>
    match s.chainPut v k [(0x20, b.s.toNat)] with
    | .error t => s.chainFail v k t
    | .ok s =>
      let s := s.modChain v k fun x => { x with blocks := x.blocks.drop cov.length }
      cov.foldl (State.blockIrq v) s

/-- A block completes. -/
def State.blockDone (s : State) (v k : Nat) (n : DWord) : State :=
  (s.modChain v k fun x =>
    { x with blocks := x.blocks.map fun b => if b.s = n then { b with done := true } else b }).raiseDone v k

/-! ## Starting blocks (18 R382) -/

/-- The chain can examine or advance: its VF is enabled, it has not stopped, it is not being reset, and every
team of its last block is placed; the page of its record is not being re-keyed (19 R410). -/
def State.chainIdle (s : State) (v k : Nat) : Bool :=
  let c : Chain := Tbl.get default (s.vf v).chains k
  (s.vf v).enable && !c.stopped && !(s.vf v).rst && !s.devWaits v (s.chainAt v k) &&
    !s.grids.any fun g => g.vf == v && g.chain == k && g.next < g.teams

/-- A rejected block (18 R382): its STATUS where it can be written, and the counts of the record. -/
def State.rejectBlock (s : State) (v k x : Nat) (n : DWord) (irq : Bool) (vec status : Nat) (wr : Bool) : State :=
  let s : State :=
    if wr then
      match s.devWrite v (x + 0x90) (leBytes 8 (status * 2 ^ 48)) with
      | .ok s' => s'
      | .error _ => s
    else s
  match s.chainGet v k 0x28 with
  | .error t => s.chainFail v k t
  | .ok r =>
    match s.chainPut v k [(0x28, r + 1), (0x30, n.toNat)] with
    | .error t => s.chainFail v k t
    | .ok s =>
      (s.modChain v k fun c =>
        { c with cur := some (BitVec.ofNat 56 x), blocks := c.blocks ++ [⟨n, true, irq, vec⟩] }).raiseDone v k

/-- The next grid tag; 0 is skipped (18 R382). -/
def nextTagOf (t : Word) : Word := if t = 0xFFFFFFFF#32 then 1 else t + 1

/-- A grid starts (18 R382): its tag and its block are entered; its teams are placed by TEAM_PLACEMENT. -/
def State.startGrid (s : State) (v k x : Nat) (n : DWord) (b : LBlock) (rs : List Role) (princs affs : List Nat) : State :=
  let g : Grid :=
    { id := s.nextTag.toNat, vf := v, tag := s.nextTag, chain := k, s := n, khandle := BitVec.ofNat 16 b.khandle
      width := widthOfCode b.wcode, order := b.order, swz := b.swz, affinity := b.affinity, pmode := b.pmode
      pdefault := BitVec.ofNat 12 b.pdefault, princs := princs.map (BitVec.ofNat 12)
      affs := affs.map (BitVec.ofNat 56), gx := b.gx, gy := b.gy, gz := b.gz, param := BitVec.ofNat 64 b.param
      ftcap := b.ftcap, roles := rs, next := 0, teams := b.gx * b.gy * b.gz / groupCount rs, live := 0, free := 0
      complete := false }
  ({ s with grids := s.grids ++ [g], nextTag := nextTagOf s.nextTag } : State).modChain v k fun c =>
    { c with cur := some (BitVec.ofNat 56 x), blocks := c.blocks ++ [⟨n, false, b.irq, b.irqvec⟩] }

/-- STATUS and GRIDTAG of an accepted block (13 R314): two stores. -/
def State.writeAccepted (s : State) (v x : Nat) : Except Trap State :=
  (s.devAt v (x + 0x90) true).map fun p => (s.putAt v 0 (leBytes 8 0) p).putAt v 8 (leBytes 4 s.nextTag.toNat) p

/-- The block's number is taken: STARTED (18 R382). -/
def State.countStarted (s : State) (v k : Nat) : Except Trap (State × DWord) :=
  match s.chainGet v k 0x18 with
  | .error t => .error t
  | .ok n => (s.chainPut v k [(0x18, n + 1)]).map fun s => (s, BitVec.ofNat 64 (n + 1))

/-- The scheduler examines block x, whose waits hold; or the block, or a word that it waits for, cannot be read. -/
def State.examine (s : State) (v k x : Nat) (b : LBlock) (bad : Option Trap) : State :=
  match s.countStarted v k with
  | .error t => s.chainFail v k t
  | .ok (s, n) =>
    match bad with
    | some t => (s.chainRecord v k t).rejectBlock v k x n b.irq b.irqvec 8 true
    | none =>
      match s.checkBlock v b with
      | .bad st =>
        match s.devAt v (x + 0x90) true with
        | .error t => (s.chainRecord v k t).rejectBlock v k x n b.irq b.irqvec 8 false
        | .ok _ => s.rejectBlock v k x n b.irq b.irqvec st true
      | .fails t => (s.chainRecord v k t).rejectBlock v k x n b.irq b.irqvec 8 true
      | .good rs ps affs =>
        match s.writeAccepted v x with
        | .error t => (s.chainRecord v k t).rejectBlock v k x n b.irq b.irqvec 8 false
        | .ok s => s.startGrid v k x n b rs ps affs

/-- BLOCK_START (18 R382): the block at HEAD is examined once its waits hold. -/
def execBlockStart (vf chain : Nat) (s : State) : Out :=
  .next (
    let s := s.chainSeen vf chain
    let c : Chain := Tbl.get default (s.vf vf).chains chain
    if c.cur.isSome || !s.chainIdle vf chain then s
    else
      match s.chainGet vf chain 0 with
      | .error t => s.chainFail vf chain t
      | .ok head =>
        let x := head % 2 ^ 56
        if x = 0 || s.devWaits vf x then s
        else
          match s.blockBytes vf x with
          | .error t => s.examine vf chain x (LBlock.ofBytes []) (some t)
          | .ok bs =>
            let b := LBlock.ofBytes bs
            match s.waitsHold vf (b.waits.take b.nwait) with
            | .error t => s.examine vf chain x b (some t)
            | .ok true => s.examine vf chain x b none
            | .ok false => s)

/-- CHAIN_ADVANCE (18 R382): the scheduler follows NEXT, or finds the chain's end. -/
def execChainAdvance (vf chain : Nat) (s : State) : Out :=
  .next (
    let s := s.chainSeen vf chain
    let c : Chain := Tbl.get default (s.vf vf).chains chain
    match c.cur with
    | none => s
    | some x =>
      if !s.chainIdle vf chain then s
      else
        match s.devRead vf x.toNat 8 with
        | .error t => s.chainFail vf chain t
        | .ok next =>
          match s.chainGet vf chain 8 with
          | .error t => s.chainFail vf chain t
          | .ok tail =>
            if next % 2 ^ 56 = 0 && tail % 2 ^ 56 ≠ x.toNat then s
            else
              match s.chainPut vf chain [(0, next % 2 ^ 56)] with
              | .error t => s.chainFail vf chain t
              | .ok s => s.modChain vf chain fun c => { c with cur := none })

/-! ## Completion of grids (01 R21) -/

/-- An engine operation of a grid is still under way on this package (03 R89). -/
def State.gridBusy (s : State) (v : Nat) (tag : Word) : Bool :=
  s.cores.any fun e =>
    e.2.copies.any (fun o => o.vf.toNat == v && o.grid == tag) ||
      e.2.spills.any (fun o => o.vf.toNat == v && o.grid == tag) ||
      e.2.mq.any fun o => o.vf == v && o.grid == tag

/-- A grid has all its teams placed, no live thread and no engine operation under way. -/
def State.gridOver (s : State) (g : Grid) : Bool :=
  g.next == g.teams && g.live == 0 && !s.gridBusy g.vf g.tag

/-- GRID_COMPLETE (01 R21, 18 R384). -/
def execGridComplete (grid : Nat) (s : State) : Out :=
  .next (match s.grids.find? fun g => g.id == grid with
    | none => s
    | some g =>
      if s.gridOver g && !s.devWaits g.vf (s.chainAt g.vf g.chain) then
        ({ s with grids := s.grids.filter fun x => x.id != grid } : State).blockDone g.vf g.chain g.s
      else s)

end Sys2Proof.Machine
end

