-- ==== Sys2Proof/Machine/Order.lean ====
section
/-! DEFINITION. Class 4, ordering and work creation: `fence`, `st.rel` (10 R237, R238, 03 R82 to R85), `mig` (R239), `detach`
(R240), `spawn` and `spawn.at` (R241, R242). -/

namespace Sys2Proof.Machine

/-! ## Fences (03 R82 to R85) -/

/-- A home lies in a scope, seen from a core (03 R82); `.win` covers window reads only. -/
def Scope.covers (sc : Scope) (c : Nat) (h : Home) : Bool :=
  match sc, h with
  | .core, .core d => d == c
  | .die, .core d => dieOf d == dieOf c
  | .pkg, .core _ => true
  | .pkg, .host => true
  | .fab, _ => true
  | _, _ => false

/-- A request belongs to a fence of its thread; an `mcst` is a store to every replica (03 R93). -/
def State.fenced (s : State) (sc : Scope) (r : Req) : Bool :=
  match sc with
  | .win => r.win && !AccKind.writes r.kind
  | _ =>
    Scope.covers sc r.core r.home ||
      (r.kind == .mcst &&
        match s.regionOf r.vf.toNat r.va.toNat with
        | some g => (s.replicaHomes g r.va.toNat).any (Scope.covers sc r.core)
        | none => false)

/-- The address of a copy's write lies in a scope. -/
def State.writeIn (s : State) (sc : Scope) (c v a : Nat) : Bool :=
  match s.homeOf v a c with
  | .ok (_, h) => Scope.covers sc c h
  | .error _ => false

/-- A global write of an engine operation that the thread issued is not performed yet (03 R83). -/
def State.engineOpen (s : State) (sc : Scope) (c x : Nat) : Bool :=
  (s.core c).copies.any (fun o =>
    let d := CopyDesc.ofBytes o.desc
    o.ctx == x && !o.isGather && d.dir == 1 && (o.left ++ o.stuck).any fun e =>
      s.writeIn sc c o.vf.toNat (if e % 2 = 1 then d.tagAt (e / 2) else d.gAt (e / 2))) ||
  (s.core c).spills.any fun o =>
    o.ctx == x && !o.isFill && !o.toSp && (o.left ++ o.stuck).any fun u => s.writeIn sc c o.vf.toNat (o.partAt u)

/-- A fence of a scope still waits (03 R83); a request that faulted holds it for good (10 R237). -/
def State.fenceOpen (s : State) (sc : Scope) (c x : Nat) : Bool :=
  s.reqs.any (fun r => r.ofCtx c x && r.kind != .prefetch && r.stat != .performed && s.fenced sc r) ||
    (sc != .win && s.engineOpen sc c x)

/-- The packages where a VF may run, by the pairs of its partitions (19 R390). -/
def State.runPkgs (s : State) (v : Nat) : List Nat :=
  let ps := (List.range 64).flatMap fun q =>
    if (s.vf v).vfrun.getLsbD q then
      (List.range 4).flatMap fun j =>
        let e := Tbl.get (0 : DWord) s.partpair (4 * q + j)
        if e.getLsbD 63 then [(e.extractLsb' 0 16).toNat] else []
    else []
  (ps.foldl (fun l p => insertPc p l) []).filter (· != s.fabnum.toNat)

/-- The packages that a `fence.fab` of a thread sends markers to (03 R85). -/
def State.flushPkgs (s : State) (t : Thread) : List Nat :=
  if t.flush.full then s.runPkgs t.vf.toNat else t.flush.pkgs

/-- The flush set is empty again. -/
def Flush.none : Flush := ⟨[], false, Option.none⟩

/-- The markers of a `fence.fab` go out, and the thread waits for their acknowledgements (03 R85). -/
def State.startFlush (s : State) (c x : Nat) : State :=
  let r := (s.flushPkgs (s.thread c x)).foldl (fun (acc : State × Nat) p =>
    let m := acc.1.sendMarkers c (s.takeName c x).1 p
    (m.1, acc.2 + m.2)) ((s.takeName c x).2, 0)
  if r.2 = 0 then r.1.modThread c x fun t => { t with flush := Flush.none }
  else (r.1.modThread c x fun t => { t with flush := { t.flush with out := some r.2 } }).waits c x .flush

/-- What a fence of a scope still has to do for a lane; none when it is complete. -/
def State.fenceStep (s : State) (l : Lane) (sc : Scope) : Option LaneOut :=
  if s.fenceOpen sc l.core l.ctx then some (.wait (.fence sc))
  else if sc = .fab && !(s.flushPkgs l.t).isEmpty then some (.act fun s => s.startFlush l.core l.ctx)
  else none

/-- `fence` (10 R237). -/
def execFence (h : Hdr) (scope : Scope) (s : State) : Out :=
  .next (s.runLanes (.fence h scope) h fun s l => (s.fenceStep l scope).getD (.write [] none))

/-- `st.rel` (10 R238): the fence, then the store. -/
def execStRel (h : Hdr) (scope : Scope) (t : Ty) (tf : Bool) (v : Src) (base : Reg) (disp : BitVec 10)
    (s : State) : Out :=
  .next (s.runAccess (.stRel h scope t tf v base disp) h fun s l =>
    match s.fenceStep l scope with
    | some o => .other o
    | none =>
      s.access l [.reg base, v] []
        (s.modify l { Access.plain .store (s.globalAddr l base disp) t tf with
          data := storeData t (s.srcVal l v) }))

/-- Copies of a thread's flush markers are acknowledged; with the last one the set is cleared (03 R85). -/
def State.ackMarkers (s : State) (c x n : Nat) : State :=
  match (s.thread c x).flush.out with
  | none => s
  | some k =>
    if n < k then s.modThread c x fun t => { t with flush := { t.flush with out := some (k - n) } }
    else (s.modThread c x fun t => { t with flush := Flush.none, name := none }).wakeAt c x .flush none

/-- A packet is a flush marker of a context. -/
def Packet.isMarker (p : Packet) (c x : Nat) : Bool :=
  match p.body with
  | .marker core ctx => core.toNat == c && ctx == x
  | _ => false

/-- At most n unacknowledged markers of a context taken from a list of sent packets; how many remain to be taken. -/
def takeMarkers (c x : Nat) : Nat → List (Packet × Nat) → List (Packet × Nat) × Nat
  | n, [] => ([], n)
  | n, k :: l =>
    if n ≠ 0 ∧ Packet.isMarker k.1 c x then takeMarkers c x (n - 1) l
    else
      let r := takeMarkers c x n l
      (k :: r.1, r.2)

/-- n copies of the markers of the context that goes by a number are acknowledged at its ports. -/
def State.markersBack (s : State) (c x n : Nat) : State :=
  let r := [2 * dieOf c, 2 * dieOf c + 1].foldl (fun (a : State × Nat) p =>
    let t := takeMarkers c x a.2 (a.1.port p).unacked
    (a.1.modPort p fun k => { k with unacked := t.1 }, t.2)) (s, n)
  if r.2 < n then r.1.ackMarkers c (s.named c x) (n - r.2) else s

/-- FLUSH_MARKER_ACK (03 R85): acknowledgements of marker copies reach the port. -/
def execFlushMarkerAck (core ctx n : Nat) (s : State) : Out := .next (s.markersBack core ctx n)

/-! ## Kernels that create no free threads (13 R309) -/

/-- The thread's kernel may create or receive free threads. -/
def State.mayMigrate (s : State) (l : Lane) : Bool := (s.kernel l.t.vf.toNat l.t.khandle.toNat).migratory

/-- The lanes of a unit run where their kernel is migratory; else each of them traps ILLEGAL_OP, KIND 6 (13 R309). -/
def State.ifMigratory (run : State → List Lane → State) (s : State) (ls : List Lane) : State :=
  match ls.find? fun l => !s.mayMigrate l with
  | some l => s.parkLanes ls illegalNow (ls.map Lane.lane) l.t.pc .reexec
  | none => run s ls

/-- `mig` of one lane (10 R239). -/
def State.migLane (s : State) (l : Lane) (base : Reg) (disp : BitVec 10) : LaneOut :=
  match s.readCheck l (hinted l 0 [.reg base]) with
  | some o => o
  | none =>
    if l.t.group.isSome then .write [] none
    else
      let a := s.globalAddr l base disp
      match s.addrCheck l a 0 with
      | .error t => .trap t
      | .ok (g, h) =>
        if g.replicated || g.win || g.isHost || h == .core l.core then .write [] none else s.migrate l a h

/-- `mig` (10 R239). -/
def execMig (h : Hdr) (base : Reg) (disp : BitVec 10) (s : State) : Out :=
  .next (s.runUnits (.mig h base disp) h
    (State.ifMigratory fun s ls => s.runActive ls (fun s l => s.migLane l base disp) false))

/-! ## Reservations and free slots (01 R8, R23) -/

/-- The reservation of a lane (01 R23): none when it holds its units. -/
def State.reserveStep (_s : State) (l : Lane) (tf : Bool) : Option LaneOut :=
  if l.t.resv then none
  else if l.t.denied then some (.trap (trapOf .spawnLimit))
  else some (.ask fun s => (s.askReserve l.core l.ctx l.t tf).waits l.core l.ctx .reserve)

/-- The register rows that a core's teams hold (01 R15, 02 R63). -/
def Core.heldRows (k : Core) : List Nat := k.teams.flatMap fun e => e.2.rowNums

/-- A free thread holds a slot (02 R64); an evicted one holds none. -/
def Core.slotTaken (k : Core) (n : Nat) : Bool := k.ctxs.any fun e => e.2.slot == some n

/-- The lowest-numbered free slot of a core (01 R8): slot n is 64 bytes of row n div 32, in a row that no team holds (log 94). -/
def Core.lowSlot (k : Core) : Option Nat :=
  (List.range 352).findSome? fun r =>
    if k.heldRows.contains r then none
    else ((List.range 32).find? fun i => !k.slotTaken (32 * r + i)).map fun i => 32 * r + i

/-- The rows of a core that a team may take: held by no team, and with no slot of theirs taken. -/
def Core.freeRows (k : Core) : List Nat :=
  (List.range 352).filter fun r =>
    !k.heldRows.contains r && !k.ctxs.any fun e => e.2.slot.any fun n => n / 32 == r

/-- A free slot is left (02 R63, 01 R8). -/
def State.slotFree (s : State) (c : Nat) : Bool := (s.core c).lowSlot.isSome

/-- The thread that `detach` leaves: g0 to g15 within its budget, depth 1, no group (10 R240). -/
def State.detached (s : State) (l : Lane) : Thread :=
  let b := s.budget l.core l.t
  { l.t with
    group := none, regs := l.t.regs.filter fun e => e.1 < 16 && e.1 < b
    depth := 1, resv := false, fork := none, slot := (s.core l.core).lowSlot, srcCore := BitVec.ofNat 9 l.core, srcPkg := s.fabnum }

/-- A bound thread becomes free: it counts as one exit, its group treats it as exited (10 R240). -/
def State.doDetach (s : State) (l : Lane) : State :=
  match l.t.group with
  | none => s
  | some g =>
    let s := s.setThread l.core l.ctx (s.detached l)
    let s := (s.tellHome l.core l.t true false).goesOn l.core l.ctx l.nextPc l.yields
    s.leaveGroup l.core g.1 g.2

/-- `detach` of one lane (10 R240), its steps in order; predicates are not waited for (02 R68). -/
def State.detachLane (s : State) (l : Lane) (tf : Bool) : LaneOut :=
  if l.t.group.isNone then .write [] none
  else
    match s.reserveStep l tf with
    | some o => o
    | none =>
      match s.destCheck l ((List.range (s.budget l.core l.t)).map WRef.g) with
      | some o => o
      | none =>
        if !s.drained l.core l.ctx then .wait .drained
        else if !s.slotFree l.core then .wait .retry
        else .act fun s => s.doDetach l

/-- `detach` (10 R240). -/
def execDetach (h : Hdr) (tf : Bool) (s : State) : Out :=
  .next (s.runUnits (.detach h tf) h
    (State.ifMigratory (State.runFork false false (fun s _ l => s.detachLane l tf) noCheck fun s _ => s)))

/-! ## Spawns (10 R242) -/

/-- The frame of a child (10 R242). -/
def State.childFrame (s : State) (l : Lane) (off : Word) (n : Nat) (target : Option Nat) : Frame :=
  { pc := l.t.pc + off, pred := 0, depth := l.t.depth + 1, principal := l.t.principal
    kind := if target.isSome then 2 else 1, vf := l.t.vf, khandle := l.t.khandle, grid := l.t.grid
    target := BitVec.ofNat 56 (target.getD 0), srcPkg := s.fabnum, bounce := false, poison := false
    srcCore := BitVec.ofNat 9 l.core, vfPkg := l.t.vfPkg
    gregs := (List.range 16).map fun i => if i ≤ n then (l.t.reg i).val else 0 }

/-- The home of a child, after the checks of `spawn.at` (10 R242). -/
def State.spawnHome (s : State) (l : Lane) (target : Option Nat) : Except Trap Home :=
  match target with
  | none => .ok (.core l.core)
  | some a =>
    match s.addrCheck l a 0 with
    | .error t => .error t
    | .ok (g, h) =>
      if g.isHost || g.win then .error (trapAt .prot 4 a)
      else if !s.mayRunAt l.t.vf.toNat h then .error (trapAt .firewall 0 a)
      else .ok h

/-- One lane of a spawn (10 R242), its steps in order; the child's frame follows the parent's local accesses (10 R243), and waits
while its first hop stalls (01 R31), the lane holding its reserved units. -/
def State.spawnLane (s : State) (l : Lane) (srcs : List Src) (off : Word) (n : Nat) (tf : Bool)
    (target : Option Nat) : LaneOut :=
  match s.readCheck l (hinted l 0 srcs) with
  | some o => o
  | none =>
    if l.t.depth = 15 then .trap (trapOf .spawnDepth)
    else
      match s.spawnHome l target with
      | .error t => .trap t
      | .ok h =>
        match s.reserveStep l tf with
        | some o => o
        | none =>
          let refs := (List.range (n + 1)).map WRef.g
          match s.destCheck l refs, s.readCheck l (refs.map fun r => (r, false)) with
          | some o, _ => o
          | none, some o => o
          | none, none =>
            if s.localOpen l.core l.ctx || s.hopStalled h then .wait .retry
            else .act fun s =>
              ((s.sendFrame l.core (s.childFrame l off n target) h).modThread l.core l.ctx fun t =>
                { t with resv := false }).goesOn l.core l.ctx l.nextPc l.yields

/-- `spawn` (10 R241, R242). -/
def execSpawn (h : Hdr) (off : Word) (nreg : BitVec 4) (tf : Bool) (s : State) : Out :=
  .next (s.runUnits (.spawn h off nreg tf) h
    (State.ifMigratory (State.runFork true false (fun s _ l => s.spawnLane l [] off nreg.toNat tf none) noCheck fun s _ => s)))

/-- `spawn.at` (10 R241, R242). -/
def execSpawnAt (h : Hdr) (off : Word) (a : Reg) (nreg : BitVec 4) (tf : Bool) (s : State) : Out :=
  .next (s.runUnits (.spawnAt h off a nreg tf) h
    (State.ifMigratory (State.runFork true false
      (fun s _ l => s.spawnLane l [.reg a] off nreg.toNat tf (some (s.regVal l a).toNat)) noCheck fun s _ => s)))

end Sys2Proof.Machine
end

