-- ==== Sys2Proof/Machine/Harvest.lean ====
section
/-! DEFINITION. Harvest: streams and their blocks (05 R117 to R122), cursors and their operations (05 R123 to R130), the
cursor record (05 R131), faults and pauses (05 R132 to R134), and the crd instructions (12 R285 to R289). Decoding is a pure
function of the units it reads; a decode that must wait starts again from the same cursor. -/

namespace Sys2Proof.Machine

/-! ## Reading stream units (05 R122) -/

/-- What reading one unit gives: its value, a page that may not be read, a wait, a request to send first, a PAGE_FAULT that waits for the
driver, or a trap of the members. -/
inductive UnitOut where
  | val (v : Nat)
  | denied (e : Pte)
  | wait
  | ask
  | fault (t : Trap)
  | fail (t : Trap)

/-- The outcome of a request of an engine to another package or towards a firewall, where it has been sent. -/
def State.farLook (s : State) (q : Asker) (tag a : Nat) : UnitOut :=
  match s.reqs.find? fun r => r.ctx == engineCtx && r.core == q.core && r.key == tag && r.va.toNat == a with
  | none => .ask
  | some r =>
    match r.stat with
    | .performed => .val r.value.toNat
    | .denied c n => .denied (pteOfDenial c n)
    | .faulted t => if t.cause = .pageFault then .fault t else .fail t
    | _ => .wait

/-- Send a request for n bytes; `passed` says that the class of the page was checked. It waits for a place among the outstanding ones of
its core (10 R231). -/
def State.askFar (s : State) (q : Asker) (tag a n : Nat) (k : AccKind) (passed : Bool) (hint : BitVec 2) : State :=
  match s.homeOf q.vf.toNat a q.core with
  | .error _ => s
  | .ok (g, h) =>
    let r : Req :=
      { (default : Req) with
        id := s.nextReq, key := tag, core := q.core, ctx := engineCtx, lane := a, vf := q.vf, principal := q.principal
        khandle := q.khandle, grid := q.grid, pc := q.pc, kind := k, va := BitVec.ofNat 64 a, size := n
        home := h, win := g.win, srcCore := BitVec.ofNat 9 q.core, srcPkg := s.fabnum, hint := hint
        engine := if passed then 2 else 1 }
    if s.outstanding q.core < 4096 then (s.addReq r).send r else s

/-- Read n bytes at an address for Harvest: at their home, with the class check of the page unless it was made. -/
def State.readUnit (s : State) (q : Asker) (tag a n : Nat) (passed : Bool) : UnitOut :=
  let v := q.vf.toNat
  if a ≥ 2 ^ 56 then .fault (trapAt .pageFault 1 a)
  else
    match s.homeOf v a q.core with
    | .error t => .fault t
    | .ok (g, h) =>
      let at_ := fun (d : Nat) =>
        let out := s.homeCheck v q.principal.toNat a .load false d g
        match if passed then s.homePassed a d out else out with
        | .wait => UnitOut.wait
        | .trap t => if t.cause = .pageFault then .fault t else .fail t
        | .denied e => .denied e
        | .ok p e => .val (s.homeRead p e n)
      match h with
      | .far _ _ => s.farLook q tag a
      | .core d => if s.engineWalled q g.win .load d then s.farLook q tag a else at_ d
      | .host => at_ q.core

/-- Read 8 bytes of a stream (05 R122): from the read-only cache where the slice holds the sector (02 R57), else at the home. -/
def State.streamUnit (s : State) (q : Asker) (tag a : Nat) (passed : Bool) : UnitOut :=
  match s.roFind q.vf.toNat a q.core with
  | some (k, bs) =>
    if passed || s.checkClass q.vf.toNat q.principal.toNat k.cls.toNat q.core then .val (sectorNat bs a 8)
    else .denied (Pte.ofNat (k.cls.toNat * 2 ^ 52))
  | none => s.readUnit q tag a 8 passed

/-- The package and core that check the class of a stream's page: below the slice that holds the sector, or its home (02 R73). -/
def State.streamAt (s : State) (v a c : Nat) : BitVec 16 × Nat :=
  if (s.roFind v a c).isSome then (s.fabnum, sliceOf a c) else s.checkAt v a c

/-- What a read of a stream unit leaves behind: a use of the line, or the translation at the home and the sector of a read-only page on its
way to the slice (02 R57), with the instruction's locality hint (08 R176). -/
def State.streamSeen (s : State) (q : Asker) (a : Nat) (passed : Bool) (hint : BitVec 2) : State :=
  let v := q.vf.toNat
  if (s.roFind v a q.core).isSome then s.roTouch v a q.core
  else
    match s.homeOf v a q.core with
    | .error _ => s
    | .ok (g, h) =>
      let at_ := fun (d : Nat) =>
        let out := s.homeCheck v q.principal.toNat a .load false d g
        let s := s.tlbFill v a d g
        match if passed then s.homePassed a d out else out with
        | .ok p e => { s with fills := s.fills ++ s.fillOf v a q.core g p e hint }
        | _ => s
      match h with
      | .far _ _ => s
      | .core d => if s.engineWalled q g.win .load d then s else at_ d
      | .host => at_ q.core

/-! ## Blocks (05 R119, R120) -/

/-- A block header. -/
structure Blk where
  ty : Nat
  count : Nat
  width : Nat
  rsv : Nat
  base : Nat
  deriving DecidableEq, Repr

/-- The fields of a header. -/
def Blk.ofNat (h : Nat) : Blk := ⟨bits h 60 4, bits h 52 8, bits h 46 6, bits h 32 14, bits h 0 32⟩

/-- The size of a block in bytes; a page end reaches to the end of its page. -/
def Blk.size (b : Blk) (at_ : Nat) : Nat :=
  match b.ty with
  | 0 => 8 + 8 * ((b.count + 1) / 2)
  | 1 => 8 + 8 * (((b.count - 1) * b.width + 63) / 64)
  | 2 => 40
  | 3 => 8 + 8 * b.count
  | _ => 65536 - at_ % 65536

/-- The number of items that an index may name. -/
def Blk.items (b : Blk) : Nat :=
  match b.ty with
  | 0 | 1 | 3 => b.count
  | 2 => 256
  | _ => 0

/-- The header keeps R119 and R120 at its place in a stream with `left` bytes. -/
def Blk.ok (b : Blk) (at_ left idx : Nat) : Bool :=
  (b.ty ≤ 3 || b.ty == 15) && b.count ≤ 128 && b.rsv == 0 &&
    (match b.ty with
    | 0 | 3 => b.width == 0 && b.base == 0
    | 1 => b.width ≤ 32
    | 2 => b.count == 0 && b.width == 0
    | _ => b.count == 0 && b.width == 0 && b.base == 0) &&
    (b.ty == 15 || (at_ % 65536 + b.size at_ ≤ 65536 && b.size at_ ≤ left)) && idx ≤ b.items

/-- The first coordinate of a block's body from an item index and run offset, with its place. -/
def Blk.find (b : Blk) (body idx roff : Nat) : Option (Nat × Nat × Nat) :=
  match b.ty with
  | 0 => if idx < b.count then some (bits body (32 * idx) 32, idx, 0) else none
  | 1 =>
    if idx < b.count then
      some (b.base + ((List.range idx).map fun j => bits body (b.width * j) b.width).foldl (· + ·) 0, idx, 0)
    else none
  | 2 => ((List.range 256).find? fun i => idx ≤ i && body.testBit i).map fun i => (b.base + i, i, 0)
  | 3 =>
    ((List.range b.count).find? fun k => idx ≤ k && (if k = idx then roff else 0) < bits body (64 * k + 32) 32).map
      fun k => (bits body (64 * k) 32 + (if k = idx then roff else 0), k, if k = idx then roff else 0)
  | _ => none

/-- The place after a coordinate. -/
def Blk.after (b : Blk) (body i r : Nat) : Nat × Nat :=
  if b.ty = 3 && r + 1 < bits body (64 * i + 32) 32 then (i, r + 1) else (i + 1, 0)

/-! ## Streams (05 R118 to R122) -/

/-- A denied page of an operation: its class, and the package and core that denied it. -/
abbrev DeniedPage := BitVec 12 × BitVec 16 × Nat

/-- A unit of a stream as an operation has read it. -/
inductive UnitVal where
  | val (v : Nat)
  | denied (d : DeniedPage)

/-- What a decode needs: the units read so far, and the record of a denied page. -/
structure HEnv where
  rd : Nat → Option UnitVal
  denial : Nat → Nat → DeniedPage → Denial

/-- Why a decode stops: it needs a unit that is not read yet, of a stream that stands at a block, or it traps its members. -/
inductive HStop where
  | ask (a : Nat) (st : Stream)
  | fail (t : Trap)

/-- A result of a decode with the denials met so far, or why it stopped. -/
abbrev HRes (α : Type) := Except (HStop × List Denial) (α × List Denial)

/-- Move past n bytes of a stream. -/
def Stream.skip (st : Stream) (n : Nat) : Stream :=
  let n := Nat.min n st.left
  { st with baddr := st.baddr + BitVec.ofNat 56 n, left := st.left - n, idx := 0, roff := 0 }

/-- The position delivered for the next coordinate (05 R118). -/
def Stream.posOut (st : Stream) : Word := if st.unknown then 0xFFFFFFFF#32 else st.pos

/-- A trap of Harvest: the block header's address and the item index (05 R132). -/
def Stream.trap (st : Stream) (c : Cause) (kind : Nat) : Trap :=
  ⟨c, kind, st.baddr.setWidth 64, BitVec.ofNat 32 st.idx⟩

/-- n units from an address as one number. -/
def HEnv.words (e : HEnv) (st : Stream) (ds : List Denial) : Nat → Nat → HRes Nat
  | 0, _ => .ok (0, ds)
  | n + 1, a =>
    match e.rd a with
    | none => .error (.ask a st, ds)
    | some (.denied _) => .ok (0, ds)
    | some (.val v) =>
      match e.words st ds n (a + 8) with
      | .error x => .error x
      | .ok (w, ds) => .ok (v + 2 ^ 64 * w, ds)

/-- A decoded coordinate with the stream before and after it. -/
structure HCoord where
  c : Nat
  before : Stream
  past : Stream
  deriving DecidableEq, Repr

/-- The next coordinate within the block at which a stream stands: none when the block has no more, with the stream past
it. Past a block's last coordinate the stream stands at the block that follows in memory, with IDX 0, whether that block holds a
coordinate or is empty, a page end or denied: 05 R131 names both "the next block" and the block that holds the next coordinate. Past another
coordinate IDX is the item after it, a bitmap's next bit (log 100: DESIGN CHOICE). -/
def HEnv.inBlock (e : HEnv) (multi : Bool) (st : Stream) (h : Nat) (ds : List Denial) :
    HRes (Option HCoord × Stream) :=
  let b := Blk.ofNat h
  let a := st.baddr.toNat
  if !b.ok a st.left st.idx then .error (.fail (st.trap .crdFormat 0), ds)
  else if b.ty = 15 then .ok ((none, st.skip (b.size a)), ds)
  else
    match e.words st ds (b.size a / 8 - 1) (a + 8) with
    | .error x => .error x
    | .ok (body, ds) =>
      match b.find body st.idx st.roff.toNat with
      | none => .ok ((none, st.skip (b.size a)), ds)
      | some (c, i, r) =>
        let before := { st with idx := i, roff := BitVec.ofNat 32 r }
        if 2 ^ 32 ≤ c then .error (.fail (before.trap .crdFormat 0), ds)
        else if !st.new && (c < st.last.toNat || (c = st.last.toNat && !multi)) then
          .error (.fail (before.trap .crdUnsorted 0), ds)
        else
          let n := b.after body i r
          let moved := { st with
            pos := st.pos + 1, last := BitVec.ofNat 32 c, new := false, idx := n.1, roff := BitVec.ofNat 32 n.2 }
          let past := if (b.find body n.1 n.2).isNone then moved.skip (b.size a) else moved
          .ok ((some ⟨c, before, past⟩, st), ds)

/-- Head (05 R126): the next coordinate of a stream, or its end; and whether a denied page was passed (05 R122). -/
def HEnv.head (e : HEnv) (multi : Bool) : Nat → Stream → Bool → List Denial → HRes (Option HCoord × Stream × Bool)
  | 0, st, dn, ds => .ok ((none, st, dn), ds)
  | n + 1, st, dn, ds =>
    let a := st.baddr.toNat
    if st.left = 0 then .ok ((none, st, dn), ds)
    else
      match e.rd a with
      | none => .error (.ask a st, ds)
      | some (.denied p) =>
        let len := Nat.min (65536 - a % 65536) st.left
        e.head multi n { st.skip len with unknown := true } true (ds ++ [e.denial a len p])
      | some (.val h) =>
        match e.inBlock multi st h ds with
        | .error x => .error x
        | .ok ((some c, _), ds) => .ok ((some c, c.before, dn), ds)
        | .ok ((none, st), ds) => e.head multi n st dn ds

/-! ## Operations (05 R125, R126) -/

/-- A cursor's operation decodes two streams. -/
def CrdOp.two : CrdOp → Bool
  | .intersect | .union | .diff => true
  | _ => false

/-- The head of stream A. -/
def HEnv.headA (e : HEnv) (st : CState) (ds : List Denial) : HRes (Option HCoord × CState) :=
  match e.head (st.op == .expand || st.a.multi) (st.a.left / 8 + 2) st.a false ds with
  | .error x => .error x
  | .ok ((c, a, dn), ds) =>
    let st' := { st with a := a, b := if dn && st.op == .expand then { st.b with new := true } else st.b }
    let c := if CrdOp.two st.op && !st.endAll then c.filter fun x => x.c < st.cEnd.toNat else c
    .ok ((c, st'), ds)

/-- The head of stream B. -/
def HEnv.headB (e : HEnv) (st : CState) (ds : List Denial) : HRes (Option HCoord × CState) :=
  match e.head st.b.multi (st.b.left / 8 + 2) st.b false ds with
  | .error x => .error x
  | .ok ((c, b, _), ds) =>
    let c := if st.endAll then c else c.filter fun x => x.c < st.cEnd.toNat
    .ok ((c, { st with b := b }), ds)

/-- Both heads; DIFF looks at stream B only where A has a coordinate (05 R126). -/
def HEnv.heads (e : HEnv) (st : CState) (ds : List Denial) : HRes ((Option HCoord × Option HCoord) × CState) :=
  match e.headA st ds with
  | .error x => .error x
  | .ok ((a, st), ds) =>
    if st.op = .diff ∧ a.isNone then .ok (((a, none), st), ds)
    else
      match e.headB st ds with
      | .error x => .error x
      | .ok ((b, st), ds) => .ok (((a, b), st), ds)

/-- An item without row flags. -/
def Item.mk3 (c : Nat) (a b : Word) : Item := ⟨BitVec.ofNat 32 c, a, b, false, false⟩

/-- The absent position. -/
def noPos : Word := 0xFFFFFFFF#32

/-- One round of a two-stream operation: an item or none to deliver, or only streams advanced. -/
def CState.round (st : CState) (a b : Option HCoord) : Option (Option Item × CState) :=
  let advA := fun (x : HCoord) => { st with a := x.past }
  let advB := fun (y : HCoord) => { st with b := y.past }
  let both := fun (x y : HCoord) => { st with a := x.past, b := y.past }
  match st.op, a, b with
  | .intersect, some x, some y =>
    if x.c < y.c then some (none, advA x)
    else if y.c < x.c then some (none, advB y)
    else some (some (Item.mk3 x.c x.before.posOut y.before.posOut), both x y)
  | .intersect, _, _ => none
  | .union, none, none => none
  | .union, some x, none => some (some (Item.mk3 x.c x.before.posOut noPos), advA x)
  | .union, none, some y => some (some (Item.mk3 y.c noPos y.before.posOut), advB y)
  | .union, some x, some y =>
    if x.c < y.c then some (some (Item.mk3 x.c x.before.posOut noPos), advA x)
    else if y.c < x.c then some (some (Item.mk3 y.c noPos y.before.posOut), advB y)
    else some (some (Item.mk3 x.c x.before.posOut y.before.posOut), both x y)
  | _, none, _ => none
  | _, some x, none => some (some (Item.mk3 x.c x.before.posOut noPos), advA x)
  | _, some x, some y =>
    if x.c < y.c then some (some (Item.mk3 x.c x.before.posOut noPos), advA x)
    else if y.c < x.c then some (none, advB y)
    else some (none, both x y)

/-- The next item of a two-stream operation. -/
def HEnv.nextTwo (e : HEnv) : Nat → CState → List Denial → HRes (Option (Item × CState))
  | 0, _, ds => .ok (none, ds)
  | n + 1, st, ds =>
    match e.heads st ds with
    | .error x => .error x
    | .ok (((a, b), st), ds) =>
      match st.round a b with
      | none => .ok (none, ds)
      | some (some it, st) => .ok (some (it, st), ds)
      | some (none, st) => e.nextTwo n st ds

/-- One item fewer remains of a bounded share (05 R126). -/
def CState.used (st : CState) : CState := if st.endAll then st else { st with cEnd := st.cEnd - 1 }

/-- The next item of an EXPAND cursor. -/
def HEnv.nextRow (e : HEnv) : Nat → CState → List Denial → HRes (Option (Item × CState))
  | 0, _, ds => .ok (none, ds)
  | n + 1, st, ds =>
    if st.knext < st.kend then
      let k := st.knext
      let it : Item := ⟨k, k - st.rowStart, st.row, k == st.rowStart, k + 1 == st.kend⟩
      .ok (some (it, ({ st with knext := k + 1 } : CState).used), ds)
    else
      match e.headA st ds with
      | .error x => .error x
      | .ok ((none, _), ds) => .ok (none, ds)
      | .ok ((some p, st), ds) =>
        let c := BitVec.ofNat 32 p.c
        let pos := p.before.posOut
        let st := { st with a := p.past }
        let st := if st.b.new then { st with kend := c, knext := c, b := { st.b with new := false } }
          else { st with
            rowStart := st.kend, knext := st.kend, kend := c, row := if pos = noPos then noPos else pos - 1 }
        e.nextRow n st ds

/-- A bound on the rounds of one item: more than the coordinates that two streams can hold. -/
def manyRounds : Nat := 2 ^ 70

/-- NextItem (05 R126). -/
def HEnv.next (e : HEnv) (st : CState) (ds : List Denial) : HRes (Option (Item × CState)) :=
  if CrdOp.two st.op then e.nextTwo manyRounds st ds
  else if !st.endAll && st.cEnd == 0 then .ok (none, ds)
  else if st.op = .expand then e.nextRow manyRounds st ds
  else
    match e.headA st ds with
    | .error x => .error x
    | .ok ((none, _), ds) => .ok (none, ds)
    | .ok ((some x, st), ds) =>
      .ok (some (Item.mk3 x.c x.before.posOut noPos, ({ st with a := x.past } : CState).used), ds)

/-! ## Delivery (05 R127, R128) -/

/-- At most n items, with the state after the last one. -/
def HEnv.take (e : HEnv) : Nat → List Item → CState → List Denial → HRes (List Item × CState)
  | 0, l, st, ds => .ok ((l, st), ds)
  | n + 1, l, st, ds =>
    match e.next st ds with
    | .error x => .error x
    | .ok (none, ds) => .ok ((l, st), ds)
    | .ok (some (it, st), ds) => e.take n (l ++ [it]) st ds

/-- What a `crd.next` of n lanes produces: its items, the state after them, the look-ahead item. -/
def HEnv.deliver (e : HEnv) (n : Nat) (k : Cursor) : HRes (List Item × CState × Option (Item × CState)) :=
  let r := match k.look with
    | some (it, st) => e.take (n - 1) [it] st []
    | none => e.take n [] k.cur []
  match r with
  | .error x => .error x
  | .ok ((l, st), ds) =>
    if l.length < n then .ok ((l, st, none), ds)
    else
      match e.next st ds with
      | .error x => .error x
      | .ok (look, ds) => .ok ((l, st, look), ds)

/-- SEGS and SEGE of item j (05 R127). -/
def segFlags (op : CrdOp) (isNew : Bool) (last : Word) (l : List Item) (look : Option Item) (j : Nat) : Bool × Bool :=
  match l[j]? with
  | none => (false, false)
  | some it =>
    if op = .expand then (it.segs, it.sege)
    else
      let before := if j = 0 then (if isNew then none else some last) else (l[j - 1]?).map Item.c
      let after := match l[j + 1]? with
        | some x => some x
        | none => look
      (before != some it.c, (after.map Item.c) != some it.c)

/-- The seven words that active member j receives (05 R127). -/
def itemWords (d p : Nat) (l : List Item) (fl : Bool × Bool) (exh : Bool) (j : Nat) : List (WRef × Word) :=
  let v : List Word := match l[j]? with
    | some it => [it.c, it.a, it.b, 1, boolWord fl.1, boolWord fl.2]
    | none => [0, noPos, noPos, 0, 0, 0]
  ([.g d, .g (d + 1), .g (d + 2), .p p, .p (p + 1), .p (p + 2), .p (p + 3)] : List WRef).zip (v ++ [boolWord exh])

/-! ## Splitting (05 R129, R130) -/

/-- The number of items that remain. -/
def HEnv.countItems (e : HEnv) : Nat → Nat → CState → List Denial → HRes Nat
  | 0, n, _, ds => .ok (n, ds)
  | k + 1, n, st, ds =>
    match e.next st ds with
    | .error x => .error x
    | .ok (none, ds) => .ok (n, ds)
    | .ok (some (_, st), ds) => e.countItems k (n + 1) st ds

/-- The remaining coordinates of one stream up to the cursor's end, and the stream at its end; `onB` names the stream. -/
def HEnv.coords (e : HEnv) (onB : Bool) : Nat → List HCoord → CState → List Denial → HRes (List HCoord × CState)
  | 0, l, st, ds => .ok ((l, st), ds)
  | k + 1, l, st, ds =>
    match if onB then e.headB st ds else e.headA st ds with
    | .error x => .error x
    | .ok ((none, st), ds) => .ok ((l, st), ds)
    | .ok ((some x, st), ds) =>
      e.coords onB k (l ++ [x]) (if onB then { st with b := x.past } else { st with a := x.past }) ds

/-- Two ascending lists merged, the first list's elements before equal ones of the second. -/
def mergeCoords : Nat → List HCoord → List HCoord → List HCoord
  | 0, as, bs => as ++ bs
  | _ + 1, [], bs => bs
  | _ + 1, as, [] => as
  | n + 1, a :: as, b :: bs => if a.c ≤ b.c then a :: mergeCoords n as (b :: bs) else b :: mergeCoords n (a :: as) bs

/-- A stream moved to its end (05 R130). -/
def Stream.toEnd (st : Stream) : Stream :=
  { st with baddr := st.baddr + BitVec.ofNat 56 st.left, left := 0, idx := 0, roff := 0 }

/-- Share i of n of a two-stream cursor (05 R129, R130). -/
def HEnv.shareTwo (e : HEnv) (n i : Nat) (st : CState) : HRes CState :=
  match e.coords false manyRounds [] st [] with
  | .error x => .error x
  | .ok ((as, s1), ds) =>
    match e.coords true manyRounds [] s1 ds with
    | .error x => .error x
    | .ok ((bs, s2), ds) =>
      let m := mergeCoords (as.length + bs.length) as bs
      let w := m.length
      let cut := fun (k : Nat) => (m[k * w / n]?).map HCoord.c
      match cut i with
      | none => .ok ({ s2 with a := s2.a.toEnd, b := s2.b.toEnd, endAll := false, cEnd := 0 }, ds)
      | some lo =>
        let stand := fun (l : List HCoord) (done : Stream) => match l.find? fun x => lo ≤ x.c with
          | some x => x.before
          | none => done
        let s3 := { s2 with a := stand as s2.a, b := stand bs s2.b }
        match cut (i + 1) with
        | some hi => .ok ({ s3 with endAll := false, cEnd := BitVec.ofNat 32 hi }, ds)
        | none => .ok (s3, ds)

/-- Share i of n of an ENUM or EXPAND cursor (05 R129, R130). A share of 2^32 items or more has END modulo 2^32, the width of the record's
field (05 R131): the manual leaves the case open (log 98). -/
def HEnv.shareOne (e : HEnv) (n i : Nat) (st : CState) : HRes CState :=
  match e.countItems manyRounds 0 st [] with
  | .error x => .error x
  | .ok (w, ds) =>
    let lo := i * w / n
    let hi := (i + 1) * w / n
    match e.take lo [] st [] with
    | .error x => .error x
    | .ok ((_, st), _) => .ok ({ st with endAll := false, cEnd := BitVec.ofNat 32 (hi - lo) }, ds)

/-! ## Cursors (05 R123, R124) -/

/-- A stream as `crd.open` sets it (05 R131). -/
def Stream.start (addr len pos0 : Nat) (multi : Bool) : Stream :=
  { baddr := BitVec.ofNat 56 addr, idx := 0, left := len, pos := BitVec.ofNat 32 pos0, unknown := false, last := 0
    roff := 0, new := true, multi := multi }

/-- A stream descriptor of 32 bytes (05 R117): the stream, or its trap. -/
def streamOf (d : List Byte) (off : Nat) : Except Trap Stream :=
  let w := fieldAt d 0 8
  let len := fieldAt d 8 4
  let m := fieldAt d 0x10 16
  if bits w 56 8 ≠ 0 || 1 < m then .error illegalNow
  else if w % 8 ≠ 0 || len % 8 ≠ 0 then .error (trapAt .align 0 off)
  else .ok (Stream.start w len (fieldAt d 0xC 4) (m == 1))

/-- A new cursor state (05 R131). Stream B of ENUM and EXPAND starts as an empty one does, NEW set and MULTI clear: the manual names no value
for BNEW and BMULTI there, but for the fresh start of EXPAND (log 98). -/
def CState.start (op : CrdOp) (a b : Stream) : CState :=
  { op := op, a := a, b := b, cEnd := 0, endAll := true, knext := 0, kend := 0, rowStart := 0, row := noPos }

/-- A cursor of a group, for the issuing lane. -/
def Cursor.ofLane (l : Lane) (num : Nat) (st : CState) (outNew : Bool) (last emitted : Word) : Cursor :=
  { live := true, gset := (l.t.group.map Prod.fst).getD 0, num := num, vf := l.t.vf, principal := l.t.principal
    khandle := l.t.khandle, grid := l.t.grid, cur := st, look := none, outNew := outNew, lastOut := last
    emitted := emitted, busy := .none, paused := false, stuck := false, got := [], pages := [], begun := [], hint := 0 }

/-- The cursor in a slot. -/
def State.cursor (s : State) (c slot : Nat) : Cursor := Tbl.get default (s.core c).cursors slot

/-- The state with a slot's cursor replaced. -/
def State.setCursor (s : State) (c slot : Nat) (k : Cursor) : State :=
  s.modCore c fun x => { x with cursors := Tbl.set x.cursors slot k }

/-- The least free cursor slot (05 R123). -/
def State.freeCursor (s : State) (c : Nat) : Option Nat := leastFree 256 fun n => !Tbl.has (s.core c).cursors n

/-- Put a cursor into a number of its group: the old one is closed first; none where no slot is free. -/
def State.putCursor (s : State) (c : Nat) (k : Cursor) : Option State :=
  let s := s.closeCursor c k.gset k.num
  (s.freeCursor c).map fun slot =>
    (s.setCursor c slot k).modGroup c k.gset fun g => { g with cursors := Tbl.set g.cursors k.num (some slot) }

/-- The slot of an open cursor number of a set's group; a number above 3 or not open traps (05 R123, 12 R278). -/
def State.openSlot (s : State) (l : Lane) (num : Nat) : Option Nat :=
  if num ≤ 3 then s.slotOf l.core ((l.t.group.map Prod.fst).getD 0) num else none

/-- Lanes go on at the next instruction. -/
def State.lanesGoOn (s : State) (ls : List Lane) : State :=
  ls.foldl (fun s l => s.goesOn l.core l.ctx l.nextPc l.yields) s

/-- Group operands of a class 6 or 7 instruction (11 R256): a trap is every active lane's (12 R281). -/
def State.wholeRead (s : State) (ls : List Lane) (srcs : List Src) : Option SetOut :=
  (s.groupRead ls 0 srcs).map fun o => match o with
    | .trapIn t _ => .trap t
    | o => o

/-- The descriptors of `crd.open` (12 R285), as they are in the scratchpad. -/
def State.readStreams (s : State) (l : Lane) (offs : List Nat) : Except Trap (List Byte) :=
  let tm := s.team l.core (s.teamOf l)
  match offs.find? fun o => tm.spBad o 32 with
  | some o => .error (trapAt .poison 0 o)
  | none => .ok (offs.flatMap fun o => Mem.read tm.sp o 32)

/-- The streams of the descriptors that were read; one-stream operations have an empty second one. -/
def streamsOf (bs : List Byte) : List Nat → Except Trap (Stream × Stream)
  | [a] => (streamOf bs a).map fun x => (x, Stream.start 0 0 0 false)
  | a :: b :: _ =>
    match streamOf (bs.take 32) a, streamOf (bs.drop 32) b with
    | .error t, _ => .error t
    | .ok _, .error t => .error t
    | .ok x, .ok y => .ok (x, y)
  | [] => .ok (Stream.start 0 0 0 false, Stream.start 0 0 0 false)

/-- The members' earlier local accesses come before the operation (05 R133). -/
def State.crdForked (s : State) (c g : Nat) : Bool := !(s.group c g).present.any fun x => s.localOpen c x

/-- A lane of a set still waits for an `ld.acq`: none of its accesses is issued (03 R84). -/
def State.setAcq (s : State) (ls : List Lane) : Bool := ls.any fun l => s.acqHeld l

/-- `crd.open` on a set (12 R285): its descriptors are read after the members' earlier local accesses (03 R86). Both are read, then
stream A's is checked whole before stream B's; the manual names no order between the two (log 98). -/
def State.crdOpen (s : State) (ls : List Lane) (op : CrdOp) (c da db : Src) : SetOut :=
  match s.wholeRead ls (if CrdOp.two op then [c, da, db] else [c, da]), ls with
  | some o, _ => o
  | none, [] => .act id
  | none, l :: _ =>
    let num := s.groupNat ls c
    let a := s.groupNat ls da
    let b := s.groupNat ls db
    let offs := if CrdOp.two op then [a, b] else [a]
    let tm := s.team l.core (s.teamOf l)
    if 3 < num then .trap illegalNow
    else
      match offs.find? fun o => o % 32 ≠ 0, offs.find? fun o => !tm.inGrant o 32 with
      | some o, _ => .trap (trapAt .align 0 o)
      | none, some o => .trap (trapAt .prot 1 o)
      | none, none =>
        if s.setAcq ls || !s.crdForked l.core ((l.t.group.map Prod.fst).getD 0) ||
            offs.any fun o => s.heldByMatrix l.core ((l.t.group.map Prod.fst).getD 0) o 32 then .wait
        else
          match if l.t.read = [] then s.readStreams l offs else .ok l.t.read with
          | .error t => .trap t
          | .ok bs =>
            match streamsOf bs offs with
            | .error t => .trap t
            | .ok xy =>
              let k := Cursor.ofLane l num (CState.start op xy.1 xy.2) true 0 0
              match s.putCursor l.core k with
              | none => .hold fun s => s.modThread l.core l.ctx fun t => { t with read := bs }
              | some _ => .act fun s => ((s.putCursor l.core k).getD s).lanesGoOn ls

/-- `crd.open` (12 R285). -/
def execCrdOpen (h : Hdr) (op : CrdOp) (c da db : Src) (s : State) : Out :=
  .next (s.runSet (.crdOpen h op c da db) h fun s ls => s.crdOpen ls op c da db)

/-- `crd.close` (12 R289). Where a released set before it has a `crd.next` or `crd.split` of the number in progress, that operation ends
unfinished and its members wait on (log 98). -/
def execCrdClose (h : Hdr) (c : Src) (s : State) : Out :=
  .next (s.runSet (.crdClose h c) h fun s ls =>
    match s.wholeRead ls [c], ls with
    | some o, _ => o
    | none, [] => .act id
    | none, l :: _ =>
      let num := s.groupNat ls c
      if 3 < num then .trap illegalNow
      else .act fun s => (s.closeCursor l.core ((l.t.group.map Prod.fst).getD 0) num).lanesGoOn ls)

/-- The streams of a cursor that stand within a block. -/
def Cursor.within (k : Cursor) : List Stream :=
  let st := (k.look.map Prod.snd).getD k.cur
  (if CrdOp.two st.op then [st.a, st.b] else [st.a]).filter fun x => x.idx ≠ 0 || x.roff ≠ 0

/-- A cursor whose operation has read nothing. -/
def Cursor.unread (k : Cursor) : Cursor := { k with got := [], pages := [], begun := k.within }

/-- An operation of a cursor begins, with nothing read: its lanes wait (12 R286, R287). -/
def State.startCrd (s : State) (ls : List Lane) (c slot : Nat) (busy : CrdBusy) : State :=
  let s := s.setCursor c slot { (s.cursor c slot).unread with
    busy := busy, hint := (ls.head?.map Lane.locality).getD 0 }
  ls.foldl (fun s l => s.waits l.core l.ctx .harvest) s

/-- The lanes of a set as an operation names them. -/
def lanePairs (ls : List Lane) : List (Nat × Nat) := ls.map fun l => (l.lane, l.ctx)

/-- `crd.split` (12 R286). -/
def execCrdSplit (h : Hdr) (c n i : Src) (s : State) : Out :=
  .next (s.runSet (.crdSplit h c n i) h fun s ls =>
    match s.wholeRead ls [c, n, i], ls with
    | some o, _ => o
    | none, [] => .act id
    | none, l :: _ =>
      match s.openSlot l (s.groupNat ls c) with
      | none => .trap illegalNow
      | some slot =>
        let k := s.groupNat ls n
        let j := s.groupNat ls i
        if k = 0 || 65536 < k || k ≤ j then .trap illegalNow
        else if (s.cursor l.core slot).busy ≠ .none || s.setAcq ls then .wait
        else .act fun s => s.startCrd ls l.core slot
          (.split l.num (lanePairs ls) (BitVec.ofNat 32 k) (BitVec.ofNat 32 j) l.t.pc l.len))

/-- The destinations of `crd.next` (12 R287). -/
def crdRefs (d p : Nat) : List WRef := [.g d, .g (d + 1), .g (d + 2), .p p, .p (p + 1), .p (p + 2), .p (p + 3)]

/-- `crd.next` (12 R287): the destinations become EMPTY and the set waits for Harvest. -/
def execCrdNext (h : Hdr) (d : GReg) (c : Src) (p : PReg) (s : State) : Out :=
  .next (s.runSet (.crdNext h d c p) h fun s ls =>
    match s.wholeRead ls [c], ls with
    | some o, _ => o
    | none, [] => .act id
    | none, l :: _ =>
      match s.openSlot l (s.groupNat ls c) with
      | none => .trap illegalNow
      | some slot =>
        match s.setDest ls (crdRefs d.toNat p.toNat) with
        | some o => o
        | none =>
          if (s.cursor l.core slot).busy ≠ .none || s.setAcq ls then .wait
          else .act fun s =>
            let s := ls.foldl (fun s l =>
              (crdRefs d.toNat p.toNat).foldl (fun s r => s.emptyWord l.core l.ctx r) s) s
            s.startCrd ls l.core slot (.next l.num (lanePairs ls) d.toNat p.toNat l.t.pc l.len))

/-! ## The cursor record (05 R131, 12 R288) -/

/-- 24 bytes of a stream. -/
def Stream.bytes (st : Stream) : List Byte :=
  leBytes 8 (st.idx * 2 ^ 56 + st.baddr.toNat) ++ leBytes 4 st.left ++ leBytes 4 st.posOut.toNat ++
    leBytes 4 st.last.toNat ++ leBytes 4 st.roff.toNat

/-- The record of a cursor, 64 bytes. -/
def Cursor.record (k : Cursor) : List Byte :=
  let st := k.cur
  let mid := match st.op with
    | .enum => List.replicate 24 0
    | .expand => leBytes 4 st.knext.toNat ++ leBytes 4 st.kend.toNat ++ leBytes 4 st.rowStart.toNat ++
        leBytes 4 st.row.toNat ++ List.replicate 8 0
    | _ => st.b.bytes
  st.a.bytes ++ mid ++
    leBytes 8 ((CrdOp.code st.op).toNat * 2 ^ 61 + bitN st.a.multi 60 + bitN st.b.multi 59 + bitN st.a.new 58 + bitN st.b.new 57 +
      bitN st.endAll 56 + k.principal.toNat * 2 ^ 40 + k.lastOut.toNat * 2 ^ 8 + bitN k.outNew 7) ++
    leBytes 4 st.cEnd.toNat ++ leBytes 4 k.emitted.toNat

/-- A stream of a record. A position of 0xFFFF_FFFF is taken as unknown, although the known position 2^32 - 1 is written the same way (log
98). -/
def Stream.ofRecord (b : List Byte) (off : Nat) (isNew multi : Bool) : Stream :=
  let w := fieldAt b off 8
  let pos := BitVec.ofNat 32 (fieldAt b (off + 0xC) 4)
  { baddr := BitVec.ofNat 56 w, idx := bits w 56 8, left := fieldAt b (off + 8) 4, pos := pos, unknown := pos == noPos
    last := BitVec.ofNat 32 (fieldAt b (off + 0x10) 4), roff := BitVec.ofNat 32 (fieldAt b (off + 0x14) 4)
    new := isNew, multi := multi }

/-- The cursor state of a record, or its trap (05 R131); with LASTOUT and EMITTED. -/
def recordState (b : List Byte) (at_ : Nat) : Except Trap (CState × Word × Word) :=
  let w := fieldAt b 0x30 8
  let opc := bits w 61 3
  let w32 := fun (off : Nat) => BitVec.ofNat 32 (fieldAt b off 4)
  let a := Stream.ofRecord b 0 (w.testBit 58) (w.testBit 60)
  let st : CrdOp → Stream → CState := fun op y =>
    { op := op, a := a, b := y, cEnd := w32 0x38, endAll := w.testBit 56
      knext := if opc = 4 then w32 0x18 else 0, kend := if opc = 4 then w32 0x1C else 0
      rowStart := if opc = 4 then w32 0x20 else 0, row := if opc = 4 then w32 0x24 else noPos }
  let none_ : Stream := { Stream.start 0 0 0 (w.testBit 59) with new := w.testBit 57 }
  let two := Stream.ofRecord b 0x18 (w.testBit 57) (w.testBit 59)
  let zero := (opc = 0 && fieldAt b 0x18 24 ≠ 0) || (opc = 4 && fieldAt b 0x28 8 ≠ 0)
  let extra := (BitVec.ofNat 32 (bits w 8 32), w32 0x3C)
  if 4 < opc || bits w 52 4 ≠ 0 || bits w 0 7 ≠ 0 || zero then .error illegalNow
  else if a.baddr.toNat % 8 ≠ 0 || (opc ≠ 0 && opc ≠ 4 && two.baddr.toNat % 8 ≠ 0) then .error (trapAt .align 0 at_)
  else
    match opc with
    | 0 => .ok (st .enum none_, extra)
    | 1 => .ok (st .intersect two, extra)
    | 2 => .ok (st .union two, extra)
    | 3 => .ok (st .diff two, extra)
    | _ => .ok (st .expand none_, extra)

/-- The address of a record (12 R288), with its checks. -/
def State.recordAddr (s : State) (l : Lane) (sp : Bool) (b : Reg) : Except Trap Nat :=
  let v := s.regVal l b
  let a := if sp then (v.setWidth 32).toNat else v.toNat
  if a % 64 ≠ 0 then .error (trapAt .align 0 a)
  else if sp then
    if (s.team l.core (s.teamOf l)).inGrant a 64 then .ok a else .error (trapAt .prot 1 a)
  else (s.addrCheck l a 0).map fun _ => a

/-- The four stores of `crd.save` to memory (05 R131): stores of the issuing thread. -/
def State.saveGlobal (s : State) (l : Lane) (a : Nat) (bs : List Byte) : LaneOut :=
  match s.addrCheck l a 0 with
  | .error t => .trap t
  | .ok (g, h) =>
    let fails := if g.win then some (trapAt .prot 2 a)
      else if h == .core l.core then
        match s.homeCheck l.t.vf.toNat l.t.principal.toNat a .store false l.core g with
        | .trap t => some t
        | _ => none
      else none
    match fails with
    | some t => .trap t
    | none => .act fun s => (List.range 4).foldl (fun s i =>
        s.issueAccess l { Access.plain .store (a + 16 * i) .b64 false with
          size := 16, data := BitVec.ofNat 128 (fieldAt bs (16 * i) 16) } g h) s

/-- One lane of `crd.save` (12 R288). -/
def State.crdSaveLane (s : State) (l : Lane) (sp : Bool) (c : Src) (b : Reg) : LaneOut :=
  match s.readCheck l (hinted l 0 [c, .reg b]) with
  | some o => o
  | none =>
    match s.openSlot l (countOf (s.srcVal l c)), s.recordAddr l sp b with
    | none, _ => .trap illegalNow
    | some _, .error t => .trap t
    | some slot, .ok a =>
      let bs := (s.cursor l.core slot).record
      if s.acqHeld l then .wait .acquire
      else if (s.cursor l.core slot).busy ≠ .none then .wait .retry
      else if sp then
        if s.spHeld l true a 64 then .wait .retry
        else .act fun s => (s.spUpdate l a bs).goesOn l.core l.ctx l.nextPc l.yields
      else s.saveGlobal l a bs

/-- `crd.save` (12 R288). -/
def execCrdSave (h : Hdr) (sp : Bool) (c : Src) (b : Reg) (s : State) : Out :=
  .next (s.runInOrder (.crdSave h sp c b) h true false fun s _ l => s.crdSaveLane l sp c b)

/-- Who a lane's own reads are made for. -/
def Lane.asker (l : Lane) : Asker := ⟨l.core, l.t.vf, l.t.principal, l.t.khandle, l.t.grid, l.t.pc⟩

/-- The tag of a lane's reads of a record. -/
def recordTag (l : Lane) : Nat := 2 ^ 22 + l.ctx

/-- The 64 bytes of a record in memory (12 R288) as far as they are read: the bytes, a denied page, and why the reading stops. -/
def State.recordGlobal (s : State) (l : Lane) (a : Nat) : Nat → List Byte → Option DWord → List Byte × Option DWord × UnitOut
  | 0, bs, d => (bs, d, .val 0)
  | n + 1, bs, d =>
    match s.readUnit l.asker (recordTag l) (a + bs.length) 16 false with
    | .denied e => s.recordGlobal l a n (bs ++ List.replicate 16 0) (d.or (some (BitVec.ofNat 64 e.cls)))
    | .val v => s.recordGlobal l a n (bs ++ leBytes 16 v) d
    | x => (bs, d, x)

/-- The denial record of a `crd.load` (12 R288). -/
def State.loadDenial (s : State) (l : Lane) (a : Nat) (cls : DWord) : Denial :=
  { va := a, cls := cls.toNat, principal := l.t.principal.toNat, source := 4, length := 64, pc := l.t.pc, grid := l.t.grid
    khandle := l.t.khandle, homePkg := (s.checkAt l.t.vf.toNat a l.core).1
    homeCore := (s.checkAt l.t.vf.toNat a l.core).2, srcCore := BitVec.ofNat 9 l.core
    srcPkg := s.fabnum }

/-- A lane of `crd.load` waits with what it has read of the record. -/
def State.keepRead (l : Lane) (bs : List Byte) (d : Option DWord) (s : State) : State :=
  (s.modThread l.core l.ctx fun t => { t with read := bs, readDenied := d }).waits l.core l.ctx .retry

/-- A record that was read takes effect (12 R288): its checks, then the cursor of the lowest active lane's principal; while no slot is free
the lane waits with the record. -/
def State.loadRecord (s : State) (l low : Lane) (num a : Nat) (bs : List Byte) (d : Option DWord) : LaneOut :=
  match recordState bs a with
  | .error t => .trap t
  | .ok (st, last, emitted) =>
    let k := { Cursor.ofLane l num st true last emitted with principal := low.t.principal }
    match s.putCursor l.core k with
    | none => .ask (State.keepRead l bs d)
    | some s' => .act fun _ =>
      let s' := match d with
        | some e => s'.appendDenial l.t.vf.toNat (s'.loadDenial l a e)
        | none => s'
      (s'.dropAsks l.core (recordTag l)).goesOn l.core l.ctx l.nextPc l.yields

/-- The record of a lane's `crd.load` from memory: it is read once, unit by unit. -/
def State.loadGlobal (s : State) (low l : Lane) (num a : Nat) : LaneOut :=
  match s.recordGlobal l a (4 - l.t.read.length / 16) l.t.read l.t.readDenied with
  | (bs, d, .val _) => s.loadRecord l low num a bs d
  | (_, _, .fault t) => .trap t
  | (_, _, .fail t) => .trap t
  | (bs, d, .ask) => .ask fun s => State.keepRead l bs d (s.askFar l.asker (recordTag l) (a + bs.length) 16 .load false l.locality)
  | (bs, d, _) => .ask (State.keepRead l bs d)

/-- One lane of `crd.load` (12 R288), after its earlier local accesses (03 R86). -/
def State.crdLoadLane (s : State) (low l : Lane) (sp : Bool) (c : Src) (b : Reg) : LaneOut :=
  match s.readCheck l (hinted l 0 [c, .reg b]) with
  | some o => o
  | none =>
    let num := countOf (s.srcVal l c)
    match s.recordAddr l sp b with
    | .error t => if 3 < num then .trap illegalNow else .trap t
    | .ok a =>
      let tm := s.team l.core (s.teamOf l)
      if 3 < num then .trap illegalNow
      else if s.acqHeld l then .wait .acquire
      else if sp then
        if l.t.read.length = 64 then s.loadRecord l low num a l.t.read none
        else if s.spHeld l true a 64 then .wait .retry
        else if tm.spBad a 64 then .trap (trapAt .poison 0 a)
        else s.loadRecord l low num a (Mem.read tm.sp a 64) none
      else if l.t.read = [] && !(s.openReqs l.core l.ctx).isEmpty then .wait .retry
      else s.loadGlobal low l num a

/-- What a lane of `crd.load` that trapped has asked for and read is gone: its replay reads the record afresh (10 R250). -/
def State.loadFailed (s : State) (l : Lane) : State :=
  (s.dropAsks l.core (recordTag l)).modThread l.core l.ctx fun t => { t with read := [], readDenied := none }

/-- `crd.load` (12 R288). -/
def execCrdLoad (h : Hdr) (sp : Bool) (c : Src) (b : Reg) (s : State) : Out :=
  .next (s.runUnits (.crdLoad h sp c b) h
    (State.runFork true false (fun s low l => s.crdLoadLane low l sp c b) noCheck fun s l => s.loadFailed l))

/-! ## What Harvest does (05 R122, R128, R132 to R134) -/

/-- Who a cursor's reads are made for. -/
def Cursor.asker (k : Cursor) (c : Nat) (pc : Word) : Asker := ⟨c, k.vf, k.principal, k.khandle, k.grid, pc⟩

/-- The tag of a slot's reads. -/
def slotTag (slot : Nat) : Nat := 2 ^ 21 + slot

/-- The environment of a decode: the units that the cursor's operation has read, and the pages that it found denied. -/
def State.henv (s : State) (c : Nat) (k : Cursor) (pc : Word) : HEnv :=
  { rd := fun a =>
      match (k.pages.find? fun e => e.1 == a / 65536).bind Prod.snd with
      | some d => some (.denied d)
      | none => (k.got.find? fun e => e.1 == a).map fun e => .val e.2
    denial := fun a n d =>
      { va := a, cls := d.1.toNat, principal := k.principal.toNat, source := 4, length := n, pc := pc, grid := k.grid
        khandle := k.khandle, homePkg := d.2.1, homeCore := d.2.2, srcCore := BitVec.ofNat 9 c, srcPkg := s.fabnum } }

/-- Denial records appended in order. -/
def State.appendAll (s : State) (v : Nat) (ds : List Denial) : State := ds.foldl (fun s d => s.appendDenial v d) s

/-- The members of a cursor's operation park at it; a replay decodes again (05 R132). -/
def State.parkCrd (s : State) (c slot : Nat) (k : Cursor) (lanes : List (Nat × Nat)) (pc : Word) (t : Trap) : State :=
  let s := s.setCursor c slot { k with stuck := true }
  let ms := lanes.filter fun m => (s.thread c m.2).st != .none
  s.parkWhen
    (FUnit.atIssue c k.vf.toNat (some k.gset) ms t (lanes.map Prod.fst) pc pc 0 (.harvest c slot)) false

/-- A unit of a stream is read (05 R122, R133); where it cannot be yet, the request goes out, the driver is asked, or the members park
(05 R132); denials met before that are recorded. -/
def State.crdUnit (s : State) (c slot : Nat) (k : Cursor) (lanes : List (Nat × Nat)) (pc : Word) (a : Nat) (st : Stream)
    (ds : List Denial) : State :=
  let q := k.asker c pc
  let tag := slotTag slot
  let passed := k.pages.any fun e => e.1 == a / 65536
  let page := fun (d : Option DeniedPage) => if passed then k.pages else (a / 65536, d) :: k.pages
  let at_ := s.streamAt k.vf.toNat a c
  match s.streamUnit q tag a passed with
  | .wait => s
  | .ask => s.askFar q tag a 8 .ro passed k.hint
  | .val v =>
    ((s.streamSeen q a passed k.hint).dropUnits c tag (· == a)).setCursor c slot
      { k with got := (a, v) :: k.got, pages := page none }
  | .denied e => (s.dropUnits c tag (· == a)).setCursor c slot { k with pages := page (some (BitVec.ofNat 12 e.cls, at_.1, at_.2)) }
  | .fault t =>
    let t := st.trap t.cause t.kind
    ((s.dropUnits c tag (· == a)).setCursor c slot { k with stuck := true }).engineRecord q t t.info (.stream c slot)
  | .fail t => ((s.appendAll k.vf.toNat ds).dropAsks c tag).parkCrd c slot k.unread lanes pc (st.trap t.cause t.kind)

/-- A unit of a stream that is read before the one that a decode needs: units are read in any order, whichever block or stream they are of (05
R133; log 1). -/
def State.crdAhead (s : State) (c slot : Nat) (k : Cursor) (pc : Word) (a : Nat) (st : Stream) : Option Nat :=
  let from_ := [st, k.cur.a, k.cur.b].getD (Config.choose s.tick % 3) st
  let b := from_.baddr.toNat + 8 * (Config.choose (s.tick + 1) % (from_.left / 8))
  if b ≠ a && 8 ≤ from_.left && !(k.got.any fun e => e.1 == b) then
    match s.streamUnit (k.asker c pc) (slotTag slot) b (k.pages.any fun e => e.1 == b / 65536) with
    | .val _ | .ask => some b
    | _ => none
  else none

/-- The first unit of a begun block that is not read: its header, or one of its body. -/
def Cursor.missing (k : Cursor) (st : Stream) : Option Nat :=
  let a := st.baddr.toNat
  if k.pages.any (fun e => e.1 == a / 65536 && e.2.isSome) then none
  else
    match k.got.find? fun e => e.1 == a with
    | none => some a
    | some h =>
      let b := Blk.ofNat h.2
      if b.ty = 15 || !b.ok a st.left st.idx then none
      else ((List.range (b.size a / 8)).map fun i => a + 8 * i).find? fun x => !k.got.any fun e => e.1 == x

/-- The unit that a paused cursor still reads: in each stream it runs on to the end of the block that it is decoding (05 R134). -/
def Cursor.toBlockEnd (k : Cursor) : Option (Nat × Stream) := k.begun.findSome? fun st => (k.missing st).map fun a => (a, st)

/-- What a stopped decode does: it reads a unit, or parks its members (05 R132). A paused cursor reads to the ends of the blocks that it is
decoding (05 R134). Denials met before a trap are recorded at the trap, and once more by the replay, which checks the pages again: the
manual does not say whether the first ones stand (log 98). -/
def State.crdStopped (s : State) (c slot : Nat) (k : Cursor) (lanes : List (Nat × Nat)) (pc : Word)
    (x : HStop × List Denial) : State :=
  match x.1 with
  | .ask a st =>
    if k.paused then
      match k.toBlockEnd with
      | some e => s.crdUnit c slot k lanes pc e.1 e.2 x.2
      | none => s
    else
      let k := { k with begun := if k.begun.any (fun e => e.baddr == st.baddr) then k.begun else k.begun ++ [st] }
      (s.ticked.setCursor c slot k).crdUnit c slot k lanes pc ((s.crdAhead c slot k pc a st).getD a) st x.2
  | .fail t => ((s.appendAll k.vf.toNat x.2).dropAsks c (slotTag slot)).parkCrd c slot k.unread lanes pc t

/-- A cursor's operation may read now: it is in its slot, not in the save area (05 R134). -/
def State.crdReady (s : State) (c slot : Nat) (k : Cursor) : Bool := slot < 256 && k.live && !k.stuck && s.crdForked c k.gset

/-- Members of an operation that ended go on. -/
def State.crdDone (s : State) (c : Nat) (lanes : List (Nat × Nat)) (pc : Word) : State :=
  lanes.foldl (fun s l => s.wakeAt c l.2 .harvest (some pc)) s

/-- What a cursor's operation has met so far: its denials. -/
def State.crdMet (s : State) (c : Nat) (k : Cursor) : List Denial :=
  match k.busy with
  | .next _ lanes _ _ pc _ =>
    match (s.henv c k pc).deliver lanes.length k with
    | .error x => x.2
    | .ok x => x.2
  | .split _ _ n i pc _ =>
    match if CrdOp.two k.cur.op then (s.henv c k pc).shareTwo n.toNat i.toNat k.cur else (s.henv c k pc).shareOne n.toNat i.toNat k.cur with
    | .error x => x.2
    | .ok x => x.2
  | .none => []

/-- CRD_NEXT_COMPLETE (05 R127, R128): one more unit is read, or all destinations are written together. -/
def execCrdNextComplete (core slot : Nat) (s : State) : Out :=
  .next (
    let k := s.cursor core slot
    match k.busy with
    | .next _ lanes d p pc len =>
      if !s.crdReady core slot k then s
      else
        match (s.henv core k pc).deliver lanes.length k with
        | .error x => s.crdStopped core slot k lanes pc x
        | .ok ((l, st, look), ds) =>
          if k.paused then s
          else
          let exh := look.isNone
          let s := (s.appendAll k.vf.toNat ds).dropAsks core (slotTag slot)
          let s := lanes.zipIdx.foldl (fun s e =>
            (itemWords d p l (segFlags k.cur.op k.outNew k.lastOut l (look.map Prod.fst) e.2) exh e.2).foldl
              (fun s w => s.writeWord core e.1.2 w.1 w.2) s) s
          let s := s.setCursor core slot { k.unread with
            cur := st, look := look, busy := .none, outNew := k.outNew && l.isEmpty
            lastOut := ((l.getLast?).map Item.c).getD k.lastOut, emitted := k.emitted + BitVec.ofNat 32 l.length }
          s.crdDone core lanes (pc + BitVec.ofNat 32 len)
    | _ => s)

/-- CRD_SPLIT_COMPLETE (05 R129, R130). -/
def execCrdSplitComplete (core slot : Nat) (s : State) : Out :=
  .next (
    let k := s.cursor core slot
    match k.busy with
    | .split _ lanes n i pc len =>
      if !s.crdReady core slot k then s
      else
        let e := s.henv core k pc
        match if CrdOp.two k.cur.op then e.shareTwo n.toNat i.toNat k.cur else e.shareOne n.toNat i.toNat k.cur with
        | .error x => s.crdStopped core slot k lanes pc x
        | .ok (st, ds) =>
          if k.paused then s
          else
          let s := (s.appendAll k.vf.toNat ds).dropAsks core (slotTag slot)
          let s := s.setCursor core slot { k.unread with cur := st, look := none, busy := .none, outNew := true }
          s.crdDone core lanes (pc + BitVec.ofNat 32 len)
    | _ => s)

end Sys2Proof.Machine
end

