-- ==== Sys2Proof/Machine/Sync.lean ====
section
/-! DEFINITION. Class 6, register claims (12 R291, 01 R17 to R19), and class 7 without the register moves (12 R292 to R300):
barriers, arrival counters, traps, `halt` and the invalidates. -/

namespace Sys2Proof.Machine

/-! ## Register claims (12 R291, 01 R17 to R19) -/

/-- `rgive` lowers the budget (01 R17): the release stays outstanding until its words are FULL. -/
def State.giveBudget (s : State) (c g r : Nat) : State :=
  let k := s.group c g
  (s.modGroup c g fun k => { k with budget := k.budget - r }).modTeam c k.team fun t =>
    { t with releases := t.releases ++ [⟨g, k.budget, k.budget - r⟩] }

/-- Every word of a release is FULL. -/
def State.releaseFull (s : State) (c : Nat) (r : Release) : Bool :=
  (s.group c r.gset).present.all fun x =>
    (List.range (r.hi - r.lo)).all fun i => ((s.thread c x).reg (r.lo + i)).st == .full

/-- The releases of a team whose words are all FULL join the free bytes (01 R17). -/
def State.takeReleases (s : State) (c t : Nat) : State :=
  let done := (s.team c t).releases.filter (s.releaseFull c)
  let bytes := (done.map fun r => unitBytes (s.group c r.gset).width (r.hi - r.lo)).foldl (· + ·) 0
  s.modTeam c t fun m =>
    { m with free := m.free + bytes, releases := m.releases.filter fun r => !s.releaseFull c r }

/-- The set goes on at the next instruction. -/
def setGoes (ls : List Lane) : SetOut := .write (ls.map fun l => (l, []))

/-- The number of registers of a claim or release of 8k registers; a k that no budget allows counts as 64. -/
def claimRegs (k : Nat) : Nat := 8 * Nat.min k 8

/-- `rgive` (12 R291). -/
def execRgive (h : Hdr) (k : Src) (s : State) : Out :=
  .next (s.runSet (.rgive h k) h fun s ls =>
    match s.wholeRead ls [k], ls with
    | some o, _ => o
    | none, l :: _ =>
      match l.t.group with
      | none => .act id
      | some g =>
        let r := claimRegs (s.groupNat ls k)
        if r = 0 then setGoes ls
        else if (s.group l.core g.1).budget < 8 + r then .trap illegalNow
        else .act fun s =>
          let s := ((s.giveBudget l.core g.1 r).takeReleases l.core (s.group l.core g.1).team)
          ls.foldl (fun s l => s.goesOn l.core l.ctx l.nextPc l.yields) s
    | none, [] => .act id)

/-- `rclaim` (12 R291): the claim joins the pool's queue, and the set waits. -/
def execRclaim (h : Hdr) (k : Src) (s : State) : Out :=
  .next (s.runSet (.rclaim h k) h fun s ls =>
    match s.wholeRead ls [k], ls with
    | some o, _ => o
    | none, l :: _ =>
      match l.t.group with
      | none => .act id
      | some g =>
        let r := claimRegs (s.groupNat ls k)
        if r = 0 then setGoes ls
        else if 64 < (s.group l.core g.1).budget + r then .trap illegalNow
        else .act fun s =>
          let s := s.modGroup l.core g.1 fun k => { k with claim := some r }
          let s := s.modTeam l.core (s.group l.core g.1).team fun t => { t with claims := t.claims ++ [(g.1, r)] }
          ls.foldl (fun s l => s.waits l.core l.ctx (.claim l.nextPc)) s
    | none, [] => .act id)

/-- The bytes of a claim. -/
def State.claimBytes (s : State) (c : Nat) (e : Nat × Nat) : Nat := unitBytes (s.group c e.1).width e.2

/-- The oldest claim of a team that may be served: it fits, and its group's own releases are complete. -/
def State.claimReady (s : State) (c t : Nat) : Option (Nat × Nat) :=
  match (s.team c t).claims with
  | [] => none
  | e :: _ =>
    if s.claimBytes c e ≤ (s.team c t).free && !(s.team c t).releases.any fun r => r.gset == e.1 then some e
    else none

/-- A member whose `rclaim` is served goes on. -/
def State.wakeClaim (s : State) (c x : Nat) : State :=
  let t := s.thread c x
  match t.st, t.kept with
  | .waiting (.claim n), _ => s.wakeAt c x (.claim n) (some n)
  | .halted (some (.claim n)), _ => s.wakeAt c x (.claim n) (some n)
  | _, some (.claim n) => s.wakeAt c x (.claim n) (some n)
  | _, _ => s

/-- CLAIM_SERVED (01 R18, 12 R291): the budget rises, and the new registers are zero and FULL. -/
def execClaimServed (core team : Nat) (s : State) : Out :=
  .next (match s.claimReady core team with
    | none => s
    | some e =>
      let old := (s.group core e.1).budget
      let bytes := s.claimBytes core e
      let s := s.modTeam core team fun t => { t with claims := t.claims.drop 1, free := t.free - bytes }
      let s := s.modGroup core e.1 fun k => { k with budget := old + e.2, claim := none }
      (s.group core e.1).present.foldl (fun s x =>
        (s.modThread core x fun t => { t with regs := t.regs.filter fun w => w.1 < old }).wakeClaim core x) s)

/-- RELEASE_COMPLETE (01 R17). -/
def execReleaseComplete (core team : Nat) (s : State) : Out := .next (s.takeReleases core team)

/-- The members of a group that wait in its `rclaim`, as (lane, context). -/
def State.claimLanes (s : State) (c g : Nat) : List (Nat × Nat) :=
  (s.membersOf c g).filter fun m => match (s.thread c m.2).st with
    | .waiting (.claim _) => true
    | _ => false

/-- Every group of a team that has not ended is blocked in `rclaim`, and no release is outstanding (01 R19). -/
def State.deadlocked (s : State) (c t : Nat) : Bool :=
  let m := s.team c t
  let gs := s.liveGroups c t
  m.live && !gs.isEmpty && m.releases.isEmpty && (s.claimReady c t).isNone &&
    gs.all fun g => m.claims.any (fun e => e.1 == g) && !(s.claimLanes c g).isEmpty

/-- A blocked group parks at its `rclaim` (12 R291): origin "team deadlock". -/
def State.parkClaim (s : State) (c g : Nat) : State :=
  let ls := s.claimLanes c g
  let x := ((lowestLane ls).map Prod.snd).getD 0
  let t := s.thread c x
  s.parkWhen
    (FUnit.atIssue c t.vf.toNat (some g) ls (trapOf .teamDeadlock) (ls.map Prod.fst) t.pc t.pc 4 .claim) false

/-- TEAM_DEADLOCK (01 R19): every blocked group traps, with no budget changed. -/
def execTeamDeadlock (core team : Nat) (s : State) : Out :=
  .next (
    if s.deadlocked core team then
      let gs := (s.liveGroups core team).foldl (fun l g => insertPc g l) []
      gs.foldl (fun s g => s.parkClaim core g) (s.modTeam core team fun t => { t with claims := [] })
    else s)

/-! ## Barriers (12 R293, R294, 01 R36, R37) -/

/-- A member of the group has a local access that is not performed: its arrival takes no effect yet (03 R90). -/
def State.groupLocal (s : State) (c g : Nat) : Bool := (s.group c g).present.any fun x => s.localOpen c x

/-- The lanes of a set wait at a barrier; they go on after it. -/
def State.barWait (s : State) (ls : List Lane) (w : Wait) : State :=
  ls.foldl (fun s l => (s.modThread l.core l.ctx fun t => t.moveTo l.nextPc).waits l.core l.ctx w) s

/-- The shape of a barrier: the arrival of the set's group. -/
def State.barrier (s : State) (ls : List Lane) (f : State → Nat → Nat → State) : SetOut :=
  match ls.head?.bind fun l => l.t.group.map fun g => (l.core, g.1) with
  | none => .act id
  | some e => if s.groupLocal e.1 e.2 then .wait else .act fun s => f s e.1 e.2

/-- `bar.team` (12 R293). -/
def execBarTeam (h : Hdr) (s : State) : Out :=
  .next (s.runSet (.barTeam h) h fun s ls =>
    s.barrier ls fun s c g =>
      ((s.barWait ls .barTeam).modGroup c g fun k => { k with arrTeam := true }).tryBarTeam c (s.group c g).team)

/-- `bar.role` (12 R293). -/
def execBarRole (h : Hdr) (s : State) : Out :=
  .next (s.runSet (.barRole h) h fun s ls =>
    s.barrier ls fun s c g =>
      ((s.barWait ls .barRole).modGroup c g fun k => { k with arrRole := true }).tryBarRole c (s.group c g).team
        (s.group c g).role)

/-- A route tag of a partition; not configured at reset (log 5). -/
def State.tree (s : State) (p tag : Nat) : Tree := Tbl.get default (s.part p).trees tag

/-- The state with a route tag changed. -/
def State.modTree (s : State) (p tag : Nat) (f : Tree → Tree) : State :=
  s.modPart p fun q => { q with trees := Tbl.set q.trees tag (f (Tbl.get default q.trees tag)) }

/-- The groups expected at a core. -/
def Tree.expected (t : Tree) (c : Nat) : Nat := Tbl.get 0 t.exp c

/-- The cores of a tag's set. -/
def Tree.cores (t : Tree) : List Nat := (t.exp.filter fun e => e.2 != 0).map Prod.fst

/-- SPAN: the set lies on more than one die (19 R416). -/
def Tree.span (t : Tree) : Bool := t.cores.any fun c => dieOf c != dieOf (t.cores.headD 0)

/-- The arrivals at a core in a round. -/
def Tree.arrived (t : Tree) (c r : Nat) : Nat := t.arrivals.countP fun a => a.1 == c && a.2.2 == r

/-- The round that an arrival at a core counts toward, searched over n rounds (12 R294). -/
def Tree.roundFor (t : Tree) (c : Nat) : Nat → Nat → Nat
  | 0, r => r
  | n + 1, r => if t.arrived c r < t.expected c then r else Tree.roundFor t c n (r + 1)

/-- Every core of the set has reached its expected count in the open round. -/
def Tree.full (t : Tree) : Bool := !t.cores.isEmpty && t.cores.all fun c => t.expected c ≤ t.arrived c t.round

/-- An open round that is full completes: its groups are released 40 or 160 cycles later (01 R37). -/
def Tree.close (t : Tree) (clk : DWord) : Tree :=
  if t.full then
    { t with releases := t.releases ++ [(t.round, clk + if t.span then 160 else 40)], round := t.round + 1 }
  else t

/-- An arrival of a group. -/
def Tree.arrive (t : Tree) (c g : Nat) (clk : DWord) : Tree :=
  ({ t with arrivals := t.arrivals ++ [(c, g, t.roundFor c (t.arrivals.length + 1) t.round)] } : Tree).close clk

/-- A tag is configured and its set includes a core (12 R294). -/
def Tree.serves (t : Tree) (c : Nat) : Bool := t.valid && t.expected c != 0

/-- `bar.tree` (12 R294). -/
def execBarTree (h : Hdr) (tag : Src) (s : State) : Out :=
  .next (s.runSet (.barTree h tag) h fun s ls =>
    match s.wholeRead ls [tag] with
    | some o => o
    | none =>
      let n := s.groupNat ls tag
      let c := (ls.head?.map Lane.core).getD 0
      match s.partOf c with
      | none => .trap illegalNow
      | some p =>
        if 7 < n || !(s.tree p n).serves c then .trap illegalNow
        else s.barrier ls fun s c g => (s.barWait ls (.barTree n)).modTree p n fun t => t.arrive c g s.clk)

/-- TREE_RELEASE (01 R37): the groups of a completed round go on. -/
def execTreeRelease (part tag : Nat) (s : State) : Out :=
  .next (match (s.tree part tag).releases with
    | [] => s
    | e :: _ =>
      if e.2.toNat ≤ s.clk.toNat then
        let out := (s.tree part tag).arrivals.filter fun a => a.2.2 == e.1
        let s := s.modTree part tag fun t =>
          { t with releases := t.releases.drop 1, arrivals := t.arrivals.filter fun a => a.2.2 != e.1 }
        out.foldl (fun s a => s.wakeMembers a.1 a.2.1 (.barTree tag)) s
      else s)

/-! ## Arrival counters (12 R295, R296) -/

/-- The shape of `arrive` and `wait.ctr`: the sources, the acquire, the offset's checks, a poisoned word. -/
def State.counterOp (s : State) (l : Lane) (off n : Src) (f : Nat → Word → LaneOut) : LaneOut :=
  match s.readCheck l (hinted l 0 [off, n]) with
  | some o => o
  | none =>
    let o := countOf (s.srcVal l off)
    if s.acqHeld l then .wait .acquire
    else
      match s.spCheck l o 8 with
      | some t => .trap t
      | none =>
        if (s.team l.core (s.teamOf l)).spBad o 8 then .trap (trapAt .poison 0 o)
        else f o ((s.srcVal l n).setWidth 32)

/-- One `arrive` on the state. -/
def State.arriveAt (s : State) (l : Lane) (off : Nat) (n : Word) : State :=
  let w := s.counterWord l.core (s.teamOf l) off
  s.setCounter l.core (s.teamOf l) off (counterMk (bits w 59 5) (bits w 32 27) (bits w 0 32 + n.toNat))

/-- `arrive` (12 R296): performed after every earlier local access of its thread (03 R91). -/
def execArrive (h : Hdr) (off n : Src) (s : State) : Out :=
  .next (s.runWhole (.arrive h off n) h fun s l =>
    s.counterOp l off n fun o v =>
      if s.localOpen l.core l.ctx then .wait .retry
      else .act fun s => (s.arriveAt l o v).goesOn l.core l.ctx l.nextPc l.yields)

/-- `wait.ctr` (12 R296): tested when it executes, then after every update. -/
def execWaitCtr (h : Hdr) (off target : Src) (s : State) : Out :=
  .next (s.runWhole (.waitCtr h off target) h fun s l =>
    s.counterOp l off target fun o v =>
      let w := s.counterWord l.core (s.teamOf l) o
      match counterTest w v with
      | some (.ok ()) => .write [] none
      | some (.error e) => .trap (counterTrap w (BitVec.ofNat 32 o) e)
      | none => .wait (.counter (BitVec.ofNat 32 o) v l.nextPc))

/-! ## Traps (12 R297) -/

/-- The unit parks after its instruction, with the trap of its lowest lane: 12 R297 and R302 do not say whose code INFO holds where the lanes'
codes differ, nor what it holds for `brk`, which has none and leaves 0 (log 102: DESIGN CHOICE). -/
def State.trapLanes (s : State) (ls : List Lane) (t : Trap) : State :=
  let s := ls.foldl (fun s l => s.modThread l.core l.ctx fun t => t.moveTo l.nextPc) s
  s.parkLanes ls t (ls.map Lane.lane) ((ls.head?.map Lane.nextPc).getD 0) .next

/-- The lanes of a unit trap on purpose; a lane whose code is EMPTY waits. Where a code may not be read every active lane faults (12 R281). -/
def State.trapUnit (srcs : List Src) (f : State → Lane → Trap) (s : State) (ls : List Lane) : State :=
  let outs := ls.map fun l => (l, s.readCheck l (hinted l 0 srcs))
  match outs.findSome? fun o => o.2.bind LaneOut.trapOf with
  | some t => s.parkLanes ls t (ls.map Lane.lane) ((ls.head?.map fun l => l.t.pc).getD 0) .reexec
  | none =>
    let s1 := outs.foldl (fun s o => s.applyOut o.1 (o.2.getD (.act id))) s
    let now := (outs.filter fun o => o.2.isNone).map Prod.fst
    match now with
    | [] => s1
    | l :: _ => s1.trapLanes now (f s l)

/-- `trap` (12 R297). -/
def execTrap (h : Hdr) (code : Src) (s : State) : Out :=
  .next (s.runUnits (.trap h code) h
    (State.trapUnit [code] fun s l => ⟨.swTrap, 0, 0, ((s.srcVal l code).setWidth 16).setWidth 32⟩))

/-- `brk` (12 R297). -/
def execBrk (h : Hdr) (s : State) : Out :=
  .next (s.runUnits (.brk h) h (State.trapUnit [] fun _ _ => trapOf .breakpoint))

/-! ## Privileged control (12 R300) -/

/-- `halt`: the thread stops until the die controller wakes it. -/
def execHalt (h : Hdr) (s : State) : Out :=
  .next (s.runLanes (.halt h) h fun _ l =>
    .act fun s => (s.modThread l.core l.ctx fun t => t.moveTo l.nextPc).waits l.core l.ctx .firmware)

/-- FIRMWARE_WAKE (12 R300). -/
def execFirmwareWake (core ctx : Nat) (s : State) : Out := .next (s.wakeAt core ctx .firmware none)

/-- A TLB entry maps the page that holds an address. -/
def TlbEntry.maps (e : TlbEntry) (a : Nat) : Bool :=
  let n := (Pte.ofNat e.pte.toNat).frames
  a / 65536 / n * n == e.page

/-- TLB entries of a VF dropped at every core where it may run (12 R300), and at a window page's home where it may not, so that every
later access uses the new entry (19 R399): all, or those of a page. -/
def State.tlbDrop (s : State) (v : Nat) (a : Option Nat) : State :=
  { s with cores := s.cores.map fun e =>
      (e.1, { e.2 with tlb := e.2.tlb.filter fun x =>
        !(x.vf == v && match a with
          | none => true
          | some a => x.maps a) }) }

/-- The page of a VF that holds an address, as its start and size: the page table's; where this package has no entry for it (unmapped,
host, or homed in another package), the largest that its region allows (02 R53, log 49). -/
def State.pageOf (s : State) (v a : Nat) : Nat × Nat :=
  let n := match s.homeOf v (a % 2 ^ 56) 0 with
    | .ok (g, .core c) => match s.walk v (a % 2 ^ 56) c g.isHost with
      | .ok p => p.frames
      | .error _ => g.granule
    | .ok (g, _) => g.granule
    | .error _ => 16384
  (a / (65536 * n) * (65536 * n), 65536 * n)

/-- An invalidate of one lane; a VF number of 1,024 or more traps. -/
def State.invLane (s : State) (l : Lane) (srcs : List Src) (f : State → Nat → Nat → State) : LaneOut :=
  s.compute l srcs [] fun vs =>
    let v := countOf (vs.getD 0 0)
    if 1024 ≤ v then .trap illegalNow
    else .act fun s => (f s v (vs.getD 1 0).toNat).goesOn l.core l.ctx l.nextPc l.yields

/-- `tlbinv.all` (12 R300). -/
def execTlbinvAll (h : Hdr) (v : Src) (s : State) : Out :=
  .next (s.runWhole (.tlbinvAll h v) h fun s l => s.invLane l [v] fun s v _ => s.tlbDrop v none)

/-- `tlbinv.page` (12 R300). -/
def execTlbinvPage (h : Hdr) (v a : Src) (s : State) : Out :=
  .next (s.runWhole (.tlbinvPage h v a) h fun s l => s.invLane l [v, a] fun s v a => s.tlbDrop v (some a))

/-- `roinv.all` (12 R300). -/
def execRoinvAll (h : Hdr) (v : Src) (s : State) : Out :=
  .next (s.runWhole (.roinvAll h v) h fun s l => s.invLane l [v] fun s v _ => s.roDrop v none)

/-- `roinv.page` (12 R300). -/
def execRoinvPage (h : Hdr) (v a : Src) (s : State) : Out :=
  .next (s.runWhole (.roinvPage h v a) h fun s l => s.invLane l [v, a] fun s v a => s.roDrop v (some (s.pageOf v a)))

end Sys2Proof.Machine
end

