-- ==== Sys2Proof/Machine/Replay.lean ====
section
/-! DEFINITION. The return from a trap: replay and kill of parked units and waiting engine elements (10 R250, R251, 20 R420,
R421, 12 R291, 04 R108, 05 R132), and records that wait for room in a fault queue (20 R419). -/

namespace Sys2Proof.Machine

/-! ## Kept requests (10 R248, R250) -/

/-- The check of a kept access, made again: its region and home, or its trap (10 R228 to R230, R236). -/
def State.recheck (s : State) (r : Req) : Except Trap Home :=
  let a := r.va.toNat
  if a ≥ 2 ^ 56 then .error (trapAt .pageFault 1 a)
  else
    match s.homeOf r.vf.toNat a r.core with
    | .error t => .error t
    | .ok (g, h) =>
      if r.size ≠ 0 ∧ a % r.size ≠ 0 then .error (trapAt .align 0 a)
      else if r.kind = .mcst then
        if g.replicated then .ok (s.primaryOf g a) else .error (trapAt .prot 3 a)
      else if AccKind.writes r.kind && g.win then .error (trapAt .prot 2 a)
      else .ok h

/-- A kept request as a replay redoes it: a performed one stands, any other is checked again and not sent yet. -/
def State.redo (s : State) (r : Req) : Req :=
  if r.stat = .performed then r
  else
    match s.recheck r with
    | .error t => { r with stat := .faulted t, known := true }
    | .ok h =>
      { r with
        stat := .unsent, known := false, again := true, home := h, isLocal := h == .core r.core
        win := ((s.regionOf r.vf.toNat r.va.toNat).map fun g => g.win).getD false }

/-- The kept requests of a unit join those on their way, in lane order; the unit is done with the last response. -/
def State.redoUnit (s : State) (u : FUnit) : State :=
  let rs := u.reqs.map s.redo
  let s := { s with
    units := s.units.map fun v => if v.id = u.id then { v with busy := true } else v
    reqs := s.reqs ++ rs }
  rs.foldl (fun s r => if r.stat = .unsent then s.trySend r else s) s

/-! ## Replay (20 R420, R421) -/

/-- The unit of a record that waits for a command. -/
def State.unitAt (s : State) (v : Nat) (seq : DWord) : Option FUnit :=
  s.units.find? fun u => u.vf == v && u.seq == some seq && !u.busy

/-- FQCMD's status. -/
def State.fqStatus (s : State) (v n : Nat) : State := s.modVf v fun d => { d with fqStat := n }

/-- A unit without threads is settled. -/
def State.dropUnit (s : State) (u : FUnit) : State := { s with units := s.units.filter fun v => v.id != u.id }

/-- An element that waits for the driver. -/
def State.elemStuck (s : State) (core op elem : Nat) : Bool :=
  (s.core core).copies.any (fun o => o.id == op && o.stuck.contains elem) ||
    (s.core core).spills.any fun o => o.id == op && o.stuck.contains elem

/-- A waiting element is retried (04 R108). -/
def State.unstick (s : State) (core op elem : Nat) : State :=
  (s.modCopy core op fun o => { o with stuck := o.stuck.filter (· != elem), left := o.left ++ [elem] }).modSpill
    core op fun o => { o with stuck := o.stuck.filter (· != elem), left := o.left ++ [elem] }

/-- The decode of a cursor slot may go on. -/
def State.unstickCursor (s : State) (core slot : Nat) : State :=
  if (s.cursor core slot).live then s.setCursor core slot { s.cursor core slot with stuck := false } else s

/-- The claim of a group joins the back of its pool's queue (12 R291). -/
def State.reclaim (s : State) (c g : Nat) : State :=
  match (s.group c g).claim with
  | none => s
  | some r => s.modTeam c (s.group c g).team fun t => { t with claims := t.claims ++ [(g, r)] }

/-- A saved buffer entry is restored at its unit's replay, into a free entry (10 R248). -/
def State.restoreBuf (s : State) (u : FUnit) : State × FUnit :=
  if u.saved then
    let b := s.bufEntry u.core u.id
    let u' := { u with buf := some b.2, saved := false }
    ({ b.1 with units := b.1.units.map fun v => if v.id = u.id then u' else v }, u')
  else (s, u)

/-- A free thread that executes its access again does so after its earlier ones (03 R96). -/
def State.afterEarlier (s : State) (u : FUnit) : State :=
  u.threads.foldl (fun s e =>
    if (s.openReqs u.core e.2).isEmpty then s else s.modThread u.core e.2 fun t => { t with kept := some .drained }) s

/-- The replay of a unit (10 R250). A free thread that stood at its access executes it again. -/
def State.resumeUnit (s : State) (u : FUnit) : State :=
  match u.resume with
  | .requests =>
    if u.gset.isNone && u.reqs.all fun r => r.held then (s.afterEarlier u).unitDone { u with reqs := [] }
    else s.redoUnit u
  | .claim => (s.unitDone u).reclaim u.core (u.gset.getD 0)
  | .element core op elem => (s.dropUnit u).unstick core op elem
  | .stream core slot => (s.dropUnit u).unstickCursor core slot
  | .harvest core slot => (s.unitDone u).unstickCursor core slot
  | .reexec | .next | .none => s.unitDone u

/-- REPLAY of a unit (10 R248, R250). -/
def State.replayUnit (s : State) (u : FUnit) : State := (s.restoreBuf u).1.resumeUnit (s.restoreBuf u).2

/-- The unit of a record still has something that waits. -/
def State.settled (s : State) (u : FUnit) : Bool :=
  match u.resume with
  | .element core op elem => !s.elemStuck core op elem
  | .stream core slot => !((s.cursor core slot).live && (s.cursor core slot).stuck)
  | _ => false

/-- A command on a record: status 2 where nothing waits on it (20 R420). -/
def State.command (s : State) (v : Nat) (seq : DWord) (f : State → FUnit → State) : State :=
  if (s.vf v).rst then s.fqStatus v 2
  else
    match s.unitAt v seq with
    | none => s.fqStatus v 2
    | some u => if s.settled u then (s.dropUnit u).fqStatus v 2 else (f s u).fqStatus v 0

/-- REPLAY (20 R420). -/
def execReplay (vf : Nat) (seq : DWord) (s : State) : Out := .next (s.command vf seq State.replayUnit)

/-! ## Kill (20 R420) -/

/-- An operation ends with status PAGE_FAULT. -/
def State.endOp (s : State) (core op : Nat) : State :=
  (s.modCopy core op fun o => { o with err := some .pageFault, left := [], stuck := [] }).modSpill core op fun o =>
    o.fail .pageFault

/-- The members of a cursor's operation park with PAGE_FAULT (05 R132); the denials met are recorded, and a replay decodes afresh. -/
def State.endDecode (s : State) (core slot : Nat) (t : Trap) : State :=
  let k := s.cursor core slot
  let s1 := (s.appendAll k.vf.toNat (s.crdMet core k)).dropAsks core (slotTag slot)
  match k.busy with
  | .next _ lanes _ _ pc _ => s1.parkCrd core slot k.unread lanes pc t
  | .split _ lanes _ _ pc _ => s1.parkCrd core slot k.unread lanes pc t
  | .none => s

/-- A cursor's operation whose members exit is gone. -/
def State.endCrd (s : State) (core slot : Nat) : State :=
  if (s.cursor core slot).live then
    s.setCursor core slot { s.cursor core slot with stuck := false, busy := .none }
  else s

/-- The threads of a unit exit, in lane order. -/
def State.exitUnit (s : State) (u : FUnit) : State :=
  u.threads.foldl (fun s e => s.exitThread u.core e.2) ((s.dropUnit u).freeBuf u)

/-- The kill of a unit. -/
def State.killUnit (s : State) (u : FUnit) : State :=
  match u.resume with
  | .element core op _ => (s.dropUnit u).endOp core op
  | .stream core slot => (s.dropUnit u).endDecode core slot { u.trap with cause := .pageFault }
  | .harvest core slot => (s.endCrd core slot).exitUnit u
  | _ => s.exitUnit u

/-- KILL (20 R420). -/
def execKill (vf : Nat) (seq : DWord) (s : State) : Out := .next (s.command vf seq State.killUnit)

/-! ## Held records (20 R419) -/

/-- FAULT_QUEUE_RETRY: a held record whose 1,024 cycles are over tries again for a slot. -/
def execFaultQueueRetry (n : Nat) (s : State) : Out :=
  .next (match s.held[n]? with
    | none => s
    | some h =>
      if s.clk.toNat < h.retry.toNat then s
      else
        match s.fqAppend h.vf h.bytes with
        | none => { s with held := s.held.map fun k => if k = h then { k with retry := s.clk + 1024 } else k }
        | some (s', seq) =>
          ({ s' with
            held := s'.held.eraseIdx n
            units := s'.units.map fun u => if some u.id = h.unit then { u with seq := seq } else u } : State).fqHeld
              h.vf)

end Sys2Proof.Machine
end

