-- ==== Sys2Proof/Machine/Fetch.lean ====
section
/-! DEFINITION. Fetch (08 R170 to R173, R192 steps 1 and 2), the class of an instruction for the picker (01 R12, R34), safe points
(13 R311, R312) and the dictionaries of a core (13 R310). -/

namespace Sys2Proof.Machine

/-! ## Fetch -/

/-- The parcels of a kernel from a PC on, at most six. -/
def Kernel.parcels (k : Kernel) (pc : Nat) : List (BitVec 16) := (k.code.drop pc).take 6

/-- The instruction word at a PC: a long word, or the dictionary word of a short parcel; none where none stands there. -/
def Kernel.wordAt (k : Kernel) (pc : Nat) : Option (BitVec 96) :=
  match k.parcels pc with
  | p0 :: rest =>
    if p0.getLsbD 15 then
      if (p0.extractLsb' 10 5).toNat = 0 then k.dict[(p0.extractLsb' 0 10).toNat]? else none
    else
      match rest with
      | [p1, p2, p3, p4, p5] => some (longWord p0 p1 p2 p3 p4 p5)
      | _ => none
  | [] => none

/-- The kernel of a thread. -/
def State.kernelOf (s : State) (t : Thread) : Kernel := s.kernel t.vf.toNat t.khandle.toNat

/-- The instruction word at which a thread stands. -/
def State.wordOf (s : State) (t : Thread) : Option (BitVec 96) := (s.kernelOf t).wordAt t.pc.toNat

/-- The instruction and the parcels that an issue takes, or why there is none: a short parcel's dictionary word stands in the
issue. -/
def State.fetch (s : State) (i : Issue) : Except DecErr (Instr × Nat) :=
  match i.word with
  | some w => (decodeWord w).map fun x => (x, i.len)
  | none =>
    match i.lanes with
    | [] => .error .parcel
    | x :: _ => decodeParcels ((s.kernelOf (s.thread i.core x)).parcels i.pc.toNat)

/-! ## Classes -/

/-- The opcode is group-scoped (01 R12). -/
def scopedOpcode (op : BitVec 9) : Bool :=
  op.extractLsb' 6 3 == 5#3 ||
    [0x1C0, 0x1C1, 0x1C2, 0x18A, 0x18B, 0x182, 0x183, 0x184, 0x187].contains op.toNat

/-- A thread stands at a group-scoped instruction. -/
def State.atScoped (s : State) (t : Thread) : Bool :=
  match s.wordOf t with
  | some w => scopedOpcode (opcodeOf w)
  | none => false

/-- The class of a thread (01 R34): kernel handle, VF, PC, and the group of a group-scoped instruction. A firmware thread is in
a class apart (08 R190). -/
def State.classOf (s : State) (t : Thread) : BitVec 16 × BitVec 10 × Word × Option Nat × Bool :=
  (t.khandle, t.vf, t.pc, if s.atScoped t then t.group.map Prod.fst else none, t.priv)

/-! ## Safe points (13 R311, R312) -/

/-- The thread stands at an instruction that carries hint bit 80. -/
def State.atSafeWord (s : State) (t : Thread) : Bool :=
  match s.wordOf t with
  | some w => w.getLsbD 80
  | none => false

/-- A wait at an instruction that has not executed. -/
def Wait.before : Wait → Bool
  | .words _ | .gscope | .set | .drained | .fence _ | .acquire | .dict | .retry | .reserve => true
  | _ => false

/-- The thread waits at an instruction that it has not executed: a lane of a fork that has not acted is one such. -/
def Thread.waitsBefore (t : Thread) (w : Wait) : Bool :=
  w.before || (w == .fork && t.fork.any fun e => !e.2)

/-- The thread is at a safe point (13 R312). -/
def State.atSafePoint (s : State) (t : Thread) : Bool :=
  match t.st with
  | .ready => (t.kept.all fun w => t.waitsBefore w) && s.atSafeWord t
  | .waiting w => t.waitsBefore w && s.atSafeWord t
  | _ => false

/-- The live registers recorded for the safe point at a PC; every register where there is no entry. -/
def Kernel.liveRegs (k : Kernel) (pc : Word) : DWord :=
  match k.safe.find? fun e => e.pc == pc with
  | some e => e.glive
  | none => BitVec.allOnes 64

/-- The live uniform registers of the safe point at a PC. -/
def Kernel.liveSet (k : Kernel) (pc : Word) : Word :=
  match k.safe.find? fun e => e.pc == pc with
  | some e => e.slive
  | none => BitVec.allOnes 32

/-- The live accumulator blocks of the safe point at a PC. -/
def Kernel.liveAcc (k : Kernel) (pc : Word) : Word :=
  match k.safe.find? fun e => e.pc == pc with
  | some e => e.aclive
  | none => BitVec.allOnes 32

/-- The live scratchpad blocks of the safe point at a PC. -/
def Kernel.liveSp (k : Kernel) (pc : Word) : BitVec 96 :=
  match k.safe.find? fun e => e.pc == pc with
  | some e => e.splive
  | none => BitVec.allOnes 96

/-! ## Dictionaries (13 R310) -/

/-- The dictionary of a kernel is loaded at a core; a kernel without one needs none. -/
def State.dictLoaded (s : State) (c v h : Nat) : Bool :=
  (s.kernel v h).dict.isEmpty || (s.core c).dicts.any fun d => d.vf == v && d.handle == h

/-- A kernel of a core issues: its dictionary is the last used one. -/
def State.dictUse (s : State) (c v h : Nat) : State :=
  s.modCore c fun k => { k with dicts := k.dicts.map fun d =>
    if d.vf = v ∧ d.handle = h then { d with used := true, last := s.nextIssue } else d }

/-- The dictionary that may go: of those whose kernel has issued since the load, the one that issued least recently. -/
def oldestDict : List Dict → Option Dict
  | [] => none
  | d :: ds =>
    match oldestDict ds with
    | none => if d.used then some d else none
    | some e => if d.used && d.last ≤ e.last then some d else some e

/-- The core is to load a dictionary that is absent: at an admission, or where a thread comes to a short parcel of it (13 R310). -/
def State.wantDict (s : State) (c v h : Nat) : State :=
  if s.dictLoaded c v h || (s.core c).dictWant.contains (v, h) then s
  else s.modCore c fun k => { k with dictWant := k.dictWant ++ [(v, h)] }

/-- DICTIONARY_LOAD (13 R310): an absent dictionary finishes loading, where one of the four places is free or may be freed. -/
def execDictionaryLoad (core vf handle : Nat) (s : State) : Out :=
  .next (
    if s.dictLoaded core vf handle then s
    else
      let new : Dict := ⟨vf, handle, false, s.nextIssue⟩
      let k := { s.core core with dictWant := (s.core core).dictWant.filter (· != (vf, handle)) }
      if k.dicts.length < 4 then s.setCore core { k with dicts := k.dicts ++ [new] }
      else
        match oldestDict k.dicts with
        | none => s
        | some d => s.setCore core { k with dicts := (k.dicts.filter fun e => e != d) ++ [new] })

/-- SHORT_PARCEL (08 R172): the dictionary word stands in for the parcel; its threads wait while the dictionary is absent, and
trap where the index is beyond it. -/
def execShortParcel (n : BitVec 10) (s : State) : Out :=
  .next (match s.issues with
    | [] => s
    | iss :: rest =>
      match iss.lanes with
      | [] => { s with issues := rest }
      | x :: _ =>
        let t := s.thread iss.core x
        let park := fun (s : State) (ls : List Lane) =>
          s.parkLanes ls (trapOf .illegalOp 1) (ls.map Lane.lane) iss.pc .reexec
        match (s.kernelOf t).dict[n.toNat]? with
        | none =>
          let s1 := { s with issues := rest }
          (unitsOf (iss.lanes.map (s1.laneOf iss 0))).foldl park s1
        | some w =>
          if s.dictLoaded iss.core t.vf.toNat t.khandle.toNat then
            { s with issues := { iss with word := some w, len := 1 } :: rest }
          else
            iss.lanes.foldl (fun s x => s.waits iss.core x .dict)
              (({ s with issues := rest } : State).wantDict iss.core t.vf.toNat t.khandle.toNat))

end Sys2Proof.Machine
end

