-- ==== Sys2Proof/Machine/Admit.lean ====
section
/-! DEFINITION. Frames on their way and their admission (01 R24 to R31), team admission (01 R16), lazy eviction and restore (20
R427 to R429, 13 R313). An evicted unit keeps its contents under a number outside the core's: a context from 65,536 on, a cursor
slot from 4,096 on; scratchpad and accumulator blocks and register rows are listed as gone. -/

namespace Sys2Proof.Machine

/-! ## Units of a core (01 R8, R16, 02 R60 to R63) -/

/-- The first number of an evicted context. -/
def savedBase : Nat := 65536

/-- The first number of an evicted cursor slot. -/
def savedSlot : Nat := 4096

/-- A context is held. -/
def Core.taken (k : Core) (x : Nat) : Bool := (Tbl.get default k.ctxs x).st != .none

/-- The free contexts of a picker half, rising. -/
def Core.freeCtxs (k : Core) (half : Nat) : List Nat :=
  (List.range ctxCount).filter fun x => x % 2 == half && !k.taken x

/-- The contexts that teams hold. -/
def Core.teamCtxs (k : Core) : Nat :=
  k.ctxs.countP fun e => e.1 < ctxCount && e.2.st != .none && e.2.group.isSome

/-- The scratchpad blocks that teams hold. -/
def Core.spUsed (k : Core) : Nat := (k.teams.map fun e => e.2.spBlocks - e.2.spGone.length).foldl (· + ·) 0

/-- The accumulator blocks that teams hold. -/
def Core.accUsed (k : Core) : Nat := (k.teams.map fun e => e.2.accBlocks - e.2.accGone.length).foldl (· + ·) 0

/-- The scratchpad blocks of a core (02 R60). -/
def State.spTotal (s : State) (c : Nat) : Nat := 16 * ((s.partOf c).map fun p => (s.part p).s).getD 0

/-- What is asked of a core: contexts of each half, rows, scratchpad and accumulator blocks, uniform sets, cursor slots. -/
structure Ask where
  even : Nat
  odd : Nat
  rows : Nat
  sp : Nat
  acc : Nat
  sets : Nat
  slots : Nat
  deriving DecidableEq, Repr

/-- What is missing of an ask: the units of which the core has too few free (01 R16), beyond the free threads' minimum (R8). -/
def State.lacks (s : State) (c : Nat) (a : Ask) : List Nat :=
  let k := s.core c
  let ctx := (k.freeCtxs 0).length < a.even || (k.freeCtxs 1).length < a.odd ||
    ctxCount - 64 < k.teamCtxs + a.even + a.odd
  let rows := a.rows ≠ 0 && (350 < k.heldRows.length + a.rows || k.freeRows.length < a.rows)
  (if ctx then [0] else []) ++ (if rows then [1] else []) ++
    (if s.spTotal c < k.spUsed + a.sp then [2] else []) ++ (if 32 < k.accUsed + a.acc then [3] else []) ++
    (if 512 < (k.groups.countP fun e => e.2.live && !e.2.setGone) + a.sets then [4] else []) ++
    (if a.slots ≠ 0 && 256 < (k.cursors.countP fun e => e.1 < 256) + a.slots then [5] else [])

/-- What a team of a grid asks for. -/
def Kernel.askTeam (k : Kernel) (g : Grid) : Ask :=
  let n := groupCount g.roles
  ⟨g.width * ((n + 1) / 2), g.width * (n / 2), poolRowsOf g.width k.reserve g.roles, k.scratch, k.acc, n, 0⟩

/-! ## The walk of a grid (13 R318) -/

/-- Row-major position. -/
def walkRow (gx gy swz n : Nat) : Nat × Nat × Nat :=
  let p := gx * gy
  let w := 2 ^ swz
  let m := n % p
  let c := m / (w * gy)
  let r := m % (w * gy)
  let ws := Nat.min w (gx - c * w)
  (c * w + r % ws, r / ws, n / p)

/-- Column-major position. -/
def walkCol (gx gy n : Nat) : Nat × Nat × Nat := (n % (gx * gy) / gy, n % (gx * gy) % gy, n / (gx * gy))

/-- The n-th number from c on that a test keeps, among the next `fuel` numbers. -/
def nthKept (p : Nat → Bool) : Nat → Nat → Nat → Nat
  | 0, c, _ => c
  | fuel + 1, c, n => if p c then (if n = 0 then c else nthKept p fuel (c + 1) (n - 1)) else nthKept p fuel (c + 1) n

/-- Every m-th bit of a code from bit i on. -/
def dealt (m i c : Nat) : Nat := (List.range 32).foldl (fun v j => v + bitN (c.testBit (m * j + i)) j) 0

/-- The point of a Morton code. -/
def mortonAt (gx gy gz c : Nat) : Nat × Nat × Nat :=
  let on := [gx, gy, gz].map fun e => if 1 < e then 1 else 0
  let m := on.foldl (· + ·) 0
  let pick := fun (d : Nat) => if on.getD d 0 = 0 then 0 else dealt m ((on.take d).foldl (· + ·) 0) c
  (pick 0, pick 1, pick 2)

/-- Morton position. -/
def walkMorton (gx gy gz n : Nat) : Nat × Nat × Nat :=
  mortonAt gx gy gz (nthKept (fun c =>
    let q := mortonAt gx gy gz c
    q.1 < gx && q.2.1 < gy && q.2.2 < gz) (2 ^ 96) 0 n)

/-- HilbertD2XY (13 R318), from s on. -/
def hilbertFrom (big : Nat) : Nat → Nat → Nat → Nat → Nat → Nat × Nat
  | 0, _, _, x, y => (x, y)
  | fuel + 1, s, t, x, y =>
    if s < big then
      let rx := t / 2 % 2
      let ry := (t ^^^ rx) % 2
      let q := if ry = 0 then (if rx = 1 then (s - 1 - y, s - 1 - x) else (y, x)) else (x, y)
      hilbertFrom big fuel (s * 2) (t / 4) (q.1 + s * rx) (q.2 + s * ry)
    else (x, y)

/-- The least power of two that is at least n. -/
def powTwoFrom (n : Nat) : Nat → Nat → Nat
  | 0, p => p
  | fuel + 1, p => if p < n then powTwoFrom n fuel (2 * p) else p

/-- Hilbert position. -/
def walkHilbert (gx gy n : Nat) : Nat × Nat × Nat :=
  let big := powTwoFrom (Nat.max gx gy) 33 1
  let at_ := fun (d : Nat) => hilbertFrom big 33 1 d 0 0
  let d := nthKept (fun d => (at_ d).1 < gx && (at_ d).2 < gy) (2 ^ 66) 0 (n % (gx * gy))
  ((at_ d).1, (at_ d).2, n / (gx * gy))

/-- The group coordinates of a walk position. -/
def Grid.walk (g : Grid) (n : Nat) : Nat × Nat × Nat :=
  match g.order with
  | 0 => walkRow g.gx g.gy g.swz n
  | 1 => walkCol g.gx g.gy n
  | 2 => walkMorton g.gx g.gy g.gz n
  | _ => walkHilbert g.gx g.gy n

/-! ## Team admission (01 R16, 13 R319) -/

/-- The role of group j of a team. -/
def roleAt : List Role → Nat → Nat → Nat
  | [], _, k => k
  | r :: rs, j, k => if j < r.groups then k else roleAt rs (j - r.groups) (k + 1)

/-- The principal of a thread (13 R314, R319): its team t, its walk position n, its lane. -/
def Grid.principal (g : Grid) (t n lane : Nat) : BitVec 12 :=
  let i := match g.pmode with
    | 1 => some t
    | 2 => some n
    | 3 => some (n * g.width + lane)
    | _ => none
  match i with
  | none => g.pdefault
  | some i => g.princs.getD i g.pdefault

/-- A bound thread at admission (01 R7, 02 R66). -/
def State.boundThread (s : State) (c : Nat) (g : Grid) (e : Word) (pr : BitVec 12) (gset lane stamp : Nat) : Thread :=
  { (default : Thread) with
    st := .ready, pc := e, principal := pr, vf := BitVec.ofNat 10 g.vf, khandle := g.khandle, grid := g.tag, round := s.nextUnit
    vfPkg := s.fabnum, group := some (gset, lane), stamp := stamp, srcCore := BitVec.ofNat 9 c, srcPkg := s.fabnum }

/-- A uniform set is held (02 R63). -/
def Core.setTaken (k : Core) (n : Nat) : Bool := k.groups.any fun e => e.2.live && !e.2.setGone && e.2.set == n

/-- The least number from a base on that no entry of a table has. -/
def freshFrom {α : Type} (base : Nat) (t : Tbl α) : Nat := t.foldl (fun n e => Nat.max n (e.1 + 1)) base

/-- Group j of a team takes the lowest free uniform set and contexts of its half (01 R8, R11, 02 R63). -/
def State.admitGroup (s : State) (c slot : Nat) (g : Grid) (t j : Nat) : State :=
  let gsets := (s.core c).groups
  match leastFree 512 fun n => !(s.core c).setTaken n with
  | none => s
  | some set =>
    let gset := if (Tbl.get default gsets set).live then freshFrom 512 gsets else set
    let xs := ((s.core c).freeCtxs (j % 2)).take g.width
    let n := t * groupCount g.roles + j
    let p := g.walk n
    let role := roleAt g.roles j 0
    let r := g.roles.getD role ⟨0, 8, 0⟩
    let grp : Group :=
      { (default : Group) with
        live := true, width := g.width, team := slot, role := role, num := j, gx := BitVec.ofNat 32 p.1
        gy := BitVec.ofNat 32 p.2.1, gz := BitVec.ofNat 32 p.2.2, budget := r.budget, members := xs, set := set }
    let s := (s.setGroup c gset grp).modTeam c slot fun m => { m with groups := m.groups ++ [gset] }
    xs.zipIdx.foldl (fun s e =>
      s.setThread c e.1 (s.boundThread c g r.entry (g.principal t n e.2) gset e.2 (s.stampAt c e.1 false))) s

/-- The rows that a team of n rows takes: the highest-numbered free ones (log 94). -/
def Core.topRows (k : Core) (n : Nat) : List Nat := k.freeRows.reverse.take n

/-- A team of a grid becomes resident: every group of every role together. The number by which the model names it is of no account. -/
def State.admitTeam (s : State) (c : Nat) (g : Grid) (t : Nat) : State :=
  let k := s.kernel g.vf g.khandle.toNat
  let slot := (leastFree 512 fun n => !(Tbl.get default (s.core c).teams n).live).getD (freshFrom 512 (s.core c).teams)
  let rows := poolRowsOf g.width k.reserve g.roles
  let used := (g.roles.map fun r => unitBytes (g.width * r.groups) r.budget).foldl (· + ·) 0
  let team : Team :=
    { (default : Team) with
      live := true, vf := g.vf, grid := g.id, index := BitVec.ofNat 32 t, khandle := g.khandle, param := g.param
      data := k.data, spBlocks := k.scratch, accBlocks := k.acc, poolRows := rows
      rowNums := (s.core c).topRows rows, free := 2048 * rows - used }
  (List.range (groupCount g.roles)).foldl (fun s j => s.admitGroup c slot g t j)
    ((s.modTeam c slot fun _ => team).wantDict c g.vf g.khandle.toNat)

/-- The placed teams of a core in dispatch order, each with its grid. -/
def State.waitingTeams (s : State) (c : Nat) : List ((Nat × Nat) × Grid) :=
  (s.core c).teamWait.filterMap fun e => (s.grids.find? fun g => g.id == e.1).map fun g => (e, g)

/-! ## What is halted and evicted (20 R427 to R429) -/

/-- A thread holds its place and runs no instruction. -/
def Thread.still (t : Thread) : Bool :=
  match t.st with
  | .halted _ | .parked => true
  | _ => false

/-- A team of a VF waits at a core to restore. -/
def State.restoring (s : State) (c v : Nat) : Bool :=
  (s.core c).teams.any fun e => e.2.live && e.2.vf == v && s.teamGone c e.1

/-- The team that a core admits next, with its ask: the first whose VF is active (01 R16). -/
def State.nextTeam (s : State) (c : Nat) : Option ((Nat × Nat) × Grid) :=
  (s.waitingTeams c).find? fun e => s.vfActive e.2.vf c

/-- Team admission: the next team of an active VF, where it fits and no team of the VF waits to restore (20 R429). -/
def State.teamAdmission (s : State) (c : Nat) : State :=
  match s.nextTeam c with
  | none => s
  | some (e, g) =>
    if !(s.lacks c ((s.kernel g.vf g.khandle.toNat).askTeam g)).isEmpty || s.restoring c g.vf then s
    else (s.admitTeam c g e.2).modCore c fun k => { k with teamWait := k.teamWait.filter (· != e) }

/-! ## Departure and arrival (01 R24 to R31) -/

/-- FIRST_HOP_ACCEPT (01 R24, R25): the frame of a departing thread leaves for the home that Migrate fixed; its context and slot are
free. Without link credit the thread stays departing (01 R31), and so it does while an engine operation that it issued still writes global
memory, so that a later fence of its finds nothing left behind (03 R83; log 99). -/
def execFirstHopAccept (core ctx : Nat) (s : State) : Out :=
  .next (
    let t := s.thread core ctx
    match t.st with
    | .departing va h =>
      if s.hopStalled h || s.engineOpen .fab core ctx then s
      else (s.dropContext core ctx).sendFrame core (s.mkFrame core t va.toNat) h
    | _ => s)

/-- A flight has an earlier one of its source and destination before it (01 R25: in order). -/
def State.overtaken (s : State) (n : Nat) (f : Flight) : Bool :=
  (s.flights.take n).any fun g =>
    g.core == f.core && g.frame.srcCore == f.frame.srcCore && g.frame.srcPkg == f.frame.srcPkg && g.frame.bounce == f.frame.bounce

/-- The ports that a flight crosses in this package (19 R391). -/
def Flight.way (f : Flight) : List Crossing :=
  if f.port.toNat < 16 then crossIn f.port.toNat f.core else crossings f.frame.srcCore.toNat f.core

/-- The first port at which a frame meets a firewall beyond which its VF may not run (19 R391). -/
def State.frameWall (s : State) (f : Flight) : Option Nat := s.migWall f.frame f.way

/-- A firewall keeps a frame from its core. -/
def State.frameWalled (s : State) (f : Flight) : Bool := (s.frameWall f).isSome

/-- The firewall at which the flight of a number turns back: none while an earlier one of its source and destination flies. -/
def State.bounceAt (s : State) (n : Nat) (f : Flight) : Option Nat := if s.overtaken n f then none else s.frameWall f

/-- A flight turned back by a firewall of this package: BOUNCE is set, and it goes to its source core, in this package or in its own. -/
def State.bounceBack (s : State) (f : Flight) : State :=
  let b : Frame := { f.frame with bounce := true }
  if b.srcPkg = s.fabnum then s.fly b b.srcCore.toNat f.port.toNat
  else s.sendPacket f.core b.srcPkg.toNat b.srcCore.toNat (.frame b b.srcCore)

/-- FIREWALL_BOUNCE (01 R28, 19 R391): BOUNCE is set, the frame returns to its source, FWBOUNCE counts it. -/
def execFirewallBounce (n : Nat) (s : State) : Out :=
  .next (match s.flights[n]? with
    | none => s
    | some f =>
      match s.bounceAt n f with
      | none => s
      | some p =>
        let s : State := { s with flights := s.flights.eraseIdx n }
        (s.countBounce p).bounceBack f)

/-- The port of a core's router by which a frame comes in, as 19 R416 numbers them: 0 north, 1 east, 2 south, 3 west, 5 UCIe, 6
Ethernet. A frame crosses columns first, then rows, rows rising northward; one from its own core comes by none, written 255 (log
96). -/
def ingress (src dst : Nat) : Nat :=
  match (routeOf src dst).getLast? with
  | none => 255
  | some e => if e.2.2 = 5 then 5 else (e.2.2 + 2) % 4

/-- The ingress port of a flight at its destination. -/
def Flight.ingress (f : Flight) : BitVec 8 :=
  if f.port.toNat < 16 then 6
  else BitVec.ofNat 8 (Machine.ingress f.frame.srcCore.toNat f.core)

/-! ## The overflow ring (01 R29, 19 R401) -/

/-- The 128 bytes of a slot (01 R29): the frame, the arrival sequence number, the ingress port, zeros. -/
def Slot.bytes (x : Slot) : List Byte :=
  Frame.bytes x.frame ++ leBytes 8 x.num.toNat ++ leBytes 1 x.port.toNat ++ leBytes 23 0

/-- The number of the ring's tail slot: the first one past its frames. -/
def Core.ringTail (k : Core) : Nat := (k.ringHead + k.overflow.length) % 262144

/-- A slot of a core's ring written: the ring lies at 0x7D40_0000 of the core's slice (19 R401). -/
def State.ringWrite (s : State) (c n : Nat) (x : Slot) : State :=
  s.physWrite (physAddr c (0x7D400000 + 128 * n)) x.bytes

/-- Arrive (01 R30). -/
def Core.arrive (k : Core) (f : Flight) : Option Core :=
  let slot : Slot := ⟨f.frame, k.arrSeq, f.ingress⟩
  if k.overflow.isEmpty && k.queue.length < 512 then some { k with queue := k.queue ++ [slot], arrSeq := k.arrSeq + 1 }
  else if k.overflow.length < 262144 then some { k with overflow := k.overflow ++ [slot], arrSeq := k.arrSeq + 1 }
  else none

/-- FRAME_ARRIVAL (01 R27, R30, R42): a reserved KIND is discarded and counted; a VF that is being reset has its frame
discarded; else the queue or the ring takes the frame, or it is refused and its credit withheld (01 R31). -/
def execFrameArrival (n : Nat) (s : State) : Out :=
  .next (match s.flights[n]? with
    | none => s
    | some f =>
      let gone : State := { s with flights := s.flights.eraseIdx n }
      let v := f.frame.vf.toNat
      if 2 < f.frame.kind.toNat then gone.modPort f.port.toNat fun p => { p with discard := p.discard + 1 }
      else if (s.vf v).rst then gone.modVf v fun d => { d with rstRep := d.rstRep + 0x100000000#64 }
      else if s.frameWalled f || s.overtaken n f then s
      else
        match (s.core f.core).arrive f with
        | none => { s with flights := s.flights.set n { f with refused := true } }
        | some k =>
          let s := gone.setCore f.core k
          if (gone.core f.core).overflow.length < k.overflow.length then
            match k.overflow.getLast? with
            | some x => s.ringWrite f.core (gone.core f.core).ringTail x
            | none => s
          else s)

/-! ## Frame admission (01 R30) -/

/-- The frame is admissible. -/
def State.admissible (s : State) (c : Nat) (x : Slot) : Bool := s.vfActive x.frame.vf.toNat c

/-- The oldest of a list of slots, by arrival number. -/
def oldestSlot : List Slot → Option Slot
  | [] => none
  | x :: xs =>
    match oldestSlot xs with
    | none => some x
    | some y => some (if x.num.toNat ≤ y.num.toNat then x else y)

/-- The handle of a frame is registered to its VF at a core (13 R309): a migratory kernel's where the VF may run. -/
def State.registered (s : State) (c v h : Nat) : Bool :=
  let k := s.kernel v h
  !k.code.isEmpty && ((k.migratory && s.mayRun v (s.partOf c)) || (s.core c).khere.contains (v, h))

/-- The thread of a frame (01 R30). -/
def State.freeThread (s : State) (c x : Nat) (f : Frame) : Thread :=
  { (default : Thread) with
    st := .ready, pc := f.pc, preds := setBit16 f.pred 0 false, depth := f.depth, principal := f.principal, vf := f.vf
    khandle := f.khandle, grid := f.grid, vfPkg := f.vfPkg, srcCore := f.srcCore, srcPkg := f.srcPkg
    stamp := s.stampAt c x false, slot := (s.core c).lowSlot, round := s.nextUnit, regs := f.gregs.zipIdx.map fun e => (e.2, RegWord.ofVal e.1) }

/-- Why an admitted frame's thread parks (01 R28, R30). -/
def State.frameTrap (s : State) (c : Nat) (f : Frame) : Option Trap :=
  if f.bounce then some ⟨.firewall, 2, f.target.setWidth 64, 0⟩
  else if f.poison then some (trapOf .poison)
  else if s.registered c f.vf.toNat f.khandle.toNat then none
  else some (trapOf .illegalOp 1)

/-- A frame becomes a thread in a context. -/
def State.admitFrame (s : State) (c x : Nat) (f : Frame) : State :=
  let s1 := (s.setThread c x (s.freeThread c x f)).wantDict c f.vf.toNat f.khandle.toNat
  match s.frameTrap c f with
  | none => s1
  | some t => s1.park (FUnit.atIssue c f.vf.toNat none [(0, x)] t [0] f.pc f.pc 2 .reexec) false

/-- Admit (01 R30): the oldest admissible frame, where a context and a slot are free. -/
def State.admitOne (s : State) (c : Nat) : State :=
  match oldestSlot ((s.core c).queue.filter (s.admissible c)) with
  | none => s
  | some y =>
    match leastFree ctxCount fun x => !(s.core c).taken x with
    | none => s
    | some x =>
      if s.slotFree c then
        (s.modCore c fun k => { k with queue := k.queue.filter (· != y) }).admitFrame c x y.frame
      else s

/-- Refill (01 R30). -/
def State.refill (s : State) (c : Nat) : State :=
  let k := s.core c
  match k.overflow with
  | [] => s
  | h :: rest =>
    let k := { k with ringHead := (k.ringHead + 1) % 262144 }
    if k.queue.length < 512 then s.setCore c { k with queue := k.queue ++ [h], overflow := rest }
    else if k.queue.any (s.admissible c) then s
    else
      match oldestSlot k.queue with
      | none => s
      | some y =>
        (s.setCore c { k with queue := (k.queue.filter (· != y)) ++ [h], overflow := rest ++ [y] }).ringWrite c
          { k with overflow := rest }.ringTail y

/-- ADMIT (01 R30): Admit, Refill, then team admission, of one cycle. -/
def execAdmit (core : Nat) (s : State) : Out := .next (((s.admitOne core).refill core).teamAdmission core)

/-! ## Renaming a context or a cursor slot -/

/-- A number renamed. -/
def rename (x y n : Nat) : Nat := if n = x then y else n

/-- The lanes of an operation in progress, with a context renamed. -/
def CrdBusy.move (x y : Nat) : CrdBusy → CrdBusy
  | .none => .none
  | .next num lanes d p pc len => .next num (lanes.map fun l => (l.1, rename x y l.2)) d p pc len
  | .split num lanes n i pc len => .split num (lanes.map fun l => (l.1, rename x y l.2)) n i pc len

/-- A group with a context renamed. -/
def Group.move (x y : Nat) (g : Group) : Group :=
  { g with
    members := g.members.map (rename x y)
    pend := g.pend.map fun i => { i with lanes := i.lanes.map (rename x y) } }

/-- A core with a context moved: its thread, and every name of it. -/
def Core.moveCtx (x y : Nat) (k : Core) : Core :=
  { k with
    ctxs := Tbl.set (Tbl.del k.ctxs x) y (Tbl.get default k.ctxs x)
    groups := k.groups.map fun e => (e.1, e.2.move x y)
    mq := k.mq.map fun o => { o with lanes := o.lanes.map fun l => { l with ctx := rename x y l.ctx } }
    copies := k.copies.map fun o => { o with ctx := rename x y o.ctx }
    spills := k.spills.map fun o => { o with ctx := rename x y o.ctx }
    cursors := k.cursors.map fun e => (e.1, { e.2 with busy := e.2.busy.move x y }) }

/-- The state with a context of a core moved. -/
def State.moveCtx (s : State) (c x y : Nat) : State :=
  let s := ((s.keepName c x).modCore c (Core.moveCtx x y)).dropAsks c (2 ^ 22 + x)
  let req := fun (r : Req) => if r.ofCtx c x then { r with ctx := y } else r
  { s with
    reqs := s.reqs.map req
    units := s.units.map fun u =>
      if u.core = c then
        { u with
          threads := u.threads.map fun e => (e.1, rename x y e.2)
          reqs := u.reqs.map req
          tokens := u.tokens.map fun e => (rename x y e.1, e.2) }
      else u
    resvQ := s.resvQ.map fun r => if r.pkg = s.fabnum.toNat ∧ r.core = c then { r with ctx := rename x y r.ctx } else r
    grants := s.grants.map fun g => if g.core = c then { g with ctx := rename x y g.ctx } else g }

/-- A resumption that names a cursor slot follows it. -/
def Resume.moveSlot (c x y : Nat) : Resume → Resume
  | .stream d n => .stream d (if d = c then rename x y n else n)
  | .harvest d n => .harvest d (if d = c then rename x y n else n)
  | r => r

/-- The state with a cursor slot of a core moved, and with it what a parked unit or a waiting page names. -/
def State.moveSlot (s : State) (c x y : Nat) : State :=
  let k := s.cursor c x
  let s : State := { s with units := s.units.map fun u => { u with resume := u.resume.moveSlot c x y } }
  ((s.dropAsks c (slotTag x)).modCore c fun m =>
    { m with cursors := Tbl.set (Tbl.del m.cursors x) y k }).modGroup c k.gset fun g =>
      { g with cursors := g.cursors.map fun e => (e.1, e.2.map (rename x y)) }

/-! ## Claimable units (20 R427, R428) -/

/-- The thread is still. -/
def Thread.movable (t : Thread) : Bool := t.still && !t.priv

/-- A VF's units at a core may be claimed. -/
def State.vfClaim (s : State) (v c : Nat) : Bool := !s.vfActive v c && s.canSave v c

/-- Every thread of a team is still. -/
def State.teamStill (s : State) (c t : Nat) : Bool := (s.teamMembers c t).all fun x => (s.thread c x).still

/-- The bytes of a copy's or gather's scratchpad footprint, as ranges (offset, length): elements, tags, index list, rows,
counter. -/
def CopyOp.footprint (o : CopyOp) : List (Nat × Nat) :=
  let ctr := (o.counter.map fun c => [(c, 8)]).getD []
  if o.isGather then
    let d := GatherDesc.ofBytes o.desc
    ctr ++ [(d.idxoff, 4 * d.count), (d.defoff, d.rowSize)] ++
      (List.range d.count).map fun n => (d.dst + n * d.dstStride, d.rowSize)
  else
    let d := CopyDesc.ofBytes o.desc
    ctr ++ [(d.tagsp, if d.conv = 5 then 2 * d.count else 0)] ++ (List.range d.count).map fun k => (d.sAt k, d.es)

/-- A range touches a block of 64 KiB. -/
def inBlock (b : Nat) (r : Nat × Nat) : Bool := r.2 != 0 && r.1 < 65536 * (b + 1) && 65536 * b < r.1 + r.2

/-- A scratchpad block holds no bytes of the footprint of a copy or gather that has not completed (20 R427). -/
def State.blockIdle (s : State) (c t b : Nat) : Bool :=
  !(s.core c).copies.any fun o => o.team == t && o.footprint.any (inBlock b)

/-- The free threads whose slots lie in a register row, each with the slot's place in it (02 R64). -/
def Core.slotsIn (k : Core) (r : Nat) : List (Nat × Nat) :=
  k.ctxs.filterMap fun e => (e.2.slot.filter fun n => n / 32 == r).map fun n => (e.1, n % 32)

/-- The groups whose uniform sets lie in a row of the uniform area: row r is register row 352 + r, of 16 sets (02 R63). -/
def Core.setsOf (k : Core) (r : Nat) : List Nat :=
  (k.groups.filter fun e => e.2.live && !e.2.setGone && e.2.set / 16 == r).map Prod.fst

/-- The team that holds a register row. -/
def State.rowTeam (s : State) (c r : Nat) : Option Nat :=
  ((s.core c).teams.find? fun e => e.2.live && e.2.rowNums.contains r).map Prod.fst

/-- No queued or executing matrix operation reads or writes a row of a team's accumulator block. -/
def State.accIdle (s : State) (c t b : Nat) : Bool :=
  !(s.core c).mq.any fun o => o.team == t && o.rowsUsed.any fun r => r / 64 == b

/-- The VF that owns a unit. -/
def State.unitVf (s : State) (c : Nat) : EvictUnit → Nat
  | .context n => (s.thread c n).vf.toNat
  | .row r =>
    match s.rowTeam c r with
    | some t => (s.team c t).vf
    | none => ((((s.core c).slotsIn r).head?).map fun e => (s.thread c e.1).vf.toNat).getD 0
  | .spBlock t _ | .accBlock t _ => (s.team c t).vf
  | .uniform r => (((s.core c).setsOf r).head?.map fun g => (s.team c (s.group c g).team).vf).getD 0
  | .cursor n => (s.cursor c n).vf.toNat
  | .buffer e => ((s.units.find? fun u => some u.id == Tbl.get none (s.core c).rbuf e).map FUnit.vf).getD 0

/-- A unit is claimable (20 R427); a replay buffer entry moves where its VF has a save area (10 R248, 20 R428). -/
def State.claimable (s : State) (c : Nat) (u : EvictUnit) : Bool :=
  match u with
  | .context n => n < ctxCount && (s.thread c n).movable && s.vfClaim (s.thread c n).vf.toNat c
  | .row r =>
    match s.rowTeam c r with
    | some t => s.vfClaim (s.team c t).vf c && s.teamStill c t
    | none =>
      let xs := (s.core c).slotsIn r
      r < 352 && !xs.isEmpty && xs.all fun e => (s.thread c e.1).movable && s.vfClaim (s.thread c e.1).vf.toNat c
  | .spBlock t b =>
    let m := s.team c t
    m.live && b < m.spBlocks && !m.spGone.contains b && s.vfClaim m.vf c && s.teamStill c t && s.blockIdle c t b
  | .accBlock t b =>
    let m := s.team c t
    m.live && b < m.accBlocks && !m.accGone.contains b && s.vfClaim m.vf c && s.teamStill c t && s.accIdle c t b
  | .uniform r =>
    let gs := (s.core c).setsOf r
    r < 32 && !gs.isEmpty && gs.all fun g =>
      s.vfClaim (s.team c (s.group c g).team).vf c && (s.group c g).present.all fun x => (s.thread c x).still
  | .cursor n =>
    let k := s.cursor c n
    n < 256 && k.live && s.vfClaim k.vf.toNat c && (s.group c k.gset).present.all fun x => (s.thread c x).still
  | .buffer e => (Tbl.get none (s.core c).rbuf e).isSome && s.canSave (s.unitVf c u) c

/-! ## Eviction (20 R427, 13 R311, R313) -/

/-- The footprint of a thread is known: it halted at a safe point. -/
def Thread.safeHalt (t : Thread) : Bool :=
  t.atSafe && match t.st with
    | .halted _ => true
    | _ => false

/-- The registers of a thread that are live: whole tile units (13 R311). -/
def State.liveMask (s : State) (t : Thread) : DWord :=
  if t.safeHalt then (s.kernelOf t).liveRegs t.pc else BitVec.allOnes 64

/-- A register lies in a live tile unit of a mask. -/
def liveReg (m : DWord) (n : Nat) : Bool := (m.extractLsb' (n / 8 * 8) 8) != 0

/-- Words that are not saved read as zero; words that are or were EMPTY or LOCKED at the halt are saved (13 R313). -/
def keptWords (live : Nat → Bool) (marks : List Nat) (rs : Tbl RegWord) : Tbl RegWord :=
  rs.filter fun e => live e.1 || marks.contains e.1 || e.2.st != .full

/-- The saved registers of a thread. -/
def Thread.keepLive (t : Thread) (m : DWord) : Thread := { t with regs := keptWords (liveReg m) t.marks t.regs }

/-- The OR of a mask over the threads of a team (13 R311). -/
def State.teamMask {n : Nat} (s : State) (c t : Nat) (f : Thread → BitVec n) : BitVec n :=
  (s.teamMembers c t).foldl (fun m x => m ||| f (s.thread c x)) 0

/-- The live scratchpad blocks of a thread. -/
def State.liveSpOf (s : State) (t : Thread) : BitVec 96 :=
  if t.safeHalt then (s.kernelOf t).liveSp t.pc else BitVec.allOnes 96

/-- The live accumulator blocks of a thread. -/
def State.liveAccOf (s : State) (t : Thread) : Word :=
  if t.safeHalt then (s.kernelOf t).liveAcc t.pc else BitVec.allOnes 32

/-- The live uniform registers of a thread's group (13 R311). -/
def State.liveSets (s : State) (t : Thread) : Word :=
  if t.safeHalt then (s.kernelOf t).liveSet t.pc else BitVec.allOnes 32

/-- A context is saved. -/
def State.evictCtx (s : State) (c n : Nat) : State := s.moveCtx c n (freshFrom savedBase (s.core c).ctxs)

/-- A free thread's slot is saved, with its row (20 R427). -/
def State.evictSlot (s : State) (c x : Nat) : State :=
  s.modThread c x fun t => { t.keepLive (s.liveMask t) with slot := some slotCount }

/-- The registers of a group whose tile units do not lie in a row of its team: with the last row every unit that is left goes, and which units
an earlier one holds is a free choice, since each lies anywhere in the pool (02 R64; log 1). -/
def State.elsewhere (s : State) (m : Team) (g : Nat) : DWord :=
  if m.rowNums.length ≤ 1 then 0
  else (List.range 8).foldl (fun w i =>
    if Config.choose (s.tick + 8 * g + i) % 2 = 1 then w else w ||| ((0xFF : DWord) <<< (8 * i))) 0

/-- A register row of a team is saved; of the tile units in it only the live words (13 R313). -/
def State.evictRow (s : State) (c r t : Nat) : State :=
  let m := s.team c t
  let live := s.teamMask c t s.liveMask
  let u := (s.liveGroups c t).foldl (fun u g =>
    (s.group c g).present.foldl (fun u x => u.modThread c x fun th => th.keepLive (live ||| s.elsewhere m g)) u) s
  u.modTeam c t fun k => { k with rowsOut := k.rowsOut + 1, rowNums := k.rowNums.filter (· != r) }

/-- A scratchpad block of a team is saved. -/
def State.evictSp (s : State) (c t b : Nat) : State :=
  let live := (s.teamMask c t s.liveSpOf).getLsbD b
  s.modTeam c t fun k =>
    { k with
      spGone := b :: k.spGone
      sp := if live then k.sp else Mem.clear k.sp (65536 * b) 65536
      spPoison := if live then k.spPoison else k.spPoison.filter fun u => u / 4096 != b }

/-- An accumulator block of a team is saved. -/
def State.evictAcc (s : State) (c t b : Nat) : State :=
  let live := (s.teamMask c t s.liveAccOf).getLsbD b
  s.modTeam c t fun k =>
    { k with accGone := b :: k.accGone, acc := if live then k.acc else k.acc.filter fun e => e.1 / 64 != b }

/-- The uniform set of a group is saved (02 R63, 13 R311, R313). -/
def State.evictSet (s : State) (c g : Nat) : State :=
  let m := s.teamMask c (s.group c g).team s.liveSets
  s.modGroup c g fun k => { k with setGone := true, sregs := keptWords (fun n => m.getLsbD n) k.marks k.sregs }

/-- A replay buffer entry is saved (10 R248). -/
def State.evictBuf (s : State) (c e : Nat) : State :=
  let id := Tbl.get none (s.core c).rbuf e
  let s := s.modCore c fun k => { k with rbuf := Tbl.set k.rbuf e none }
  { s with units := s.units.map fun u => if some u.id = id then { u with buf := none } else u }

/-- The words of the tile units that a team keeps in its row of a number: its units in group order, one after another. Each unit lies anywhere
in the pool (02 R64; log 52: DESIGN CHOICE). -/
def State.rowWords (s : State) (c t p : Nat) : List RegWord :=
  let gs := s.liveGroups c t
  let w := (gs.head?.map fun g => (s.group c g).width).getD 8
  let n := 64 / w
  let units := gs.flatMap fun g => (List.range ((s.group c g).budget / 8)).map fun u => (g, u)
  (((units.drop (n * p)).take n).flatMap fun e => (List.range w).flatMap fun l => (List.range 8).map fun i =>
    if (s.group c e.1).exited.contains l then RegWord.ofVal 0 else (s.thread c ((s.group c e.1).members.getD l 0)).reg (8 * e.2 + i))

/-- A row's words made 512. -/
def padRow (ws : List RegWord) : List RegWord := ws ++ List.replicate (512 - ws.length) (RegWord.ofVal 0)

/-- What the spill engine writes for a unit that has left its place (20 R428): offsets and bytes. `p` is the number of a team's row. Which of
the core's blocks a team's block is, is a free choice (02 R60, R62; log 1). -/
def State.saved (s : State) (c p : Nat) (team : Option Nat) : EvictUnit → List (Nat × List Byte)
  | .context n => [(128 * n, s.openBytes 128)]
  | .row r =>
    let ws := rowImage (padRow ((team.map fun t => s.rowWords c t p).getD []))
    [(0x080000 + 2048 * r, ws.1), (0x808000 + 256 * r, ws.2)]
  | .spBlock t b => [(0x140000 + 65536 * (Config.choose s.tick % 96), Mem.read (s.team c t).sp (65536 * b) 65536)]
  | .accBlock t b =>
    let rows := (List.range 64).map fun i => (s.team c t).row (64 * b + i)
    [(0x740000 + 16384 * (Config.choose s.tick % 32),
        rows.flatMap fun r => (List.range 64).flatMap fun j => leBytes 4 (r.col j).toNat),
     (0x820000 + 8 * (Config.choose s.tick % 32), leBytes 8 (rows.foldr (fun r n => 2 * n + bitN r.poison 0) 0))]
  | .uniform _ => []
  | .cursor n => [(0x7C0000 + 1024 * n, (s.cursor c (freshFrom savedSlot (s.core c).cursors - 1)).record ++ s.openBytes 960)]
  | .buffer e => [(0x800000 + 512 * e, s.openBytes 512)]

/-- The places that the uniform sets of a group leave (20 R428), in row 352 + set / 16. -/
def State.savedSet (s : State) (c : Nat) (g : Nat) : List (Nat × List Byte) :=
  let k := s.group c g
  let ws := rowImage ((List.range 32).map fun i => Tbl.get (RegWord.ofVal 0) k.sregs i)
  [(0x080000 + 2048 * 352 + 128 * k.set, ws.1), (0x808000 + 256 * 352 + 16 * k.set, ws.2.take 16)]

/-- The places that a free thread's slot leaves (20 R428): 64 bytes of its row. -/
def State.savedThread (s : State) (c r x i : Nat) : List (Nat × List Byte) :=
  let ws := rowImage ((List.range 16).map fun n => (s.thread c x).reg n)
  [(0x080000 + 2048 * r + 64 * i, ws.1), (0x808000 + 256 * r + 8 * i, ws.2.take 8)]

/-- Places of a VF's save area written. -/
def State.saveAll (s : State) (v c : Nat) (ps : List (Nat × List Byte)) : State :=
  ps.foldl (fun s p => s.saveOut v c p.1 p.2) s

/-- A unit leaves its place in the core. -/
def State.evict (s : State) (c : Nat) : EvictUnit → State
  | .context n => s.evictCtx c n
  | .row r =>
    match s.rowTeam c r with
    | some t => s.evictRow c r t
    | none => ((s.core c).slotsIn r).foldl (fun s e => s.evictSlot c e.1) s
  | .spBlock t b => s.evictSp c t b
  | .accBlock t b => s.evictAcc c t b
  | .uniform r => ((s.core c).setsOf r).foldl (fun u g => u.evictSet c g) s
  | .cursor n => s.moveSlot c n (freshFrom savedSlot (s.core c).cursors)
  | .buffer e => s.evictBuf c e

/-- After an eviction, the unit that has left is written to the save areas of its owners: `s` is the state before. -/
def State.saveUnitOf (s : State) (c : Nat) (u : EvictUnit) (t : State) : State :=
  match u with
  | .row r =>
    match s.rowTeam c r with
    | some m =>
      t.saveAll (s.unitVf c u) c (t.saved c ((s.team c m).rowsOut + (s.team c m).rowNums.idxOf r) (some m) u)
    | none => ((s.core c).slotsIn r).foldl (fun t e => t.saveAll (s.thread c e.1).vf.toNat c (t.savedThread c r e.1 e.2)) t
  | .uniform r =>
    ((s.core c).setsOf r).foldl (fun t g => t.saveAll (s.team c (s.group c g).team).vf c (t.savedSet c g)) t
  | _ => t.saveAll (s.unitVf c u) c (t.saved c 0 none u)

/-- LAZY_EVICTION (20 R427, R428): a claimed unit's live part goes to the owner's save area, and the unit is free. -/
def execLazyEviction (core : Nat) (u : EvictUnit) (s : State) : Out :=
  .next (
    if s.claimable core u then s.saveUnitOf core u ({ s.evict core u with tick := s.tick + 1 }) else s)

/-! ## Which unit is claimed next -/

/-- The cycle at which a VF first halted at a core. -/
def State.haltTime (s : State) (c v : Nat) : Nat :=
  (s.core c).ctxs.foldl (fun m e =>
    match e.2.haltBy with
    | some h => if e.2.vf.toNat = v ∧ e.2.still then Nat.min m h.toNat else m
    | none => m) (2 ^ 64)

/-- The first of a list of candidates whose VF halted earliest. -/
def earliest : List (Nat × EvictUnit) → Option (Nat × EvictUnit)
  | [] => none
  | e :: l =>
    match earliest l with
    | none => some e
    | some f => some (if e.1 ≤ f.1 then e else f)

/-- Numbers in falling order. -/
def downFrom (n : Nat) : List Nat := (List.range n).reverse

/-- The claimable units of a kind, a team's in descending number: 0 contexts, 1 rows, 2 scratchpad, 3 accumulator, 4 rows of uniform
sets, 5 cursor slots. -/
def State.candidates (s : State) (c kind : Nat) : List (Nat × EvictUnit) :=
  let k := s.core c
  let at_ := fun (v : Nat) (u : EvictUnit) => (s.haltTime c v, u)
  let ctx := fun (p : Thread → Bool) =>
    (k.ctxs.reverse.filter fun e => p e.2).map fun e => at_ e.2.vf.toNat (.context e.1)
  let us : List (Nat × EvictUnit) := match kind with
    | 0 => ctx fun _ => true
    | 1 => (k.teams.flatMap fun e => ((downFrom 352).filter e.2.rowNums.contains).map fun r => at_ e.2.vf (.row r)) ++
        ((downFrom 352).filter fun r => !(k.slotsIn r).isEmpty && !k.heldRows.contains r).map fun r => at_ (s.unitVf c (.row r)) (.row r)
    | 2 => k.teams.flatMap fun e => (downFrom e.2.spBlocks).map fun b => at_ e.2.vf (.spBlock e.1 b)
    | 3 => k.teams.flatMap fun e => (downFrom e.2.accBlocks).map fun b => at_ e.2.vf (.accBlock e.1 b)
    | 4 => (downFrom 32).flatMap fun r => (k.setsOf r).map fun g => at_ (s.team c (s.group c g).team).vf (.uniform r)
    | 5 => k.cursors.reverse.map fun e => at_ e.2.vf.toNat (.cursor e.1)
    | _ => []
  us.filter fun e => s.claimable c e.2

/-! ## Restore (20 R429) -/

/-- What a team needs to restore. -/
def State.askRestore (s : State) (c t : Nat) : Ask :=
  let m := s.team c t
  let gone := fun (half : Nat) =>
    ((s.liveGroups c t).filter fun g => (s.group c g).num % 2 == half).foldl (fun n g =>
      n + (s.group c g).present.countP (ctxCount ≤ ·)) 0
  ⟨gone 0, gone 1, m.rowsOut, m.spGone.length, m.accGone.length,
   (s.liveGroups c t).countP fun g => (s.group c g).setGone, (s.teamSlots c t).countP (256 ≤ ·)⟩

/-- A team's thread that halted first gives its place in the order of restores. -/
def State.teamTime (s : State) (c t : Nat) : Nat :=
  (s.teamMembers c t).foldl (fun m x =>
    match (s.thread c x).haltBy with
    | some h => Nat.min m h.toNat
    | none => m) (2 ^ 64)

/-- The evicted teams of active VFs at a core, with the cycles at which they halted. -/
def State.restoreTeams (s : State) (c : Nat) : List (Nat × Nat) :=
  ((s.core c).teams.filter fun e => e.2.live && s.vfActive e.2.vf c && s.teamGone c e.1).map fun e =>
    (s.teamTime c e.1, e.1)

/-- A team is the next of its VF to restore: no other of the VF halted before it. -/
def State.restoreTurn (s : State) (c t : Nat) : Bool :=
  (s.restoreTeams c).any fun e => e.2 == t && (s.restoreTeams c).all fun f =>
    (s.team c f.2).vf != (s.team c t).vf || e.1 < f.1 || (e.1 == f.1 && e.2 ≤ f.2)

/-- An evicted context returns to the lowest free one of its group's half. -/
def State.restoreCtx (s : State) (c x : Nat) : State :=
  let half := match (s.thread c x).group with
    | some g => (s.group c g.1).num % 2
    | none => 0
  match ((s.core c).freeCtxs half).head? with
  | none => s
  | some y => s.moveCtx c x y

/-- An evicted uniform set returns to the lowest free one. -/
def State.restoreSet (s : State) (c g : Nat) : State :=
  match leastFree 512 fun n => !(s.core c).setTaken n with
  | none => s
  | some n => s.modGroup c g fun k => { k with set := n, setGone := false }

/-- TEAM_RESTORE (20 R429): all evicted units of a team together; its threads then go on. -/
def execTeamRestore (core team : Nat) (s : State) : Out :=
  .next (
    if s.restoreTurn core team && (s.lacks core (s.askRestore core team)).isEmpty then
      let s := s.modTeam core team fun m =>
        { m with
          rowNums := m.rowNums ++ (s.core core).topRows m.rowsOut
          rowsOut := 0, spGone := [], accGone := [] }
      let s := ((s.liveGroups core team).filter fun g => (s.group core g).setGone).foldl (fun s g => s.restoreSet core g) s
      let s := ((s.teamMembers core team).filter (ctxCount ≤ ·)).foldl (fun s x => s.restoreCtx core x) s
      ((s.teamSlots core team).filter (256 ≤ ·)).foldl (fun s n =>
        match leastFree 256 fun k => !Tbl.has (s.core core).cursors k with
        | none => s
        | some k => s.moveSlot core n k) s
    else s)

/-- The slot of a free thread lies in the save area. -/
def Thread.slotOut (t : Thread) : Bool := t.slot.any fun n => slotCount ≤ n

/-- FREE_THREAD_RESTORE (20 R429): an evicted free thread returns to a context and a slot, as far as it lost them. -/
def execFreeThreadRestore (core ctx : Nat) (s : State) : Out :=
  .next (
    let t := s.thread core ctx
    let y := if ctxCount ≤ ctx then leastFree ctxCount fun x => !(s.core core).taken x else some ctx
    if (ctxCount ≤ ctx || t.slotOut) && t.still && t.group.isNone && s.vfActive t.vf.toNat core &&
        (!t.slotOut || s.slotFree core) then
      match y with
      | none => s
      | some y =>
        (if ctx = y then s else s.moveCtx core ctx y).modThread core y fun k =>
          if t.slotOut then { k with slot := (s.core core).lowSlot } else k
    else s)

/-- A halted thread goes on when its VF is active and nothing of its footprint lies in the save area (01 R40, 20 R429). -/
def State.resumable (s : State) (c x : Nat) : Bool :=
  s.mayRunNow c x &&
    match (s.thread c x).st with
    | .halted _ => true
    | _ => false

/-- A halted thread resumes ready (01 R40), with what it goes on waiting for when it is next picked; a unit of it that was due parks. -/
def State.unhalt (s : State) (c x : Nat) : State :=
  match (s.thread c x).st with
  | .halted w =>
    let s := s.holdReady c x w
    State.parkDue (match (s.thread c x).group with
      | some g => s.modGroup c g.1 fun k => { k with marks := [] }
      | none => s) c
  | _ => s

end Sys2Proof.Machine
end

