-- ==== Sys2Proof/Machine/Grid.lean ====
section
/-! DEFINITION. The grid scheduler's dispatch and counts: placing teams (01 R20, 18 R383, 20 R424), reservations and their grants
(01 R23), decrements (01 R21). -/

namespace Sys2Proof.Machine

/-! ## Placing teams (01 R20) -/

/-- The current slot of a core's partition is open (20 R424). -/
def State.openAt (s : State) (c : Nat) : Bool :=
  match s.partOf c with
  | none => false
  | some p => (s.part p).run && !(s.part p).idle && bits (s.part p).slotWord.toNat 30 2 == 2

/-- The contexts of a VF at a core: those that it holds, and those of its teams that wait there. -/
def State.vfCtxs (s : State) (v c : Nat) : Nat :=
  ((s.core c).ctxs.countP fun e => e.1 < ctxCount && e.2.st != .none && e.2.vf.toNat == v) +
    ((s.waitingTeams c).map fun e => if e.2.vf = v then e.2.width * groupCount e.2.roles else 0).foldl (· + ·) 0

/-- In an open slot only a VF that is active there places a team, of n threads within its CTXQ (20 R424, log 57). -/
def State.quotaOk (s : State) (v c n : Nat) : Bool :=
  let q := bits (s.vf v).cal.toNat 16 7
  !s.openAt c || (s.vfActive v c && (q == 0 || s.vfCtxs v c + n ≤ 64 * q))

/-- The scan order of a VF's next-fit: its cores from the start kept for it. -/
def State.scanOrder (s : State) (v : Nat) : List Nat :=
  let cs := s.runCores v
  cs.filter ((s.vf v).nfStart ≤ ·) ++ cs.filter (· < (s.vf v).nfStart)

/-- A core has room for the next team of a grid (01 R20). -/
def State.roomAt (s : State) (g : Grid) (c : Nat) : Bool :=
  (s.core c).teamWait.isEmpty && (s.lacks c ((s.kernel g.vf g.khandle.toNat).askTeam g)).isEmpty &&
    s.quotaOk g.vf c (g.width * groupCount g.roles)

/-- The core for the next team of a grid, where there is one now. -/
def State.placeFor (s : State) (g : Grid) : Option Nat :=
  if g.affinity then
    (s.affinityCore g.vf (g.affs.getD g.next 0).toNat).filter fun c =>
      s.quotaOk g.vf c (g.width * groupCount g.roles)
  else (s.scanOrder g.vf).find? (s.roomAt g)

/-- The next team of a grid is placed at a core: the count rises by its threads (01 R21), the handle is registered there (13
R309), and a next-fit start moves on. -/
def State.placeTeam (s : State) (g : Grid) (c : Nat) : State :=
  let n := g.width * groupCount g.roles
  let h := (g.vf, g.khandle.toNat)
  let s := s.modCore c fun k =>
    { k with teamWait := k.teamWait ++ [(g.id, g.next)], khere := if k.khere.contains h then k.khere else h :: k.khere }
  let s := if g.affinity then s else
    let order := s.scanOrder g.vf
    s.modVf g.vf fun v => { v with nfStart := ((order.drop 1).head?).getD (order.headD 0) }
  { s with grids := s.grids.map fun x => if x.id = g.id then { x with next := x.next + 1, live := x.live + n } else x }

/-- The teams of a VF in the strict order of its chains (18 R383): the first that can be placed; a next-fit team that finds no
room holds back the higher chains. -/
def State.dispatch (s : State) : List Grid → Option (Grid × Nat)
  | [] => none
  | g :: gs =>
    match s.placeFor g with
    | some c => some (g, c)
    | none => if g.affinity then s.dispatch gs else none

/-- The grids of a VF with teams to place, by chain. -/
def State.toPlace (s : State) (v : Nat) : List Grid :=
  (List.range 4).flatMap fun k => s.grids.filter fun g => g.vf == v && g.chain == k && g.next < g.teams

/-- The team that a VF places next, and its core. -/
def State.nextPlace (s : State) (v : Nat) : Option (Grid × Nat) :=
  if (s.vf v).rst then none else s.dispatch (s.toPlace v)

/-- RANK, then the chain's priority (20 R424, 18 R383). -/
def State.placeRank (s : State) (v : Nat) (g : Grid) : Nat := bits (s.vf v).cal.toNat 4 2 * 4 + g.chain

/-- A VF's distance in the round of VF numbers, which goes on after the one that placed last. -/
def Part.round (p : Part) (v : Nat) : Nat := (v + 1024 - p.turn % 1024) % 1024

/-- In an open slot it is a VF's turn to place a team at a core: no VF that could place one in the partition comes before it by RANK, by the
chain's priority, by the round of VF numbers (20 R424). -/
def State.placeTurn (s : State) (v : Nat) (g : Grid) (c : Nat) : Bool :=
  match s.partOf c with
  | none => true
  | some p =>
    !s.openAt c || s.vfs.all fun e => e.1 == v || match s.nextPlace e.1 with
      | none => true
      | some (h, d) =>
        let a := s.placeRank v g
        let b := s.placeRank e.1 h
        s.partOf d != some p || a < b || (a == b && (s.part p).round v < (s.part p).round e.1)

/-- TEAM_PLACEMENT (01 R20, 20 R424). -/
def execTeamPlacement (vf : Nat) (s : State) : Out :=
  .next (match s.nextPlace vf with
    | none => s
    | some (g, c) =>
      if s.placeTurn vf g c then
        let s := s.placeTeam g c
        match s.partOf c with
        | some p => s.modPart p fun q => { q with turn := vf + 1 }
        | none => s
      else s)

/-! ## Reservations (01 R23) -/

/-- The grid that a VF and a tag name. -/
def State.gridBy (s : State) (v : Nat) (tag : Word) : Option Grid := s.grids.find? fun g => g.vf == v && g.tag == tag

/-- The state with a grid changed. -/
def State.modGrid (s : State) (v : Nat) (tag : Word) (f : Grid → Grid) : State :=
  { s with grids := s.grids.map fun g => if g.vf = v ∧ g.tag = tag then f g else g }

/-- One more unit keeps both caps. -/
def State.underCaps (s : State) (v : Nat) (tag : Word) : Bool :=
  (s.vf v).ftLive < (s.vf v).ftCap &&
    match s.gridBy v tag with
    | some g => g.ftcap == 0 || g.free < g.ftcap
    | none => true

/-- The answer goes back to the issuing core. -/
def State.answerResv (s : State) (r : Resv) (ok : Bool) : State :=
  if r.pkg = s.fabnum.toNat then { s with grants := s.grants ++ [⟨r.core, r.ctx, ok⟩] }
  else s.sendPacket 0 r.pkg r.core (.grant (BitVec.ofNat 9 r.core) r.ctx ok)

/-- RESERVATION_REQUEST (01 R23): granted in one step with the rise of the grid's count (R21), turned down in the trapping
form, else held. -/
def execReservationRequest (n : Nat) (s : State) : Out :=
  .next (match s.resvQ[n]? with
    | none => s
    | some r =>
      let s1 : State := { s with resvQ := s.resvQ.eraseIdx n }
      if s.underCaps r.vf r.grid then
        ((s1.modVf r.vf fun v => { v with ftLive := v.ftLive + 1 }).modGrid r.vf r.grid fun g =>
          { g with live := g.live + 1, free := if g.ftcap = 0 then g.free else g.free + 1 }).answerResv r true
      else if r.tf then s1.answerResv r false
      else s)

/-- RESERVATION_GRANT (01 R23): the thread holds its units, or has been turned down. -/
def execReservationGrant (n : Nat) (s : State) : Out :=
  .next (match s.grants[n]? with
    | none => s
    | some g =>
      let s : State := { s with grants := s.grants.eraseIdx n }
      if (s.thread g.core g.ctx).st = .none then s
      else
        (s.modThread g.core g.ctx fun t =>
          if g.ok then { t with resv := true, name := none } else { t with denied := true, name := none }).wakeAt g.core g.ctx .reserve none)

/-- GRID_COUNT_DECREMENT (01 R21, R23): a message whose grid holds no count is discarded. -/
def execGridCountDecrement (n : Nat) (s : State) : Out :=
  .next (match s.decs[n]? with
    | none => s
    | some d =>
      let s : State := { s with decs := s.decs.eraseIdx n }
      match s.gridBy d.vf d.grid with
      | none => s
      | some _ =>
        let s := s.modGrid d.vf d.grid fun g =>
          { g with
            live := if d.count then g.live - 1 else g.live
            free := if d.units ∧ g.ftcap ≠ 0 then g.free - 1 else g.free }
        if d.units then s.modVf d.vf fun v => { v with ftLive := v.ftLive - 1 } else s)

end Sys2Proof.Machine
end

