-- ==== Sys2Proof/Machine/Calendar.lean ====
section
/-! DEFINITION. The slice calendar (20 R422 to R425), halting at a slot end (R425, R426), and the reset of a VF (R430, R431, 01 R42,
18 R385). -/

namespace Sys2Proof.Machine

/-! ## Slots (20 R422, R423) -/

/-- KIND of a slot register. -/
def slotKind (w : Word) : Nat := bits w.toNat 30 2

/-- A value that a slot register accepts (20 R422, 19 R415). -/
def slotOk (w : Word) : Bool :=
  slotKind w != 3 && bits w.toNat 26 4 == 0 && bits w.toNat 8 8 == 0 &&
    (slotKind w == 1 || bits w.toNat 16 10 == 0)

/-- The length of a slot in cycles. -/
def slotCycles (w : Word) : Nat := (bits w.toNat 0 8 + 1) * 94000

/-- A slot register of a partition. -/
def Part.slot (p : Part) (i : Nat) : Word := Tbl.get 0 p.slots i

/-- The first used slot from index i on, modulo 32. -/
def Part.usedFrom (p : Part) (i : Nat) : Option Nat :=
  ((List.range 32).map fun k => (i + k) % 32).find? fun j => slotKind (p.slot j) != 0

/-- A slot starts: its register is read now. -/
def Part.enter (p : Part) (i : Nat) (clk : DWord) : Part :=
  { p with
    cur := i, slotWord := p.slot i, idle := false, slotEnd := some (clk + BitVec.ofNat 64 (slotCycles (p.slot i))) }

/-- The calendar goes to the first used slot from an index on, or is idle. -/
def Part.goTo (p : Part) (i : Nat) (clk : DWord) : Part :=
  match p.usedFrom i with
  | some j => p.enter j clk
  | none => { p with idle := true, slotWord := 0, slotEnd := none }

/-! ## Outgoing VFs (20 R425) -/

/-- A VF is active in a partition. -/
def State.activeIn (s : State) (v p : Nat) : Bool :=
  (s.part p).names v ((s.vf v).cal.getLsbD 0) && !(s.vf v).rst

/-- The cores of a partition that hold anything. -/
def State.partCores (s : State) (p : Nat) : List Nat := (s.cores.map Prod.fst).filter fun c => s.partOf c == some p

/-- VFs that were active in a partition and are no more are outgoing, with their deadline; one that is active again is not. -/
def State.markOutgoing (old s : State) (p : Nat) : State :=
  let out := (s.vfs.map Prod.fst).filter fun v => old.activeIn v p && !s.activeIn v p
  s.modPart p fun q =>
    { q with
      outgoing := (q.outgoing.filter fun e => !s.activeIn e.1 p && !out.contains e.1) ++ out.map fun v => (v, s.clk + 18800) }

/-- What a halted thread goes on waiting for: waits already registered stay registered, an instruction that waited to execute is
executed again (20 R425). -/
def Wait.onHalt : Wait → Option Wait
  | .words _ | .gscope | .drained | .fence _ | .acquire | .dict | .retry => none
  | w => some w

/-- The words of a register table that are EMPTY or LOCKED. -/
def unfilled (rs : Tbl RegWord) : List Nat := (rs.filter fun e => e.2.st != .full).map Prod.fst

/-- A thread halts where it stands; its words that are EMPTY or LOCKED at that moment are marked (13 R313). -/
def State.haltAt (s : State) (c x : Nat) (safe : Bool) : State :=
  let t := s.thread c x
  let w := match t.st with
    | .waiting w => w.onHalt
    | .ready => t.kept
    | _ => none
  let s := s.setThread c x { t with st := .halted w, kept := none, haltBy := some s.clk, atSafe := safe, marks := unfilled t.regs }
  match t.group with
  | some g => s.modGroup c g.1 fun k => { k with marks := k.marks ++ unfilled k.sregs }
  | none => s

/-- A thread of a VF that is not active halts at a safe point, or before it departs (20 R425); firmware threads do not. -/
def State.haltSafe (s : State) (c x : Nat) : State :=
  let t := s.thread c x
  if t.priv || ctxCount ≤ x || s.vfActive t.vf.toNat c then s
  else
    match t.st with
    | .departing _ _ => s.haltAt c x false
    | _ => if s.atSafePoint t then s.haltAt c x true else s

/-- Every thread of a partition that may halt now does. -/
def State.haltPart (s : State) (p : Nat) : State :=
  (s.partCores p).foldl (fun s c => (s.core c).ctxs.foldl (fun s e => s.haltSafe c e.1) s) s

/-- Cursors of VFs that are not active pause (05 R134); those of active ones go on. -/
def State.pauseCursors (s : State) (c : Nat) : State :=
  s.modCore c fun k => { k with cursors := k.cursors.map fun e =>
    (e.1, { e.2 with paused := e.2.live && !s.vfActive e.2.vf.toNat c }) }

/-- After a change of a partition's slot: outgoing VFs are found, threads halt, cursors pause. -/
def State.afterSlot (old s : State) (p : Nat) : State :=
  let s := (State.markOutgoing old s p).haltPart p
  (s.partCores p).foldl (fun s c => s.pauseCursors c) s

/-- A change of a partition's calendar. -/
def State.modCalendar (s : State) (p : Nat) (f : Part → Part) : State := State.afterSlot s (s.modPart p f) p

/-! ## Events of the calendar -/

/-- SLOT_END (20 R423, R425): the slot's length is over; the next used slot starts. -/
def execSlotEnd (part : Nat) (s : State) : Out :=
  .next (
    let p := s.part part
    match p.slotEnd with
    | none => s
    | some e =>
      if p.run && e.toNat ≤ s.clk.toNat then s.modCalendar part fun p => p.goTo ((p.cur + 1) % 32) s.clk
      else s)

/-- The threads of a VF in a partition halt where they stand. -/
def State.forceHalt (s : State) (p v : Nat) : State :=
  (s.partCores p).foldl (fun s c =>
    (s.core c).ctxs.foldl (fun s e =>
      let t := s.thread c e.1
      if t.vf.toNat = v ∧ !t.priv then
        match t.st with
        | .ready | .waiting _ => s.haltAt c e.1 false
        | _ => s
      else s) s) s

/-- FORCED_HALT (20 R425): 18,800 cycles after the slot end. -/
def execForcedHalt (part : Nat) (s : State) : Out :=
  .next (
    let due := (s.part part).outgoing.filter fun e => e.2.toNat ≤ s.clk.toNat
    let s := s.modPart part fun q => { q with outgoing := q.outgoing.filter fun e => s.clk.toNat < e.2.toNat }
    due.foldl (fun s e => s.forceHalt part e.1) s)

/-- A value that CALCTL accepts; the bits of CUR are read-only. -/
def calctlOk (v : Word) : Bool := bits v.toNat 21 11 == 0 && bits v.toNat 13 3 == 0 && bits v.toNat 1 7 == 0

/-- CALENDAR_RUN (20 R423): RUN goes from 0 to 1 and slot START is entered; while it runs, the write changes START alone. -/
def execCalendarRun (part : Nat) (v : Word) (s : State) : Out :=
  .next (
    if !calctlOk v || !v.getLsbD 0 || 64 ≤ part then s
    else
      let st := bits v.toNat 8 5
      if (s.part part).run then s.modPart part fun p => { p with start := st }
      else s.modCalendar part fun p => ({ p with start := st, run := true } : Part).goTo st s.clk)

/-- CALENDAR_STOP (20 R423): RUN := 0 ends the current slot as a slot end. -/
def execCalendarStop (part : Nat) (v : Word) (s : State) : Out :=
  .next (
    if !calctlOk v || v.getLsbD 0 || 64 ≤ part then s
    else s.modCalendar part fun p =>
      { p with start := bits v.toNat 8 5, run := false, idle := false, slotWord := 0, slotEnd := none })

/-- CALSLOT_WRITE (20 R422, R423): read at the slot's next start; a used slot starts an idle calendar at once. -/
def execCalslotWrite (part slot : Nat) (v : Word) (s : State) : Out :=
  .next (
    if !slotOk v || 64 ≤ part || 32 ≤ slot then s
    else
      let p := s.part part
      if p.run && p.idle && slotKind v != 0 then
        s.modCalendar part fun p => ({ p with slots := Tbl.set p.slots slot v } : Part).enter slot s.clk
      else s.modPart part fun p => { p with slots := Tbl.set p.slots slot v })

/-! ## The reset of a VF (20 R430, R431) -/

/-- The state that an event leaves. -/
def outState (s : State) : Out → State
  | .next s' => s'
  | _ => s

/-- An atomic or reduction of a VF that has not been performed: one on its way, turned back, faulted or kept for a replay. -/
def Req.pendAtom (r : Req) (v : Nat) : Bool :=
  r.vf.toNat == v && r.stat != .performed && (r.kind == .atomic || r.kind == .red)

/-- The atomics and reductions of a VF that have not been performed (20 R431). -/
def State.pendAtoms (s : State) (v : Nat) : Nat :=
  s.reqs.countP (fun r => r.pendAtom v) +
    (s.units.map fun u => if u.busy then 0 else u.reqs.countP fun r => r.pendAtom v).sum

/-- Each outstanding request of a VF is performed or not (free choice, log 1), and forgotten. -/
def State.endReqs (s : State) (v : Nat) : State :=
  let mine := s.reqs.filter fun r => r.vf.toNat == v && r.far.isNone
  let s := mine.foldl (fun s r =>
    if Config.choose (s.tick + r.id) % 2 = 1 then outState s (execPerform r.id s) else s) s
  { s with reqs := s.reqs.filter fun r => !(r.vf.toNat == v && r.far.isNone) }

/-- The matrix operations of a VF at a core are dropped, and the rows that an executing one was writing are poisoned (04 R116); an
engine that was executing goes on with the next operation, an idle one waits for its start slot (04 R110). -/
def State.endMatrix (s : State) (c v : Nat) : State :=
  let k := s.core c
  let first := k.mq.head?.any fun o => o.vf == v && o.start.isSome
  let s := match k.mq.head? with
    | some o => if first then s.poisonRows c o else s
    | none => s
  let s := (k.mq.filter fun o => o.vf == v).foldl (fun s o => s.unlockOp c o) s
  let s := s.modCore c fun k =>
    { k with
      mq := k.mq.filter fun o => o.vf != v
      latchA := if first then none else k.latchA
      latchB := if first then none else k.latchB }
  if first then s.matStart c else s

/-- What a core holds of a VF is released (20 R430, steps 2 to 4). -/
def Core.clearVf (k : Core) (v : Nat) : Core :=
  let mine := fun (t : Nat) => (Tbl.get default k.teams t).vf == v && (Tbl.get default k.teams t).live
  { k with
    ctxs := k.ctxs.filter fun e => e.2.vf.toNat != v || e.2.priv
    groups := k.groups.filter fun e => !(e.2.live && mine e.2.team)
    teams := k.teams.filter fun e => e.2.vf != v
    queue := k.queue.filter fun x => x.frame.vf.toNat != v
    overflow := k.overflow.filter fun x => x.frame.vf.toNat != v
    copies := k.copies.filter fun o => o.vf.toNat != v
    spills := k.spills.filter fun o => o.vf.toNat != v
    cursors := k.cursors.filter fun e => e.2.vf.toNat != v }

/-- The arrivals of a VF's groups leave every route tag (12 R294). -/
def State.clearTrees (s : State) (v : Nat) : State :=
  let mine := fun (a : Nat × Nat × Nat) =>
    a.2.1 == goneGroup v ||
      ((s.group a.1 a.2.1).live && (s.team a.1 (s.group a.1 a.2.1).team).vf == v && a.2.1 < 2 ^ 30)
  { s with parts := s.parts.map fun e => (e.1, { e.2 with trees := e.2.trees.map fun t =>
      (t.1, { t.2 with arrivals := t.2.arrivals.filter fun a => !mine a }) }) }

/-- The parked units of a VF are gone, and their buffer entries are free. -/
def State.clearUnits (s : State) (v : Nat) : State :=
  let s := (s.units.filter fun u => u.vf == v).foldl State.freeBuf s
  { s with
    units := s.units.filter fun u => u.vf != v
    held := s.held.map fun h => if h.vf = v then { h with unit := none } else h }

/-- One chain of a VF at its reset (18 R385). -/
def State.resetChain (s : State) (v k : Nat) : State :=
  match s.chainGet v k 0x18 with
  | .error _ => s.modChain v k fun _ => default
  | .ok started =>
    let s := match s.chainPut v k [(0, 0), (8, 0), (0x10, started), (0x20, started), (0x38, 0)] with
      | .ok s' => s'
      | .error _ => s
    s.modChain v k fun _ => default

/-- The counts of a VF are cleared (20 R430, step 6). -/
def State.clearCounts (s : State) (v : Nat) : State :=
  let gone := (s.grids.filter fun g => g.vf == v).map Grid.id
  let s := s.modVf v fun d => { d with ftLive := 0 }
  { s with
    grids := s.grids.filter fun g => g.vf != v
    resvQ := s.resvQ.filter fun r => r.vf != v
    grants := s.grants.filter fun g => (s.thread g.core g.ctx).vf.toNat != v
    decs := s.decs.filter fun d => d.vf != v
    cores := s.cores.map fun e => (e.1, { e.2 with teamWait := e.2.teamWait.filter fun w => !gone.contains w.1 }) }

/-- The lane sets of a VF that are decided or being issued are gone (20 R430, step 1). -/
def State.clearIssues (s : State) (v : Nat) : State :=
  let mine := fun (i : Issue) => i.lanes.any fun x => (s.thread i.core x).vf.toNat == v && !(s.thread i.core x).priv
  { s with issues := s.issues.filter fun i => !mine i, chosen := s.chosen.filter fun i => !mine i }

/-- The steps of a VF's reset. -/
def State.resetVf (s : State) (v : Nat) : State :=
  let s := s.clearIssues v
  let s := s.modVf v fun d => { d with rst := true, rstRep := BitVec.ofNat 64 (s.pendAtoms v % 2 ^ 32) }
  let s := (List.range 4).foldl (fun s k => s.resetChain v k) s
  let s := ((s.endReqs v).clearCounts v).clearTrees v
  let s := (s.cores.map Prod.fst).foldl (fun s c => s.endMatrix c v) s
  let s : State := { s with cores := s.cores.map fun e => (e.1, e.2.clearVf v) }
  s.clearUnits v

/-- VF_RESET (20 R430): a second write during a reset is discarded. -/
def execVfReset (vf : Nat) (s : State) : Out := .next (if (s.vf vf).rst || 1024 ≤ vf then s else s.resetVf vf)

/-- A frame of a VF waits in a port to leave, or for its acknowledgement (21 R440): it may still come back (21 R441). -/
def State.frameOut (s : State) (v : Nat) : Bool :=
  s.ports.any fun e => ((e.2.unacked.map Prod.fst) ++ e.2.queue.map Prod.fst).any fun k =>
    match k.body with
    | .frame f _ => f.vf.toNat == v
    | _ => false

/-- VF_RESET_COMPLETE (01 R42): no frame of the VF remains in flight. -/
def execVfResetComplete (vf : Nat) (s : State) : Out :=
  .next (
    if (s.vf vf).rst && (s.flights.all fun f => f.frame.vf.toNat != vf) && !s.frameOut vf then s.modVf vf fun d => { d with rst := false }
    else s)

end Sys2Proof.Machine
end

