-- ==== Sys2Proof/Machine/Device.lean ====
section
/-! DEFINITION. What the driver and firmware configure: octants and partitions (19 R388, R389), frames and keys (19 R397, R406),
principal tables (19 R411, R412), placement tables (02 R47, R451), windows (19 R407 to R409) and kernels (13 R305 to R311). -/

namespace Sys2Proof.Machine

/-! ## Octants and partitions (19 R388, R389) -/

/-- The cores of an octant (19 R388). -/
def octCores (o : Nat) : List Nat := (List.range 8).map fun j => 8 * o + j

/-- An admitted team, free thread, queued or overflowed frame exists at a core. -/
def Core.occupied (k : Core) : Bool :=
  (k.teams.any fun e => e.2.live) || (k.ctxs.any fun e => e.2.st != .none && e.2.group.isNone && !e.2.priv) ||
    !k.queue.isEmpty || !k.overflow.isEmpty

/-- An octant is not free for a change (19 R389). -/
def State.octBusy (s : State) (o : Nat) : Bool := (octCores o).any fun c => (s.core c).occupied

/-- The entry of octant j in a written OCTMAP register (19 R415). -/
def octEntry (v : DWord) (j : Nat) : Option Nat :=
  if v.getLsbD (8 * j + 7) then some (bits v.toNat (8 * j) 6) else none

/-- The entry of octant j leaves its reserved bit zero. -/
def octOk (v : DWord) : Bool := (List.range 8).all fun j => !v.getLsbD (8 * j + 6)

/-- The tags of a partition whose set held a core of an octant are no longer valid (19 R416). -/
def Part.untag (p : Part) (o : Nat) : Part :=
  { p with trees := p.trees.map fun e =>
      (e.1, { e.2 with valid := e.2.valid && !(octCores o).any fun c => Tbl.get 0 e.2.exp c != 0 }) }

/-- An octant is given to a partition, or to none; the lines of its slices go. -/
def State.setOctant (s : State) (o : Nat) (p : Option Nat) : State :=
  let s := match s.partOfOctant o with
    | some q => if p = some q then s else s.modPart q fun k => k.untag o
    | none => s
  (octCores o).foldl (fun s c => s.modCore c fun k => { k with ro := [] })
    { s with octmap := Tbl.set s.octmap o p }

/-- OCTMAP_WRITE (19 R389): octants that are not free keep the write from acting. -/
def execOctmapWrite (i : Nat) (v : DWord) (s : State) : Out :=
  .next (
    let new := (List.range 8).filter fun j => s.partOfOctant (8 * i + j) != octEntry v j
    if 8 ≤ i || !octOk v || (new.any fun j => s.octBusy (8 * i + j)) then s
    else (new.foldl (fun s j => s.setOctant (8 * i + j) (octEntry v j)) s).reFw)

/-- PARTCFG_WRITE (19 R389): S from 1 to 6. -/
def execPartcfgWrite (part : Nat) (v : Word) (s : State) : Out :=
  .next (
    let n := bits v.toNat 0 3
    let cs := s.partCores part
    if n = 0 ∨ n = 7 ∨ 64 ≤ part ∨ (cs.any fun c => (s.core c).occupied) then s
    else
      cs.foldl (fun s c => s.modCore c fun k => { k with ro := [] }) (s.modPart part fun p => { p with s := n }))

/-! ## Owners (19 R397) -/

/-- A frame's entry may be written: not of the reserve, not in a window's page list, not retired (20 R436). -/
def State.ownerFree (s : State) (f : Nat) : Bool :=
  f % 32768 < 30720 && !s.inWindow f (fun _ => true) && !s.retired.contains f

/-- An owner entry replaced. -/
def State.setOwner (s : State) (f : Nat) (o : Owner) : State := { s with owners := Tbl.set s.owners f o }

/-- An OWNER write; INIT also starts a scrub. -/
def State.writeOwner (s : State) (core frame : Nat) (v : BitVec 16) : State :=
  let f := core * 32768 + frame
  if 512 ≤ core ∨ 32768 ≤ frame ∨ v.extractLsb' 11 2 ≠ 0 ∨ !s.ownerFree f then s
  else
    let o := s.owner f
    s.setOwner f { o with hostOk := v.getLsbD 15, init := o.init || v.getLsbD 13, key := (v.extractLsb' 0 11).toNat }

/-- OWNER_WRITE (19 R397): an OWNER write with INIT = 0. -/
def execOwnerWrite (core frame : Nat) (v : BitVec 16) (s : State) : Out :=
  .next (if v.getLsbD 13 then s else s.writeOwner core frame v)

/-- FRAME_SCRUB (19 R397): an OWNER write with INIT = 1. -/
def execFrameScrub (core frame : Nat) (v : BitVec 16) (s : State) : Out :=
  .next (if v.getLsbD 13 then s.writeOwner core frame v else s)

/-- SCRUB_COMPLETE (19 R397): the frame is zeros under its key, and INIT reads 0. -/
def execScrubComplete (core frame : Nat) (s : State) : Out :=
  .next (
    s.endScrub (core * 32768 + frame))

/-! ## Keys (19 R406) -/

/-- A key slot is generated anew. -/
def State.newKey (s : State) (k : Nat) : State := { s with keys := Tbl.set s.keys k ⟨true, (s.keySlot k).gen + 1⟩ }

/-- A key slot is destroyed: its keys are zeros from now on (19 R406). -/
def State.dropKey (s : State) (k : Nat) : State := { s with keys := Tbl.set s.keys k ⟨false, (s.keySlot k).gen⟩ }

/-- The keys of a VF change: cache-die state under the old SRAM key reads as something else (19 R405). -/
def State.vfKey (s : State) (v : Nat) (f : State → State) : State := (f s).scramble v (s.sramKey v) ((f s).sramKey v)

/-- KEY_GENERATE (19 R413): the data, MAC and SRAM keys of a VF. -/
def execKeyGenerate (vf : Nat) (s : State) : Out :=
  .next (if 1024 ≤ vf then s else s.vfKey vf fun s => s.newKey (vf + 1))

/-- KEY_DESTROY (19 R414): every cache-die line of the VF is dropped, its keys are destroyed. -/
def execKeyDestroy (vf : Nat) (s : State) : Out :=
  .next (if 1024 ≤ vf then s else (s.roDrop vf none).vfKey vf fun s => s.dropKey (vf + 1))

/-- PCINV (19 R412): every core drops the VF's map lines. -/
def execPcinv (vf : Nat) (s : State) : Out :=
  .next (if 1024 ≤ vf then s else
    { s with cores := s.cores.map fun e =>
        (e.1, { e.2 with maps := e.2.maps.filter fun m => m.1 / 8 / 4096 != vf }) })

/-! ## Placement tables (02 R47, R451) -/

/-- The fields of a descriptor, from its four 64-bit words. -/
def Region.ofWords (w0 w1 w2 w3 : Nat) : Region :=
  { base := bits w0 0 56, func := bits w1 60 4, grain := w1.testBit 59, win := w1.testBit 58, size := bits w1 0 40
    nc := bits w2 49 10, core0 := bits w2 40 9, pstr := bits w2 32 8, npkg := bits w2 16 16, pkg0 := bits w2 0 16
    cstr := bits w3 40 9, dieMask := BitVec.ofNat 8 (bits w3 32 8), share := bits w3 0 32 }

/-- NC, CORE0 and CSTR keep their limits. -/
def Region.coresOk (g : Region) : Bool :=
  1 ≤ g.nc && g.nc ≤ 512 && (g.nc == 1 || (1 ≤ g.cstr && g.core0 + (g.nc - 1) * g.cstr ≤ 511))

/-- NPKG and PSTR keep their limits. -/
def Region.pkgsOk (g : Region) : Bool := 1 ≤ g.npkg && (g.npkg == 1 || 1 ≤ g.pstr)

/-- BASE, SIZE and GRAIN keep their limits. -/
def Region.extentOk (g : Region) : Bool :=
  g.base % 65536 == 0 && 1 ≤ g.size &&
    (!g.grain || (g.func == 2 && g.base % 2097152 == 0 && g.size % 32 == 0))

/-- The limits that 02 R451 checks for a descriptor's function. -/
def Region.limitsOk (g : Region) : Bool :=
  g.extentOk &&
    match g.func with
    | 1 => g.coresOk && g.pkgsOk && 1 ≤ g.share
    | 2 => g.coresOk && g.pkgsOk
    | 3 | 5 => true
    | 4 => g.pkgsOk
    | _ => false

/-- A descriptor is accepted. -/
def descOk (w0 w1 w2 w3 : Nat) : Bool :=
  bits w1 60 4 == 0 ||
    (bits w0 56 8 == 0 && bits w1 40 18 == 0 && bits w2 59 5 == 0 && bits w3 49 15 == 0 &&
      (Region.ofWords w0 w1 w2 w3).limitsOk)

/-- Descriptor i of the table at a device address. -/
def State.descAt (s : State) (a i : Nat) : Bool × Region :=
  let w := fun (j : Nat) => s.stillNat (a + 32 * i + 8 * j) 8
  (descOk (w 0) (w 1) (w 2) (w 3), Region.ofWords (w 0) (w 1) (w 2) (w 3))

/-- REGION_TABLE_LOAD (02 R47, 19 R415): the 64 descriptors are loaded; a rejected one leaves its region invalid, and the status
names the first. -/
def execRegionTableLoad (vf : Nat) (s : State) : Out :=
  .next (if 1024 ≤ vf then s else
    let ds := (List.range 64).map fun i => (i, s.descAt (s.vf vf).regTab.toNat i)
    let good := ds.filter fun d => d.2.1 && d.2.2.func != 0
    let bad := ds.find? fun d => !d.2.1
    s.modVf vf fun v =>
      { v with
        regs := good.map fun d => (d.1, d.2.2)
        regLoad := match bad with
          | none => 0
          | some d => BitVec.ofNat 32 (d.1 * 256 + 2) })

/-! ## Windows (19 R407 to R409) -/

/-- The key of a window. -/
def winKey (w : Nat) : Nat := 1024 + w

/-- A window number. -/
def winOk (w : Nat) : Bool := 1 ≤ w && w < 1024

/-- A value that WINCTL accepts; STATE is read-only. -/
def winctlOk (v : DWord) : Bool := bits v.toNat 20 40 == 0 && bits v.toNat 10 6 == 0

/-- The command of a WINCTL write. -/
def winCmd (v : DWord) : Nat := bits v.toNat 60 2

/-- NCONS and PRODUCER are written while the window is closed. -/
def State.winFields (s : State) (w : Nat) (v : DWord) : State :=
  s.modWindow w fun k =>
    if k.state = .closed then { k with ncons := bits v.toNat 16 4, producer := bits v.toNat 0 10 } else k

/-- A WINCTL write is accepted for a window with a command. -/
def State.winWrite (s : State) (w : Nat) (v : DWord) (cmd : Nat) (f : State → State) : State :=
  if winOk w && winctlOk v && winCmd v == cmd then f (s.winFields w v) else s

/-- WINPAGE_ADD (19 R407): a frame owned by the producer's key joins the list of a closed window. -/
def execWinpageAdd (win : Nat) (v : DWord) (s : State) : Out :=
  .next (
    let f := bits v.toNat 0 24
    let w := s.window win
    if winOk win && v.getLsbD 63 && w.state == .closed && (s.owner f).key == w.producer + 1 && !w.pages.contains f then
      s.modWindow win fun w => { w with pages := w.pages ++ [f] }
    else s)

/-- WINPAGE_CLEAR (19 R407). -/
def execWinpageClear (win : Nat) (s : State) : Out :=
  .next (if winOk win && (s.window win).state == .closed then s.modWindow win fun w => { w with pages := [] } else s)

/-- The sectors of a frame that fail their check now stay poisoned when the frame is written anew (19 R403). -/
def State.keepBad (s : State) (f : Nat) : State :=
  let bad := (List.range 256).filter fun i => s.encOf (f * 65536 + i * 256) != s.keyOf (f * 65536)
  { s with poison := s.poison ++ (bad.map fun i => f * 256 + i).filter fun q => !s.poison.contains q }

/-- The pages of a window whose re-key starts: they keep their bad sectors, and REKEY is set. -/
def State.startRekey (s : State) (w key : Nat) : State :=
  (s.window w).pages.foldl (fun s f =>
    (s.keepBad f).setOwner f { s.owner f with key := key, rekey := true }) s

/-- The pages of a window are rewritten under a key, as they are or as zeros. -/
def State.endRekey (s : State) (w key : Nat) (zero : Bool) : State :=
  (s.window w).pages.foldl (fun s f =>
    let s := s.setOwner f { s.owner f with key := key, rekey := false }
    if zero then s.scrub f else s.rekeyFrame f) s

/-- WINDOW_OPEN (19 R408): the window key is generated and the re-key of the pages starts. -/
def execWindowOpen (win : Nat) (v : DWord) (s : State) : Out :=
  .next (s.winWrite win v 1 fun s =>
    let w := s.window win
    if w.state != .closed then s
    else
      let s := s.modWindow win fun w => { w with state := .opening, pages := w.pages.filter fun f => (s.owner f).key == w.producer + 1 }
      (s.newKey (winKey win)).startRekey win (winKey win))

/-- A close starts (19 R409, step 1): the bad sectors are kept as long as the window key stands. -/
def State.startClose (s : State) (win cmd : Nat) : State :=
  if (s.window win).state = .isOpen then
    (s.modWindow win fun w => { w with state := .closing, cmd := cmd }).startRekey win (winKey win)
  else s

/-- WINDOW_CLOSE_REKEY (19 R409): CMD 2. -/
def execWindowCloseRekey (win : Nat) (v : DWord) (s : State) : Out :=
  .next (s.winWrite win v 2 fun s => s.startClose win 2)

/-- WINDOW_CLOSE_DESTROY (19 R409): CMD 3. -/
def execWindowCloseDestroy (win : Nat) (v : DWord) (s : State) : Out :=
  .next (s.winWrite win v 3 fun s => s.startClose win 3)

/-- A TLB entry at a core maps a frame of a list. -/
def TlbEntry.inPages (e : TlbEntry) (core : Nat) (pages : List Nat) : Bool :=
  let p := Pte.ofNat e.pte.toNat
  !p.host && pages.any fun f => f / 32768 == core && f % 32768 / p.frames == p.frame / p.frames

/-- The TLB entries of a window's consumers for its pages are dropped at every core (19 R409, step 3). -/
def State.dropConsumers (s : State) (w : Window) : State :=
  { s with cores := s.cores.map fun e =>
      (e.1, { e.2 with tlb := e.2.tlb.filter fun t => !(w.consumers.contains t.vf && t.inPages e.1 w.pages) }) }

/-- REKEY_COMPLETE (19 R408, R409): the pages are rewritten and STATE changes; accesses that wait run Translate again. -/
def execRekeyComplete (win : Nat) (s : State) : Out :=
  .next (
    let w := s.window win
    match w.state with
    | .opening => (s.endRekey win (winKey win) false).modWindow win fun w => { w with state := .isOpen }
    | .closing =>
      let s := (s.dropConsumers w).endRekey win (w.producer + 1) (w.cmd == 3)
      let s := if w.cmd = 3 then s.dropKey (winKey win) else s
      s.modWindow win fun w => { w with state := .closed, cmd := 0 }
    | _ => s)

/-! ## Kernel images (13 R305 to R311) -/

/-- A byte of an image page at its home: memory or host memory, and the place there; none where the page is absent, poisoned
or of nonzero class (13 R308). -/
def State.imgPage (s : State) (v a c : Nat) (g : Region) : Option (Bool × Nat) :=
  match s.translate v a c g with
  | .error _ => none
  | .ok e =>
    if e.cls != 0 then none
    else if e.host then some (true, e.offset a)
    else if !(s.owner (frameOf (physAddr c (e.offset a)))).init && s.poisoned (physAddr c (e.offset a)) then none
    else some (false, physAddr c (e.offset a))

/-- A byte of a VF's image as the device reads it, at its home here, in host memory or in another package (log 27). -/
def State.imgByte (s : State) (v a : Nat) : Option Nat :=
  let read := fun (p : Option (Bool × Nat)) =>
    p.map fun p => if p.1 then (Mem.get s.hostMem p.2).toNat else s.stillNat p.2 1
  if a ≥ 2 ^ 56 then none
  else
    match s.homeOf v a 0 with
    | .ok (g, .core c) => read (s.imgPage v a c g)
    | .ok (g, .host) => read (s.imgPage v a 0 g)
    | .ok (_, .far pkg core) =>
      match s.devThere pkg core (a / 256 * 256) with
      | .ok _ => some (Config.farByte s.tick s.clk.toNat pkg a).toNat
      | .error _ => none
    | .error _ => none

/-- A number of n bytes of a VF's image, byte by byte. -/
def State.imgNat (s : State) (v : Nat) : Nat → Nat → Option Nat
  | _, 0 => some 0
  | a, n + 1 =>
    match s.imgByte v a, s.imgNat v (a + 1) n with
    | some x, some r => some (x + 256 * r)
    | _, _ => none

/-- A list of n numbers of k bytes of a VF's image. -/
def State.imgList (s : State) (v k : Nat) : Nat → Nat → Option (List Nat)
  | _, 0 => some []
  | a, n + 1 =>
    match s.imgNat v a k, s.imgList v k (a + k) n with
    | some x, some r => some (x :: r)
    | _, _ => none

/-- The header of a kernel image (13 R305). -/
structure Header where
  magic : Nat
  version : Nat
  modes : Nat
  codeLen : Nat
  dictLen : Nat
  nsafe : Nat
  codeOff : Nat
  dictOff : Nat
  safeOff : Nat
  dataOff : Nat
  dataLen : Nat
  scratch : Nat
  acc : Nat
  nroles : Nat
  reserve : Nat
  zeros : Nat
  roles : List Nat
  deriving DecidableEq, Repr

/-- The header read from its 128 bytes as a number. -/
def Header.ofNat (h : Nat) : Header :=
  let f := fun (off n : Nat) => bits h (8 * off) (8 * n)
  { magic := f 0 4, version := f 4 2, modes := f 6 2, codeLen := f 8 4, dictLen := bits (f 0xC 2) 0 11, nsafe := f 0xE 2
    codeOff := f 0x10 4, dictOff := f 0x14 4, safeOff := f 0x18 4, dataOff := f 0x1C 4, dataLen := f 0x20 4
    scratch := f 0x24 1, acc := f 0x25 1, nroles := f 0x26 1, reserve := f 0x28 4
    zeros := f 0x27 1 + f 0x2C 4 + f 0x50 48, roles := (List.range 4).map fun k => f (0x30 + 8 * k) 8 }

/-- PRINC. -/
def Header.princ (h : Header) : Nat := bits h.modes 5 3
/-- WIDTHS, bit i for a width of 8 · 2^i. -/
def Header.widths (h : Header) : Nat := bits h.modes 1 4

/-- The header and the four sections, as offset and length. -/
def Header.sections (h : Header) : List (Nat × Nat) :=
  [(0, 128), (h.codeOff, 2 * h.codeLen), (h.dictOff, 12 * h.dictLen), (h.safeOff, 32 * h.nsafe), (h.dataOff, h.dataLen)]

/-- Two sections that share no byte. -/
def apart (a b : Nat × Nat) : Bool := a.2 == 0 || b.2 == 0 || a.1 + a.2 ≤ b.1 || b.1 + b.2 ≤ a.1

/-- No two of a list of sections overlap. -/
def allApart : List (Nat × Nat) → Bool
  | [] => true
  | a :: l => l.all (apart a) && allApart l

/-- Every section of an image at an address ends within the address space that holds the image (13 R305; log 60). -/
def Header.inside (h : Header) (img : Nat) : Bool := h.sections.all fun e => img + e.1 + e.2 ≤ 2 ^ 56

/-- Every header field keeps its limit (13 R305). -/
def Header.limitsOk (h : Header) : Bool :=
  bits h.modes 8 8 == 0 && h.princ ≤ 3 && h.widths != 0 && 1 ≤ h.codeLen && h.dictLen ≤ 1024 &&
    h.codeOff % 16 == 0 && h.dictOff % 16 == 0 && h.safeOff % 32 == 0 && h.dataOff % 64 == 0 &&
    h.scratch ≤ 96 && h.acc ≤ 32 && 1 ≤ h.nroles && h.nroles ≤ 4 && h.reserve % 32 == 0 && h.zeros == 0 &&
    allApart h.sections

/-- The roles of a header, where they keep R306 and R167 for every width set. -/
def Header.rolesOk (h : Header) : Option (List Role) :=
  match rolesOf h.codeLen h.nroles h.roles with
  | none => none
  | some rs => if (List.range 4).all fun i => !h.widths.testBit i || groupsOk (8 * 2 ^ i) rs then some rs else none

/-- A safe-point entry (13 R311). -/
def SafePt.ofNat (e : Nat) : SafePt :=
  ⟨BitVec.ofNat 32 (bits e 0 32), BitVec.ofNat 32 (bits e 32 32), BitVec.ofNat 64 (bits e 64 64),
    BitVec.ofNat 32 (bits e 128 32), BitVec.ofNat 96 (bits e 160 96)⟩

/-- The PCs stand in strictly ascending order. -/
def ascending : List SafePt → Bool
  | a :: b :: l => a.pc.toNat < b.pc.toNat && ascending (b :: l)
  | _ => true

/-- The checks of 13 R308, in the order of log 60: the kernel, or the reason of the rejection. -/
def State.readKernel (s : State) (v : Nat) : Except Nat Kernel :=
  let img := (s.vf v).kimg.toNat
  match s.imgNat v img 128 with
  | none => .error 5
  | some n =>
    let h := Header.ofNat n
    if h.magic ≠ 0x58425751 ∨ h.version ≠ 1 then .error 1
    else if !h.limitsOk || !h.inside img then .error 2
    else
      match h.rolesOk with
      | none => .error 3
      | some rs =>
        match s.imgList v 2 (img + h.codeOff) h.codeLen, s.imgList v 12 (img + h.dictOff) h.dictLen,
            s.imgList v 32 (img + h.safeOff) h.nsafe with
        | some code, some dict, some safe =>
          let safe := safe.map SafePt.ofNat
          if !ascending safe then .error 4
          else .ok
            { live := true, image := BitVec.ofNat 56 img, data := (s.vf v).kdata, princ := h.princ
              widths := BitVec.ofNat 4 h.widths, migratory := h.modes.testBit 0
              code := code.map (BitVec.ofNat 16), dict := dict.map (BitVec.ofNat 96), safe := safe
              scratch := h.scratch, acc := h.acc, reserve := h.reserve, roles := rs }
        | _, _, _ => .error 5

/-- A handle may be issued: not registered, and named by no grid (13 R308). -/
def State.handleFree (s : State) (v h : Nat) : Bool :=
  !(s.kernel v h).live && !s.grids.any fun g => g.vf == v && g.khandle.toNat == h

/-- The lowest free handle from 1 to 65,535. -/
def State.lowestHandle (s : State) (v : Nat) : Option Nat :=
  ((List.range 65535).find? fun i => s.handleFree v (i + 1)).map (· + 1)

/-- KREG after a command: status, reason, handle. -/
def kregWord (status reason handle : Nat) : Word := BitVec.ofNat 32 (handle * 65536 + reason * 256 + status)

/-- KERNEL_REGISTER (13 R308). -/
def execKernelRegister (vf : Nat) (s : State) : Out :=
  .next (if 1024 ≤ vf then s else
    match s.readKernel vf with
    | .error r => s.modVf vf fun v => { v with kreg := kregWord 2 r 0 }
    | .ok k =>
      match s.lowestHandle vf with
      | none => s.modVf vf fun v => { v with kreg := kregWord 2 6 0 }
      | some h =>
        let s : State := { s with cores := s.cores.map fun e =>
          (e.1, { e.2 with khere := e.2.khere.filter (· != (vf, h)), dicts := e.2.dicts.filter (fun d => !(d.vf == vf && d.handle == h)), dictWant := e.2.dictWant.filter (· != (vf, h)) }) }
        s.modVf vf fun v => { v with kernels := Tbl.set v.kernels h k, kreg := kregWord 0 0 h })

/-- KERNEL_UNREGISTER (13 R308): grids already started keep running. KREG then reads done with the handle, for one that is not registered
too, of which the spec says nothing (log 100: DESIGN CHOICE). -/
def execKernelUnregister (vf : Nat) (handle : BitVec 16) (s : State) : Out :=
  .next (if 1024 ≤ vf then s else
    s.modVf vf fun v =>
      { v with
        kernels := if (s.kernel vf handle.toNat).live then
            Tbl.set v.kernels handle.toNat { s.kernel vf handle.toNat with live := false }
          else v.kernels
        kreg := kregWord 0 0 handle.toNat })

end Sys2Proof.Machine
end

