-- ==== Sys2Proof/Machine/Link.lean ====
section
/-! DEFINITION. The links to the outside: fabric packets (21 R439 to R441, 03 R85), the order of classes at the Ethernet ports (21 R443),
CXL.mem (18 R375) and CXL.cache (18 R376). -/

namespace Sys2Proof.Machine

/-! ## Packets from other packages (21 R440) -/

/-- The number of a source port as a receiving port keeps it. -/
def Packet.source (p : Packet) : Nat := p.srcPkg.toNat * 16 + p.srcPort.toNat

/-- The request of another package as this package holds it. -/
def State.farReq (s : State) (p : Packet) (r : WireReq) : Req :=
  { (default : Req) with
    id := s.nextReq, ctx := r.ctx, round := r.round, engine := r.engine, hint := r.hint, core := r.core.toNat, vf := r.vf, principal := r.principal, khandle := r.khandle, grid := r.grid
    pc := r.pc, kind := r.kind, va := r.va, size := r.size, ty := r.ty, op := r.op, data := r.data, expected := r.expected
    tf := r.tf, home := .core r.core.toNat, win := r.win, stat := .sent
    far := some (p.srcPkg.toNat, r.srcCore.toNat, r.id), srcCore := r.srcCore, srcPkg := p.srcPkg, known := false }

/-- The status that a response gives its request. -/
def WireResp.stat (r : WireResp) (va : Nat) : RStat :=
  match r with
  | .value _ | .sector _ _ _ => .performed
  | .denied c n => .denied c n
  | .returned => .returned
  | .trap c k => .faulted (trapAt ((Cause.ofCode c).getD .poison) k va)

/-- The value that a response returns. -/
def WireResp.val : WireResp → BitVec 128
  | .value v | .sector v _ _ => v
  | _ => 0

/-- The sector that a response brings fills the slice of the issuing die (02 R57). -/
def State.fillBack (s : State) (q : Req) : WireResp → State
  | .sector _ cls bs =>
    { s with fills := s.fills ++ [⟨sliceOf q.va.toNat q.core, q.vf.toNat, q.va.toNat / 256, cls, bs, q.hint, none⟩] }
  | _ => s

/-- A response to a request of this package, or a replica's acknowledgement (03 R93). -/
def State.response (s : State) (id : Nat) (r : WireResp) : State :=
  if 2 ^ 60 ≤ id then
    let own := (id - 2 ^ 60) / 2 ^ 20
    let rep := (id - 2 ^ 60) % 2 ^ 20 + 2 ^ 19
    match r with
    | .trap c k =>
      if s.reqs.any fun q => q.id == own && q.reps.contains rep then
        (s.modReq own fun q => { q with reps := [] }).reqOutcome own (WireResp.stat (.trap c k) 0) 0
      else s
    | _ => s.repDone own rep
  else
    match s.reqs.find? fun q => q.id == id && q.stat == .sent && q.far.isNone with
    | none => s
    | some q =>
      if r = .returned then s.turnBack q
      else
        let s := (s.fillBack q r).reqOutcome id (WireResp.stat r q.va.toNat) (WireResp.val r)
        s.modReq id fun q => { q with known := true }

/-- What another package asks of a structure of a VF whose home is here: the step of its access that acts at the home (18 R380, 02 R72,
20 R419). One that finds its page not here, or may not use it, has no effect. -/
def State.devServe (s : State) (v : Nat) (op : DevOp) : State :=
  let use := fun (a : Nat) (f : Nat → State) =>
    match s.devAt v a true with
    | .ok (.here p) => f p
    | _ => s
  match op with
  | .store a bs => use a.toNat fun p => s.devPut p bs
  | .append k b => use (s.chainAt v k) fun p => s.linkBlock v k b.toNat (.here p)
  | .deny =>
    use (s.vf v).dlog.toNat fun p =>
      s.denyCount v (ringRoom (s.stillNat p 8) (s.stillNat (p + 24) 8) (2 ^ (s.vf v).dlogK)) (.here p)
  | .post =>
    use (s.vf v).fqAddr fun p =>
      if ringRoom (s.stillNat p 8) (s.stillNat (p + 8) 8) (s.vf v).fqSize then s.fqTake v (s.stillNat p 8) (.here p) else s

/-- The hand-off of a packet to the on-die network (21 R440). -/
def State.handOff (s : State) (port : Nat) (p : Packet) : State :=
  match p.body with
  | .frame f core => { s with flights := s.flights ++ [⟨f, s.fabnum.toNat, core.toNat, BitVec.ofNat 8 port, false⟩] }
  | .request r =>
    (s.addReq (s.farReq p r)).modPort port fun k => { k with rxReqs := k.rxReqs ++ [(Packet.source p, p.seq, s.nextReq)] }
  | .response id r => s.response id r
  | .marker _ _ => s.modPort port fun k => { k with rxMarkers := k.rxMarkers ++ [(Packet.source p, p.seq)] }
  | .markerAck c x => s.markersBack c.toNat x 1
  | .reserve c x v g tf => { s with resvQ := s.resvQ ++ [⟨p.srcPkg.toNat, c.toNat, x, v.toNat, g, tf⟩] }
  | .grant c x ok => { s with grants := s.grants ++ [⟨c.toNat, s.named c.toNat x, ok⟩] }
  | .decrement v g n u => { s with decs := s.decs ++ [⟨v.toNat, g, n, u⟩] }
  | .device _ v op => s.devServe v.toNat op

/-- Management, barrier and control traffic (19 R391). -/
def Payload.control : Payload → Bool
  | .frame .. | .request _ | .response .. => false
  | _ => true

/-- Control traffic does not come in through a port that filters without PASSMGMT (19 R391; log 16). -/
def State.mgmtStopped (s : State) (port : Nat) (p : Packet) : Bool :=
  let w := s.fwOf (ethRouter port)
  Payload.control p.body && w.getLsbD 63 && !w.getLsbD 61

/-- The packet is for a port of this package that is enabled. -/
def State.takes (s : State) (port : Nat) (p : Packet) : Bool :=
  port < 16 && p.dstPkg == s.fabnum && p.dstPort.toNat == port && (s.port port).cfg.getLsbD 63

/-- The port acknowledges packets to their source ports (21 R440). -/
def State.ackBack (s : State) (port : Nat) (l : List (Nat × Nat)) : State := s.modPort port fun k => { k with acks := k.acks ++ l }

/-- A packet is acknowledged once it is handed off; a copy of a marker, when its condition holds (03 R85). -/
def State.ackNow (s : State) (port : Nat) (p : Packet) : State :=
  if (s.port port).rxMarkers.contains (Packet.source p, p.seq) then s else s.ackBack port [(Packet.source p, p.seq)]

/-- PACKET_RECEIVE (21 R440): a packet is handed off once and acknowledged; one received before is acknowledged again. -/
def execPacketReceive (port : Nat) (p : Packet) (s : State) : Out :=
  .next (
    if !s.takes port p then s
    else
      let s1 := s.modPort port fun k => { k with rxPkt := k.rxPkt + 1 }
      if (s.port port).rxSeen.contains (Packet.source p, p.seq) then s1.ackNow port p
      else if s.mgmtStopped port p then s1
      else ((s1.modPort port fun k => { k with rxSeen := (Packet.source p, p.seq) :: k.rxSeen }).handOff port p).ackNow port p)

/-- Every packet of a marker's source port with a lower number has been received, has reached its home and, for a write, has been
performed (03 R85). A frame of the port that is still on its way keeps the marker. -/
def State.markerDue (s : State) (port : Nat) (m : Nat × Nat) : Bool :=
  let k := s.port port
  ((List.range m.2).all fun q => k.rxSeen.contains (m.1, q)) &&
    (k.rxReqs.all fun e => e.1 != m.1 || m.2 ≤ e.2.1 ||
      !s.reqs.any fun r => r.id == e.2.2 && AccKind.writes r.kind && r.open) &&
    s.flights.all fun f => f.port.toNat != port

/-- The markers of a port that may be acknowledged are, and requests that are gone are forgotten. -/
def State.ackFar (s : State) (port : Nat) : State :=
  s.modPort port fun k =>
    { k with
      acks := k.acks ++ k.rxMarkers.filter fun m => s.markerDue port m
      rxMarkers := k.rxMarkers.filter fun m => !s.markerDue port m
      rxReqs := k.rxReqs.filter fun e => s.reqs.any fun r => r.id == e.2.2 }

/-! ## Sent packets (21 R440, R441) -/

/-- PACKET_ACK (21 R440): the n-th unacknowledged packet of a port is acknowledged; a marker's copy counts (03 R85). -/
def execPacketAck (port n : Nat) (s : State) : Out :=
  .next (match (s.port port).unacked[n]? with
    | none => s
    | some k =>
      let s := s.modPort port fun q => { q with unacked := q.unacked.eraseIdx n }
      match k.1.body with
      | .marker c x => s.ackMarkers c.toNat (s.named c.toNat x) 1
      | _ => s)

/-- RETRY of a port. -/
def Port.retryMax (p : Port) : Nat := bits p.cfg.toNat 32 16

/-- A package is marked unreachable, and the packet meets its outcome (21 R441). -/
def State.unreachable (s : State) (port n : Nat) (k : Packet) : State :=
  let q := k.dstPkg.toNat
  (s.modPort port fun p =>
    { p with
      unacked := p.unacked.eraseIdx n
      away := if p.away.contains q then p.away else q :: p.away
      unreach := if p.away.contains q then p.unreach else p.unreach + 1 }).failPayload k.body

/-- RETRANSMIT (21 R440, R441): the n-th unacknowledged packet is sent again; past RETRY its package is unreachable. -/
def execRetransmit (port n : Nat) (s : State) : Out :=
  .next (match (s.port port).unacked[n]? with
    | none => s
    | some k =>
      if k.2 < (s.port port).retryMax then
        s.modPort port fun p => { p with unacked := p.unacked.set n (k.1, k.2 + 1), reTx := p.reTx + 1 }
      else s.unreachable port n k.1)

/-- A value that ETHCFG accepts (21 R450). -/
def ethOk (v : DWord) : Bool := bits v.toNat 52 11 == 0 && bits v.toNat 0 32 == 0 && bits v.toNat 32 16 != 0

/-- ETHCFG_WRITE (21 R441, R450): the port is configured and its unreachable marks are cleared. -/
def execEthcfgWrite (port : Nat) (v : DWord) (s : State) : Out :=
  .next (if port < 16 && ethOk v then s.modPort port fun p => { p with cfg := v, away := [] } else s)

/-! ## Output ports (21 R439, R443) -/

/-- The head of a class among the packets that wait at a port: its place. -/
def Port.headOf (p : Port) (c : Nat) : Option Nat := p.queue.findIdx? fun e => e.1.cls.toNat == c

/-- The bytes of the head of a class. -/
def Port.headBytes (p : Port) (c : Nat) : Option Nat :=
  (p.queue.find? fun e => e.1.cls.toNat == c).map fun e => Config.wireBytes e.1.body

/-- A waiting packet leaves with the next sequence number of its pair of ports, on its entropy value or the next of the rotation (21 R439,
R440); one for a package marked unreachable meets its outcome (R441). -/
def State.leave (s : State) (n i : Nat) : State :=
  let p := s.port n
  match p.queue[i]? with
  | none => s
  | some e =>
    let s := s.modPort n fun p => { p with queue := p.queue.eraseIdx i }
    if s.isAway (64 * (n / 2)) e.1.dstPkg.toNat then s.failPayload e.1.body
    else
      let key := e.1.dstPkg.toNat * 16 + e.1.dstPort.toNat
      let seq := Tbl.get 0 p.nextSeq key
      let ent := e.2.getD (Tbl.get 0 p.spray key % p.nent)
      s.modPort n fun p =>
        { p with
          nextSeq := Tbl.set p.nextSeq key (seq + 1)
          spray := if e.2.isNone then Tbl.set p.spray key ((ent + 1) % p.nent) else p.spray
          unacked := p.unacked ++ [({ e.1 with seq := seq, entropy := ent }, 0)]
          txPkt := p.txPkt + 1 }

/-- The weights and LOWMAX of a group's round: a write takes effect at the next one (21 R443). -/
def Router.rules (r : Router) (g : Nat) : DWord × Nat := Tbl.get (r.weights, r.lowMax) r.now g

/-- The class of a group that has the turn; before a round, the last one. -/
def Router.turnOf (r : Router) (g : Nat) : Nat := Tbl.get (4 * g + 3) r.turn g

/-- The turn goes to the next class of a group, which gains its quantum; with the first class a round begins. -/
def Router.nextTurn (r : Router) (g : Nat) : Router :=
  let c := 4 * g + (r.turnOf g + 1) % 4
  let r := if c = 4 * g then { r with now := Tbl.set r.now g (r.weights, r.lowMax) } else r
  { r with
    turn := Tbl.set r.turn g c
    deficit := Tbl.set r.deficit c (Tbl.get 0 r.deficit c + 64 * bits (r.rules g).1.toNat (8 * c) 8) }

/-- Deficit-weighted round robin within a group (21 R443): the class whose head packet is served, found within a number of turns. A class
without a packet keeps no deficit. -/
def Router.robin (r : Router) (g : Nat) (head : Nat → Option Nat) : Nat → Router × Nat
  | 0 => (r, r.turnOf g)
  | n + 1 =>
    let c := r.turnOf g
    match head c with
    | none => (({ r with deficit := Tbl.set r.deficit c 0 } : Router).nextTurn g).robin g head n
    | some b =>
      if b ≤ Tbl.get 0 r.deficit c then ({ r with deficit := Tbl.set r.deficit c (Tbl.get 0 r.deficit c - b) }, c)
      else (r.nextTurn g).robin g head n

/-- Turns enough for the quanta to reach every packet that waits. -/
def Port.turns (p : Port) : Nat := 4 * ((p.queue.map fun e => Config.wireBytes e.1.body).sum / 64 + 3)

/-- A group without packets has no round under way. -/
def Router.rest (r : Router) (p : Port) (g : Nat) : Router :=
  if p.queue.any fun e => e.1.cls.toNat / 4 == g then r
  else { r with now := Tbl.del r.now g, turn := Tbl.del r.turn g, deficit := r.deficit.filter fun e => e.1 / 4 != g }

/-- The head packet of a class leaves its port, and the class waits afresh. -/
def State.serveClass (s : State) (n c : Nat) : State :=
  match (s.port n).headOf c with
  | none => s
  | some i =>
    let s := s.leave n i
    s.modRouter (ethRouter n) fun r => ({ r with since := Tbl.set r.since c s.clk } : Router).rest (s.port n) (c / 4)

/-- The head packet of a low class has waited LOWMAX cycles (21 R443). -/
def State.lowDue (s : State) (n c : Nat) : Bool :=
  let r := s.router (ethRouter n)
  4 ≤ c && c < 8 && ((s.port n).headOf c).isSome && (Tbl.get 0 r.since c).toNat + (r.rules 1).2 ≤ s.clk.toNat

/-- Such a packet is served ahead of the high group. -/
def State.lowServe (s : State) (n c : Nat) : State :=
  (s.serveClass n c).modRouter (ethRouter n) fun r => { r with served := Tbl.set r.served c (Tbl.get 0 r.served c + 1) }

/-- A port serves one packet (21 R443): of a low class that has waited LOWMAX cycles, else of the high group, else of the low one. -/
def State.serveOne (s : State) (n : Nat) : State :=
  match [4, 5, 6, 7].find? (s.lowDue n) with
  | some c => s.lowServe n c
  | none =>
    let p := s.port n
    if p.queue.isEmpty then s
    else
      let g := if p.queue.any fun e => e.1.cls.toNat < 4 then 0 else 1
      let x := (s.router (ethRouter n)).robin g p.headBytes p.turns
      (s.modRouter (ethRouter n) fun _ => x.1).serveClass n x.2

/-- The packets that a port serves in a cycle: how many of those that wait, is a free choice (log 1). -/
def State.servePort (s : State) (n : Nat) : State :=
  let k := (s.port n).queue.length
  if k = 0 then s
  else (List.range (Config.choose s.tick % (k + 1))).foldl (fun s _ => s.serveOne n) s.ticked

/-- LOWMAX_SERVICE (21 R443): the head packet of a low class is served ahead once it has waited LOWMAX cycles, and the wait of its class starts
afresh. Of the flits at the ports that lead to no other package the model holds the wait alone (log 79). -/
def execLowmaxService (port cls : Nat) (s : State) : Out :=
  .next (
    let r := s.router port
    if cls < 4 ∨ 8 ≤ cls then s
    else
      match (List.range 16).find? fun n => ethRouter n == port with
      | some n => if s.lowDue n cls then s.lowServe n cls else s
      | none =>
        if !Tbl.has r.since cls then s.modRouter port fun r => { r with since := Tbl.set r.since cls s.clk }
        else if (Tbl.get 0 r.since cls).toNat + r.lowMax ≤ s.clk.toNat then
          s.modRouter port fun r =>
            { r with since := Tbl.set r.since cls s.clk, served := Tbl.set r.served cls (Tbl.get 0 r.served cls + 1) }
        else s)

/-! ## CXL.mem (18 R375) -/

/-- The usable bytes of a core's slice: 1,920 MiB. -/
def usable : Nat := 30720 * 65536

/-- The device address of a byte of the host-managed range. -/
def hdmAt (a : Nat) : Nat := physAddr (a / usable) (a % usable)

/-- The range lies in the 960 GiB, and the host may reach every frame of it. -/
def State.hdmOk (s : State) (a n : Nat) : Bool :=
  (List.range n).all fun i => (s.owner (frameOf (hdmAt (a + i)))).hostOk

/-- The bytes of the range that a held access of the host touches: the first and their number. -/
def heldRange : Instr → Option (Nat × Nat)
  | .cxlMemRead a n => some (a, n)
  | .cxlMemWrite a bs => some (a, bs.length)
  | _ => none

/-- An access of the host is held: one of its frames is busy, or an earlier held access touches it (20 R434, R435). -/
def State.hdmBusy (s : State) (a n : Nat) : Bool :=
  (List.range n).any fun i => s.busyAt (hdmAt (a + i)) ||
    (s.waitIn.filterMap heldRange).any fun e => (List.range e.2).any fun j => frameOf (hdmAt (e.1 + j)) == frameOf (hdmAt (a + i))

/-- The sectors of a range that fail their check have their error (19 R403). -/
def State.hdmNote (s : State) (a n : Nat) : State := (List.range n).foldl (fun s i => s.noteMac (hdmAt (a + i))) s

/-- The range is presented to the host (21 R445). -/
def State.hdmOpen (s : State) (a n : Nat) : Bool := s.power.stage == .running && a + n ≤ 512 * usable

/-- CXL_MEM_READ (18 R375). -/
def execCxlMemRead (addr n : Nat) (s : State) : Out :=
  .next (
    if !s.hdmOpen addr n then s
    else if !s.hdmOk addr n then
      { s with hostDeny := s.hostDeny + 1, hostOut := s.hostOut ++ [.readData addr (List.replicate n 0xFF)] }
    else if s.hdmBusy addr n then s.later (.cxlMemRead addr n)
    else if (List.range n).any fun i => s.poisoned (hdmAt (addr + i)) then
      { s.hdmNote addr n with hostOut := s.hostOut ++ [.readPoison addr] }
    else
      { s with hostOut := s.hostOut ++ [.readData addr ((List.range n).map fun i => Mem.get s.mem (hdmAt (addr + i)))] })

/-- The bytes of a host write that fall into one sector. -/
def State.hdmSector (s : State) (p : Nat) (bs : List Byte) : State :=
  if s.retired.contains (frameOf p) then s
  else if s.poisoned p then
    if bs.length = 256 then
      let s := s.physWrite p bs
      { s with poison := s.poison.filter (· != sectorOf p) }
    else s
  else s.physWrite p bs

/-- A host write, sector by sector. -/
def State.hdmWrite (s : State) : Nat → Nat → List Byte → State
  | 0, _, _ => s
  | k + 1, a, bs =>
    if bs.isEmpty then s
    else
      let n := 256 - a % 256
      (s.hdmSector (hdmAt a) (bs.take n)).hdmWrite k (a + n) (bs.drop n)

/-- CXL_MEM_WRITE (18 R375): performed at the home and then completed, or discarded. -/
def execCxlMemWrite (addr : Nat) (data : List Byte) (s : State) : Out :=
  .next (
    if !s.hdmOpen addr data.length then s
    else if !s.hdmOk addr data.length then { s with hostDeny := s.hostDeny + 1 }
    else if s.hdmBusy addr data.length then s.later (.cxlMemWrite addr data)
    else
      let s := s.hdmWrite (data.length + 1) addr data
      { s with hostOut := s.hostOut ++ [.writeDone addr] })

/-! ## CXL.cache (18 R376) -/

/-- A read-only cache line of a host page holds a host-physical address: lines are 1 KiB (02 R56). -/
def hostSector (host : Option Nat) (a : Nat) : Bool :=
  match host with
  | none => false
  | some h => h / 1024 == a / 1024

/-- What the host has stored to the units of the 1 KiB line of an address by now: each keeps its older value or has a newer one (18 R376;
log 7). -/
def State.hostStores (s : State) (addr : Nat) : State :=
  (List.range 64).foldl (fun (s : State) i =>
    match Config.hostStore s.tick (addr / 1024 * 64 + i) with
    | none => s
    | some v => { s with hostMem := Mem.write s.hostMem (addr / 1024 * 1024 + 16 * i) (leBytes 16 v.toNat) }) s

/-- CXL_CACHE_SNOOP (18 R376): every sector of the line that holds a host line leaves every read-only cache slice; the host stores to the
line. One for a line that no slice holds is such a store alone. -/
def execCxlCacheSnoop (addr : Nat) (s : State) : Out :=
  .next { (s.hostStores addr).ticked with
    cores := s.cores.map fun e => (e.1, { e.2 with ro := e.2.ro.map fun k =>
      { k with sectors := k.sectors.filter fun _ => !hostSector k.host addr } })
    fills := s.fills.filter fun f => !hostSector f.host addr }

end Sys2Proof.Machine
end

