-- ==== Sys2Proof/Machine/Health.lean ====
section
/-! DEFINITION. Errors, self-tests and retirement (20 R433 to R437), the power-on sequence, power cap and thermal limits (21 R445 to
R447), attestation (21 R448), and the matrix engine's starts and ends (04 R110, R112, R116), which the power cap governs. -/

namespace Sys2Proof.Machine

/-! ## Errors (20 R433, R435, R437) -/

/-- The 32 bytes of an error-log record (20 R437). -/
def logRecord (time : DWord) (u : ErrUnit) (outcome trials : Nat) (loc : BitVec 48) (syndrome : DWord) : List Byte :=
  leBytes 8 time.toNat ++
  leBytes 8 (unitCode u * 2 ^ 60 + outcome * 2 ^ 56 + trials * 2 ^ 54 + loc.toNat) ++
  leBytes 8 syndrome.toNat ++ List.replicate 8 0

/-- A record joins the ring of 2,048 in a core's reserve (20 R437). -/
def State.logError (s : State) (c : Nat) (u : ErrUnit) (outcome trials : Nat) (loc : BitVec 48) (syndrome : DWord) : State :=
  let k := s.core c
  (s.physWrite (physAddr c (logBase + 32 * (k.errIdx % 2048))) (logRecord s.clk u outcome trials loc syndrome)).modCore c
    fun k => { k with errIdx := k.errIdx + 1 }

/-- An entry of a list at a free choice (log 1). -/
def State.freelyOf {α : Type} (s : State) (l : List α) : Option α := l[Config.choose s.tick % l.length]?

/-- A register word of a core, of a thread or of a uniform set, is poisoned (20 R433); which, is a free choice. -/
def State.spoilReg (s : State) (c : Nat) : State :=
  let lanes : List (Nat ⊕ Nat) := ((s.core c).ctxs.filter fun e => e.2.st != .none).map fun e => .inl e.1
  let sets : List (Nat ⊕ Nat) := ((s.core c).groups.filter fun e => e.2.live).map fun e => .inr e.1
  match s.freelyOf (lanes ++ sets) with
  | none => s
  | some (.inl x) =>
    let n := Config.choose (s.tick + 1) % s.budget c (s.thread c x)
    s.modThread c x fun t => t.setReg n { t.reg n with poison := true }
  | some (.inr g) =>
    let n := Config.choose (s.tick + 1) % 32
    s.modGroup c g fun k => { k with sregs := Tbl.set k.sregs n { k.sreg n with poison := true } }

/-- A 16-byte unit of a team's scratchpad is poisoned, or a sector of a read-only line is dropped (20 R433). -/
def State.spoilSram (s : State) (c : Nat) : State :=
  let teams : List (Nat ⊕ RoLine × Nat) :=
    ((s.core c).teams.filter fun e => e.2.live && e.2.spBlocks != 0).map fun e => .inl e.1
  let lines : List (Nat ⊕ RoLine × Nat) := (s.core c).ro.flatMap fun k => k.sectors.map fun x => .inr (k, x.1)
  match s.freelyOf (teams ++ lines) with
  | none => s
  | some (.inl t) =>
    let n := Config.choose (s.tick + 1) % (4096 * (s.team c t).spBlocks)
    s.modTeam c t fun m => { m with spPoison := if m.spPoison.contains n then m.spPoison else n :: m.spPoison }
  | some (.inr x) =>
    s.modCore c fun k => { k with ro := k.ro.map fun r =>
      if r = x.1 then { r with sectors := r.sectors.filter fun y => y.1 != x.2 } else r }

/-- A row of a team's accumulator is poisoned (20 R433). -/
def State.spoilAcc (s : State) (c : Nat) : State :=
  match s.freelyOf ((s.core c).teams.filter fun e => e.2.live && e.2.accBlocks != 0) with
  | none => s
  | some e =>
    let n := Config.choose (s.tick + 1) % e.2.rows
    s.modTeam c e.1 fun t => t.setRow n { t.row n with poison := true }

/-- What an uncorrectable error does (20 R433); a bad word of the metadata poisons what it covers (19 R403). -/
def State.uncorrected (s : State) (c : Nat) (u : ErrUnit) (loc : BitVec 48) : State :=
  match u with
  | .hbm =>
    { s with poison := s.poison ++ (badSectors c (loc.toNat % 2 ^ 31)).filter fun q => !s.poison.contains q }
  | .sram => s.spoilSram c
  | .register => s.spoilReg c
  | .accumulator => s.spoilAcc c
  | _ => s

/-- A test covers a unit: the frame of an HBM row, a macro, a lane. -/
def SelfTest.covers (t : SelfTest) (c : Nat) (u : ErrUnit) (loc : BitVec 48) : Bool :=
  t.core == c && t.unit == u &&
    match u with
    | .hbm => t.loc.toNat / 65536 == loc.toNat / 65536
    | .sram | .register | .accumulator => Config.macroOf (unitCode u) t.loc == Config.macroOf (unitCode u) loc
    | _ => t.loc == loc

/-- An error: its outcome, its record, and a test of the unit unless it has one (20 R435). -/
def State.errorFound (s : State) (c : Nat) (u : ErrUnit) (loc : BitVec 48) (outcome : Nat) (syndrome : DWord) : State :=
  let n := (s.core c).errIdx
  let s := s.logError c u outcome 0 loc syndrome
  let s := if outcome = 1 then s.uncorrected c u loc else s
  if s.tests.any fun t => SelfTest.covers t c u loc then s
  else { s with tests := s.tests ++ [⟨c, u, loc, 0, 0, syndrome, n⟩] }

/-- TRIALS of the record of an error is the number of reproducing trials so far (20 R437; log 82), while the ring still holds the record. -/
def State.noteTrials (s : State) (t : SelfTest) : State :=
  if (s.core t.core).errIdx ≤ t.entry + 2048 then
    s.physWrite (physAddr t.core (logBase + 32 * (t.entry % 2048) + 14)) [BitVec.ofNat 8 (64 * t.bad)]
  else s

/-- The errors that reads found since the last cycle (19 R403): uncorrectable ones of their sectors, with a syndrome that the manual does not
define. -/
def State.logFailed (s : State) : State :=
  s.failed.foldl (fun s p =>
    ({ s with tick := s.tick + 1 } : State).errorFound (p / 2 ^ 31) .hbm (BitVec.ofNat 48 (p % 2 ^ 31)) 1
      ((Config.freeWord s.tick).setWidth 64)) { s with failed := [] }

/-- ERROR_DETECTED (20 R435): the error has its outcome and a record, and the unit a test unless it has one. OUTCOMEs 3 to 5 are
written by the retirement. -/
def execErrorDetected (core : Nat) (u : ErrUnit) (loc : BitVec 48) (outcome : BitVec 4) (syndrome : DWord) (s : State) : Out :=
  .next (
    if 512 ≤ core ∨ 2 < outcome.toNat then s
    else
      s.errorFound core u loc outcome.toNat syndrome)

/-- The VFs that may run in a partition. -/
def State.runVfs (s : State) (p : Nat) : List Nat := (s.vfs.filter fun e => e.2.vfrun.getLsbD p).map Prod.fst

/-- An octant is removed (20 R436): every VF of its partition is reset. -/
def State.removeOctant (s : State) (o : Nat) : State :=
  match s.partOfOctant o with
  | none => s
  | some p => (((s.runVfs p).foldl (fun s v => if (s.vf v).rst then s else s.resetVf v) s).setOctant o none).reFw

/-- Retirement (20 R436), with its record. -/
def State.retire (s : State) (t : SelfTest) : State :=
  match t.unit with
  | .hbm =>
    let f := frameOf (physAddr t.core (t.loc.toNat % 2 ^ 31))
    ({ s with retired := if s.retired.contains f then s.retired else f :: s.retired } : State).logError t.core .hbm 3 t.bad
      t.loc t.syndrome
  | .sram | .register | .accumulator =>
    (s.removeOctant (t.core / 8)).logError t.core t.unit 4 t.bad t.loc t.syndrome
  | _ => s.logError t.core t.unit 5 t.bad t.loc t.syndrome

/-- The frames whose counters would overflow have their records (19 R404, 20 R436). -/
def State.logWorn (s : State) : State :=
  s.worn.foldl (fun s f => s.logError (f / 32768) .hbm 3 0 (BitVec.ofNat 48 (f % 32768 * 65536)) 0) { s with worn := [] }

/-- SELF_TEST_TRIAL (20 R435): two clean trials end the test, two that reproduce the error make it lasting. -/
def execSelfTestTrial (n : Nat) (reproduced : Bool) (s : State) : Out :=
  .next (match s.tests[n]? with
    | none => s
    | some t =>
      let t' := { t with good := t.good + (if reproduced then 0 else 1), bad := t.bad + (if reproduced then 1 else 0) }
      let s := if reproduced then s.noteTrials t' else s
      let gone : State := { s with tests := s.tests.eraseIdx n }
      if 2 ≤ t'.bad then gone.retire t'
      else if 2 ≤ t'.good then gone
      else { s with tests := s.tests.set n t' })

/-! ## Link retries (20 R433) -/

/-- A request is on a link: one on its way to another core, to a replica or, from another package, to its home, or a read's response (20
R433). -/
def Req.onLink (r : Req) : Bool :=
  (r.home != .core r.core || r.far.isSome || !r.reps.isEmpty) &&
    match r.stat with
    | .sent => true
    | .performed => r.kind == .load || r.kind == .ro
    | _ => false

/-- What a flit that fails for good may carry: frames on their way, requests and responses to other cores. -/
def State.onLinks (s : State) : List (Nat ⊕ Nat) :=
  ((List.range s.flights.length).map Sum.inl) ++ (s.reqs.filter Req.onLink).map fun r => Sum.inr r.id

/-- The frame or request that the flit carried is delivered with POISON. -/
def State.spoil (s : State) : Nat ⊕ Nat → State
  | .inl n => { s with flights := s.flights.modify n fun f => { f with frame := { f.frame with poison := true } } }
  | .inr id => s.failReq id

/-- The unit of the error log to which a link belongs, numbered as the router port at its end (19 R415). -/
def linkUnit (link : Nat) : ErrUnit :=
  match link % 8 with
  | 4 => .vertLink
  | 5 => .ucie
  | 6 => .ethernet
  | 7 => .hostLink
  | _ => .dieLink

/-- The error of a link has its record at the link's core, and its lane a test (20 R435). -/
def State.linkError (s : State) (link outcome : Nat) : State :=
  if 4096 ≤ link then s
  else s.ticked.errorFound (link / 8) (linkUnit link) (Config.linkPlace link s.tick) outcome ((Config.freeWord s.tick).setWidth 64)

/-- LINK_RETRY (20 R433, R435): a retry of a flit succeeds, or after the eighth failure what it carried is poisoned; which frame or
request that is, is a free choice (log 1). -/
def execLinkRetry (link : Nat) (ok : Bool) (s : State) : Out :=
  .next (
    let n := Tbl.get 0 s.linkRetry link + 1
    if ok then ({ s with linkRetry := Tbl.set s.linkRetry link 0 } : State).linkError link 2
    else if n < 8 then { s with linkRetry := Tbl.set s.linkRetry link n }
    else
      let l := s.onLinks
      let s : State := { s with linkRetry := Tbl.set s.linkRetry link 0 }
      let s := s.linkError link 1
      match l[Config.choose s.tick % l.length]? with
      | some x => s.spoil x
      | none => s)

/-! ## Power-on (21 R445) -/

/-- POWER_ON (21 R445, step 1): die 0 leaves reset. -/
def execPowerOn (s : State) : Out :=
  .next (
    if s.power.stage != .off then s
    else { s with power := { s.power with stage := .dies, dies := 1, nextDie := s.clk + 1880000, verified := [] } })

/-- DIE_RESET_RELEASE (21 R445): the next die leaves reset 2 ms after the one before; after die 7 the boot ROMs run. -/
def execDieResetRelease (s : State) : Out :=
  .next (
    let p := s.power
    if p.stage != .dies ∨ s.clk.toNat < p.nextDie.toNat then s
    else { s with power := { p with
      dies := p.dies + 1, nextDie := s.clk + 1880000, stage := if p.dies + 1 = 8 then .boot else .dies } })

/-- The usable frames that the host's retirement list names (20 R436, 21 R445). -/
def hostList : List Nat := Config.retirementList.filter fun f => f < 2 ^ 24 && f % 32768 < 30720

/-- The last steps of the sequence (21 R445): the host's retirement list applied, key 0 anew, every usable frame scrubbed under it but the
retired ones, owner entries open to the host, PWRCAP 1,500 W. -/
def State.boot (s : State) : State :=
  let gone := hostList ++ s.retired.filter fun f => !hostList.contains f
  { s with
    retired := gone
    retList := hostList
    keys := Tbl.set s.keys 0 ⟨true, 0⟩
    mem := s.mem.filter fun c => usable ≤ c.1 % 2 ^ 31 || gone.contains (frameOf c.1)
    owners := [], enc := [], ctrs := [], poison := []
    power := { s.power with stage := .running, cap := 1500 } }

/-- FIRMWARE_IMAGE_LOAD (21 R445, step 3): a die's boot ROM checks the signature; with the last die the package starts. -/
def execFirmwareImageLoad (die : Nat) (image : List (List Byte)) (sig : List Byte) (s : State) : Out :=
  .next (
    let p := s.power
    if p.stage != .boot ∨ 8 ≤ die ∨ p.verified.contains die ∨ !Config.verifyImage image.flatten sig then s
    else
      let s : State := { s with power := { p with
        verified := die :: p.verified, fwMeas := sha256 (image.flatMap sha256) } }
      if p.verified.length = 7 then s.boot else s)

/-! ## Power cap and thermal limits (21 R446, R447) -/

/-- G after an interval (21 R446). -/
def nextG (now cap g : Nat) : Nat :=
  if cap < now then Nat.min (g + 4) 56 else if now + 100 < cap then g - 1 else g

/-- At 100 °C G is held at 32 or more (21 R447). -/
def heldG (temp g : Nat) : Nat := if 800 ≤ temp then Nat.max g 32 else g

/-- POWER_INTERVAL (21 R446): every 9,400 cycles PWRNOW is compared with PWRCAP; during a thermal stop G does not change. -/
def execPowerInterval (watts : Nat) (s : State) : Out :=
  .next (
    let p := s.power
    if s.clk.toNat < p.nextInterval.toNat then s
    else { s with power := { p with
        nextInterval := s.clk + 9400
        now := watts
        g := if p.therm then p.g else heldG p.temp (nextG watts p.cap p.g)
        overCap := if p.cap < watts && p.g == 56 then true else if watts < p.cap then false else p.overCap } })

/-- The highest temperature is known anew: 110 °C is held from the cycle at which it was first reached. -/
def Power.heat (p : Power) (temp : Nat) (clk : DWord) : Power :=
  { p with temp := temp, hotSince := if 880 ≤ temp then some (p.hotSince.getD clk) else none }

/-- 110 °C has been held for 1 ms, 940,000 cycles (21 R447). -/
def Power.tooHot (p : Power) (clk : DWord) : Bool := p.hotSince.any fun t => t.toNat + 940000 ≤ clk.toNat

/-- THERMAL_THROTTLE (21 R447): a new highest temperature. -/
def execThermalThrottle (temp : Nat) (s : State) : Out :=
  .next { s with power := { s.power.heat temp s.clk with g := if s.power.therm then s.power.g else heldG temp s.power.g } }

/-- THERMAL_STOP (21 R447): 110 °C held for 1 ms; before that it is a new highest temperature. -/
def execThermalStop (temp : Nat) (s : State) : Out :=
  if (s.power.heat temp s.clk).tooHot s.clk then .next { s with power := { s.power.heat temp s.clk with g := 64, therm := true } }
  else execThermalThrottle temp s

/-- THERMAL_RESUME (21 R447): below 95 °C. -/
def execThermalResume (temp : Nat) (s : State) : Out :=
  .next (
    if s.power.therm && decide (temp < 760) then
      { s with power := { s.power.heat temp s.clk with g := 56, therm := false } }
    else s)

/-- A gap is imposed in this cycle: G in every 64, spread evenly (21 R446, 01 R34). -/
def State.gapNow (s : State) : Bool :=
  let i := s.clk.toNat % 64
  i * s.power.g / 64 != (i + 1) * s.power.g / 64

/-! ## The matrix engine's starts and ends (04 R110 to R116) -/

/-- The start slots that a die grants in 64 cycles (21 R446). -/
def startSlots (g : Nat) : Nat := if 56 < g then 0 else Nat.max 1 (8 * (64 - g) / 64)

/-- The starts of a die in the last 64 cycles. -/
def State.recentStarts (s : State) (d : Nat) : List DWord :=
  (Tbl.get [] s.power.starts d).filter fun t => s.clk.toNat < t.toNat + 64

/-- An engine leaves idle: the head of its queue has not started, and its die grants a slot. -/
def State.mayStart (s : State) (c : Nat) : Bool :=
  ((s.core c).mq.head?.any fun o => o.start.isNone) && (s.recentStarts (dieOf c)).length < startSlots s.power.g

/-- MATRIX_OP_START (04 R110). -/
def execMatrixOpStart (core : Nat) (s : State) : Out :=
  .next (
    if s.mayStart core then
      let d := dieOf core
      ({ s with power := { s.power with starts := Tbl.set s.power.starts d (s.clk :: s.recentStarts d) } } : State).matStart core
    else s)

/-- MATRIX_OP_COMPLETE (04 R112): the engine reads or writes one more unit of scratchpad, or all that are left, and then the operation ends
(11 R275): which, is a free choice (log 1). -/
def execMatrixOpComplete (core : Nat) (s : State) : Out :=
  .next (
    match (s.core core).mq with
    | [] => s
    | o :: rest =>
      if o.start.isNone then s
      else if o.left.length ≤ 1 || Config.choose s.tick % 2 = 0 || (o.writesSp && !(o.run (s.team core o.team)).isOk) then
        (s.ticked.matComplete core).testCounters core
      else
        match o.left[Config.choose (s.tick + 1) % o.left.length]? with
        | some u => (s.ticked.matUnit core o rest u).testCounters core
        | none => s)

/-- ENGINE_RESET (04 R116): the operation has executed for 94,000 cycles. -/
def execEngineReset (core : Nat) (s : State) : Out :=
  .next (
    if (s.core core).mq.head?.any fun o => o.start.any fun t => t.toNat + 94000 ≤ s.clk.toNat then s.engineReset core else s)

/-! ## Attestation (21 R448) -/

/-- The configuration that CFGMEAS covers, in register order: each register for all its instances (log 73). -/
def State.cfgBytes (s : State) : List Byte :=
  ((List.range 64).flatMap fun o => match s.partOfOctant o with
    | none => [(0 : Byte)]
    | some p => [BitVec.ofNat 8 (128 + p)]) ++
  ((List.range 64).flatMap fun p => leBytes 4 (s.part p).s) ++
  ((List.range 4).flatMap fun j => (List.range 64).flatMap fun p => leBytes 8 (Tbl.get (0 : DWord) s.partpair (4 * p + j)).toNat) ++
  ((List.range 4096).flatMap fun i => leBytes 8 (s.fwOf i).toNat)

/-- Bytes 0x000 to 0x0BF of a report. -/
def State.reportHead (s : State) (nonce : List Byte) : List Byte :=
  leBytes 4 0x54524D38 ++ leBytes 2 1 ++ leBytes 2 s.fabnum.toNat ++ leBytes 8 s.clk.toNat ++
    (nonce ++ List.replicate 32 0).take 32 ++ (s.power.fwMeas ++ List.replicate 32 0).take 32 ++ sha256 s.cfgBytes ++
    sha256 (s.retList.flatMap (leBytes 4)) ++ ((List.range 32).map Config.idKeyByte) ++ List.replicate 16 0

/-- ATTESTATION_REQUEST (21 R448): the report and its signature, 8,048 bytes, once firmware serves the mailbox (21 R445; log 80). -/
def execAttestationRequest (nonce : List Byte) (s : State) : Out :=
  .next (
    if nonce.length = 32 ∧ s.power.stage = .running then
      let h := s.reportHead nonce
      { s with hostOut := s.hostOut ++ [.report (h ++ (List.range 7856).map fun i => Config.signByte i h)] }
    else s)

end Sys2Proof.Machine
end

