-- ==== Sys2Proof/Machine/Registers.lean ====
section
/-! DEFINITION. The system registers: the user view (12 R298), the privileged view (13 R308, 19 R415, R416, 20 R438, 21 R450), and
`srd` and `swr`, which read and write them (12 R298, R299). -/

namespace Sys2Proof.Machine

/-! ## The user view (12 R298) -/

/-- Cycles left in a partition's slot. -/
def State.slotLeft (s : State) (p : Part) : Nat :=
  match p.slotEnd with
  | some e => Nat.min (e.toNat - s.clk.toNat) 0xFFFFFFFF
  | none => 0

/-- The value of a register of the user view for a thread (12 R298). The VF's home package holds its live count (01 R23; log 76); FTCAP of a
thread whose VF lives in another package is this package's own copy of the register: the spec does not say whose it is (log 100: DESIGN
CHOICE). -/
def State.userView (s : State) (l : Lane) (num : Nat) : DWord :=
  let part := (s.partOf l.core).map s.part
  let team : Team := match l.t.group with
    | some g => s.team l.core (s.group l.core g.1).team
    | none => default
  let v := s.vf l.t.vf.toNat
  let n : Nat := match num with
    | 0x00 => 0x71080100
    | 0x10 => (part.map Part.s).getD 0
    | 0x11 => team.spBlocks
    | 0x12 => team.accBlocks
    | 0x13 => s.budget l.core l.t
    | 0x14 => team.free
    | 0x20 => (part.map Part.cur).getD 0
    | 0x21 => (part.map s.slotLeft).getD 0
    | 0x30 => v.ftCap
    | 0x31 => if l.t.vfPkg = s.fabnum then v.ftLive else (Config.farLive s.tick s.clk.toNat l.t.vf.toNat).toNat
    | 0x40 => s.power.gaps.toNat
    | _ => 0
  BitVec.ofNat 64 n

/-! ## Instances (19 R415) -/

/-- The router port that SELPORT names. -/
def portOf (sel : Sel) : Nat := sel.port.toNat

/-- The Ethernet port that SELPORT names, where its port field is 6 (log 71). -/
def ethPort (sel : Sel) : Option Nat :=
  if sel.port.toNat % 8 = 6 then
    let c := sel.port.toNat / 8
    some (2 * dieOf c + c % 2)
  else none

/-- A route tag of a partition. -/
def State.tagOf (s : State) (sel : Sel) : Tree := s.tree sel.part.toNat sel.tag.toNat

/-- FQCMD as it is read (20 R420). -/
def State.fqRead (s : State) (v : Nat) : Nat :=
  if s.units.any fun u => u.vf == v && u.seq == some (s.vf v).fqSeq && u.busy then 1 else (s.vf v).fqStat

/-- STATE of WINCTL. -/
def winCode : WinState → Nat
  | .closed => 0 | .opening => 1 | .isOpen => 2 | .closing => 3

/-- OCTMAPi. -/
def State.octWord (s : State) (i : Nat) : Nat :=
  (List.range 8).foldl (fun n j => n + match s.partOfOctant (8 * i + j) with
    | some p => (128 + p) * 256 ^ j
    | none => 0) 0

/-- A value with its register's width: true for 64 bits. -/
abbrev PView := Option (Bool × Nat)

/-- A register of 32 bits. -/
def r32 (n : Nat) : PView := some (false, n)
/-- A register of 64 bits. -/
def r64 (n : Nat) : PView := some (true, n)

/-- Selectors, octants, partitions, ports and Ethernet ports (19 R415, 21 R450). -/
def State.viewPlace (s : State) (sel : Sel) (num : Nat) : PView :=
  let p := sel.part.toNat
  let e := (ethPort sel).map s.port
  let eth := fun (f : Port → DWord) => r64 ((e.map fun k => (f k).toNat).getD 0)
  if 0x8010 ≤ num ∧ num ≤ 0x8017 then r64 (s.octWord (num - 0x8010))
  else if 0x8021 ≤ num ∧ num ≤ 0x8024 then r64 (Tbl.get (0 : DWord) s.partpair (4 * p + (num - 0x8021))).toNat
  else if 0x80B0 ≤ num ∧ num ≤ 0x80CF then r32 ((s.part p).slot (num - 0x80B0)).toNat
  else
    match num with
    | 0x8000 => r32 sel.vf.toNat
    | 0x8001 => r32 sel.core.toNat
    | 0x8002 => r32 sel.port.toNat
    | 0x8003 => r32 p
    | 0x8004 => r32 sel.win.toNat
    | 0x8005 => r32 sel.frame.toNat
    | 0x8006 => r32 sel.tag.toNat
    | 0x8020 => r32 (s.part p).s
    | 0x8030 => r64 (s.fwOf (portOf sel)).toNat
    | 0x8031 => r64 (Tbl.get (0 : DWord) s.fwdrop (portOf sel)).toNat
    | 0x8032 => r64 (Tbl.get (0 : DWord) s.fwbounce (portOf sel)).toNat
    | 0x8080 => r64 (bitN (s.tagOf sel).valid 63 + bitN (s.tagOf sel).span 62)
    | 0x8081 => r32 (Tbl.get 0 (s.tagOf sel).exp sel.core.toNat)
    | 0x8082 => r32 ((s.tagOf sel).arrived sel.core.toNat (s.tagOf sel).round)
    | 0x80D0 => r32 ((s.part p).cur * 65536 + (s.part p).start * 256 + bitN (s.part p).run 0)
    | 0x80E0 => eth Port.cfg
    | 0x80E3 => eth Port.txPkt
    | 0x80E4 => eth Port.rxPkt
    | 0x80E5 => eth Port.reTx
    | 0x80E6 => eth Port.discard
    | 0x80E7 => eth Port.unreach
    | 0x80E8 => r64 (s.router (portOf sel)).weights.toNat
    | 0x80E9 => r32 (s.router (portOf sel)).lowMax
    | _ => none

/-- Registers of a VF (13 R308, 19 R415, 20 R438). -/
def State.viewVf (s : State) (sel : Sel) (num : Nat) : PView :=
  let i := sel.vf.toNat
  let v := s.vf i
  let c := sel.core.toNat
  if 0x8050 ≤ num ∧ num ≤ 0x8057 then r32 (Tbl.get (0 : Word) v.ptDie (num - 0x8050)).toNat
  else
    match num with
    | 0x8040 => r32 (bitN v.enable 0 + bitN (s.keySlot (i + 1)).present 1)
    | 0x8041 => r64 v.vfrun.toNat
    | 0x8042 => r32 0
    | 0x8043 => r64 v.regTab.toNat
    | 0x8044 => r32 v.regLoad.toNat
    | 0x8045 => r64 (Tbl.get (0 : BitVec 32) v.roots c).toNat
    | 0x8046 => r32 v.tlbq
    | 0x8047 => r32 v.walkq
    | 0x8048 => r32 v.ptSize
    | 0x8058 => r32 0
    | 0x8059 => r64 v.dlog.toNat
    | 0x805A => r32 v.dlogK
    | 0x805B => r64 v.chainBase.toNat
    | 0x805C => r64 v.faultQ.toNat
    | 0x805D => r32 v.ftCap
    | 0x8062 => r64 v.kimg.toNat
    | 0x8063 => r64 v.kdata.toNat
    | 0x8064 => r32 v.kreg.toNat
    | 0x80A0 => r64 v.fqSeq.toNat
    | 0x80A1 => r32 (s.fqRead i)
    | 0x80A2 => r32 (Tbl.get (0 : Word) v.save c).toNat
    | 0x80A3 => r32 (bitN v.rst 0)
    | 0x80A4 => r64 v.rstRep.toNat
    | 0x80D1 => r32 v.cal.toNat
    | _ => none

/-- Frames, windows and the package (19 R415, 21 R450). -/
def State.viewRest (s : State) (sel : Sel) (num : Nat) : PView :=
  let w := s.window sel.win.toNat
  match num with
  | 0x8060 => r32 (s.owner sel.frame.toNat).word
  | 0x8070 => r64 (winCode w.state * 2 ^ 62 + w.ncons * 2 ^ 16 + w.producer)
  | 0x8071 => r64 w.cons0.toNat
  | 0x8072 => r64 w.cons1.toNat
  | 0x8073 => r64 w.cons2.toNat
  | 0x8074 => r64 w.pages.length
  | 0x8090 => r64 s.hostDeny.toNat
  | 0x80E1 => r32 s.fabnum.toNat
  | 0x80E2 => r64 s.fabtab.toNat
  | 0x80F0 => r32 s.power.cap
  | 0x80F1 => r32 s.power.now
  | 0x80F2 => r32 (s.power.g + bitN s.power.overCap 8 + bitN s.power.therm 9)
  | 0x80F3 => r32 s.power.temp
  | _ => none

/-- A register of the privileged view: its width and value; none where no table lists the number (19 R415). -/
def State.privView (s : State) (sel : Sel) (num : Nat) : PView :=
  match s.viewPlace sel num, s.viewVf sel num, s.viewRest sel num with
  | some r, _, _ => some r
  | _, some r, _ => some r
  | _, _, r => r

/-! ## Writes (19 R415) -/

/-- The state that an outcome holds. -/
def outOf (s : State) (f : State → Out) : State := outState s (f s)

/-- A selector written by a firmware thread (19 R415). -/
def Sel.put (sel : Sel) (num : Nat) (v : DWord) : Sel :=
  match num with
  | 0x8000 => { sel with vf := v.setWidth 10 }
  | 0x8001 => { sel with core := v.setWidth 9 }
  | 0x8002 => { sel with port := v.setWidth 12 }
  | 0x8003 => { sel with part := v.setWidth 6 }
  | 0x8004 => if v.setWidth 10 = (0 : BitVec 10) then sel else { sel with win := v.setWidth 10 }
  | 0x8005 => { sel with frame := v.setWidth 24 }
  | 0x8006 => { sel with tag := v.setWidth 3 }
  | _ => sel

/-- A write of VFCAL: a VF that is active no more in an open slot halts (20 R424, R425). -/
def State.modRun (s : State) (v : Nat) (f : Vf → Vf) : State :=
  (List.range 64).foldl (fun t p => if s.activeIn v p != t.activeIn v p then State.afterSlot s t p else t) (s.modVf v f)

/-- The sum of the TLB quotas of the VFs that may run at a core, with one VF's quota as written (19 R398). -/
def State.tlbSum (s : State) (c v q : Nat) : Nat :=
  (s.vfs.foldl (fun n e => if e.1 != v && s.mayRun e.1 (s.partOf c) then n + e.2.tlbq else n) 0) + q

/-- A TLB quota that may be written (19 R398). -/
def State.tlbqOk (s : State) (v q : Nat) : Bool :=
  1 ≤ q && q ≤ 2048 && (s.runCores v).all fun c => s.tlbSum c v q ≤ 2048

/-- The entries of a VF beyond a new quota leave every core's TLB (19 R398). -/
def State.tlbTrims (s : State) (v q : Nat) : State := (s.cores.map Prod.fst).foldl (fun s c => s.tlbTrim v q c) s

/-- A VFSAVE value that is accepted (20 R438). -/
def saveOk (v : DWord) : Bool :=
  let n := bits v.toNat 16 15
  !v.getLsbD 15 && (n == 0 || 131 ≤ n) && n ≤ 30720 && bits v.toNat 0 15 + n ≤ 30720

/-- A VFFAULTQ value that is accepted (20 R417). -/
def faultqOk (v : DWord) : Bool :=
  bits v.toNat 56 8 == 0 && bits v.toNat 5 2 == 0 && 4 ≤ bits v.toNat 0 5 && bits v.toNat 0 5 ≤ 16

/-- A VFCAL value that is accepted (20 R424). -/
def vfcalOk (v : DWord) : Bool := bits v.toNat 23 9 == 0 && bits v.toNat 6 10 == 0 && bits v.toNat 1 3 == 0

/-- A FWCTL value that is accepted (19 R392). -/
def fwctlOk (v : DWord) : Bool := bits v.toNat 23 38 == 0 && bits v.toNat 14 2 == 0 && bits v.toNat 0 8 == 0

/-- A group waits for its release at a tag (19 R416). -/
def Tree.waits (t : Tree) : Bool := !t.arrivals.isEmpty

/-- A route tag's registers are written (19 R416). -/
def State.putTag (s : State) (sel : Sel) (num : Nat) (v : DWord) : State :=
  let p := sel.part.toNat
  let t := s.tagOf sel
  match num with
  | 0x8080 =>
    let on := v.getLsbD 63
    if bits v.toNat 0 62 ≠ 0 ∨ (!on && t.waits) then s
    else s.modTree p sel.tag.toNat fun t => { t with valid := on }
  | _ =>
    let n := bits v.toNat 0 10
    let c := sel.core.toNat
    if bits v.toNat 10 54 ≠ 0 ∨ 512 < n ∨ t.valid ∨ s.partOf c ≠ some p then s
    else s.modTree p sel.tag.toNat fun t => { t with exp := Tbl.set t.exp c n }

/-- A register of a VF is written (13 R308, 19 R415, 20 R438). -/
def State.putVf (s : State) (sel : Sel) (num : Nat) (v : DWord) : State :=
  let i := sel.vf.toNat
  let c := sel.core.toNat
  let n := v.toNat
  if 0x8050 ≤ num ∧ num ≤ 0x8057 then
    s.modVf i fun d => { d with ptDie := Tbl.set d.ptDie (num - 0x8050) (BitVec.ofNat 32 (bits n 0 24)) }
  else
    match num with
    | 0x8040 => s.modVf i fun d => { d with enable := v.getLsbD 0 }
    | 0x8041 => s.modVf i fun d => { d with vfrun := v }
    | 0x8042 => if n = 1 then outOf s (execKeyGenerate i) else if n = 2 then outOf s (execKeyDestroy i) else s
    | 0x8043 => s.modVf i fun d => { d with regTab := v }
    | 0x8044 => if n = 1 then outOf s (execRegionTableLoad i) else s
    | 0x8045 => s.modVf i fun d =>
      { d with roots := Tbl.set d.roots c (BitVec.ofNat 32 (bits n 13 18 * 8192)) }
    | 0x8046 => if s.tlbqOk i n then (s.modVf i fun d => { d with tlbq := n }).tlbTrims i n else s
    | 0x8047 => if 1 ≤ n ∧ n ≤ 16 then s.modVf i fun d => { d with walkq := n } else s
    | 0x8048 => if n ≤ 4096 then s.modVf i fun d => { d with ptSize := n } else s
    | 0x8058 => outOf s (execPcinv n)
    | 0x8059 => s.modVf i fun d => { d with dlog := v }
    | 0x805A => if 6 ≤ n ∧ n ≤ 20 then s.modVf i fun d => { d with dlogK := n } else s
    | 0x805B => if n < 2 ^ 56 ∧ n % 256 = 0 then s.modVf i fun d => { d with chainBase := v } else s
    | 0x805C => if faultqOk v then s.modVf i fun d => { d with faultQ := v } else s
    | 0x805D => if n ≤ 262144 then s.modVf i fun d => { d with ftCap := n } else s
    | 0x8062 => if n < 2 ^ 56 ∧ n % 256 = 0 then s.modVf i fun d => { d with kimg := v } else s
    | 0x8063 => s.modVf i fun d => { d with kdata := BitVec.ofNat 64 (bits n 0 56) }
    | 0x8064 =>
      match bits n 0 2 with
      | 1 => outOf s (execKernelRegister i)
      | 2 => outOf s (execKernelUnregister i (BitVec.ofNat 16 (bits n 16 16)))
      | _ => s
    | 0x80A0 => s.modVf i fun d => { d with fqSeq := v }
    | 0x80A1 =>
      match bits n 0 2 with
      | 1 => outOf s (execReplay i (s.vf i).fqSeq)
      | 2 => outOf s (execKill i (s.vf i).fqSeq)
      | _ => s
    | 0x80A2 => if saveOk v then s.modVf i fun d => { d with save := Tbl.set d.save c (BitVec.ofNat 32 (n % 2 ^ 31)) } else s
    | 0x80A3 => if n = 1 then outOf s (execVfReset i) else s
    | 0x80D1 => if vfcalOk v then s.modRun i fun d => { d with cal := v.setWidth 32 } else s
    | _ => s

/-- A window's registers are written (19 R407). -/
def State.putWindow (s : State) (sel : Sel) (num : Nat) (v : DWord) : State :=
  let w := sel.win.toNat
  if !winOk w then s
  else
    match num with
    | 0x8070 =>
      match winCmd v with
      | 0 => s.winWrite w v 0 id
      | 1 => outOf s (execWindowOpen w v)
      | 2 => outOf s (execWindowCloseRekey w v)
      | _ => outOf s (execWindowCloseDestroy w v)
    | 0x8071 => s.modWindow w fun k => { k with cons0 := BitVec.ofNat 64 (bits v.toNat 0 60) }
    | 0x8072 => s.modWindow w fun k => { k with cons1 := BitVec.ofNat 64 (bits v.toNat 0 60) }
    | 0x8073 => s.modWindow w fun k => { k with cons2 := BitVec.ofNat 64 (bits v.toNat 0 30) }
    | _ => if v.getLsbD 63 then outOf s (execWinpageAdd w v) else outOf s (execWinpageClear w)

/-- Octants, partitions, ports and the package are written (19 R415, 20 R438, 21 R450). -/
def State.putRest (s : State) (sel : Sel) (num : Nat) (v : DWord) : State :=
  let p := sel.part.toNat
  let n := v.toNat
  if 0x8010 ≤ num ∧ num ≤ 0x8017 then outOf s (execOctmapWrite (num - 0x8010) v)
  else if 0x8021 ≤ num ∧ num ≤ 0x8024 then
    let e : DWord := BitVec.ofNat 64 (bitN (v.getLsbD 63) 63 + bits n 0 22)
    ({ s with partpair := Tbl.set s.partpair (4 * p + (num - 0x8021)) e } : State).reFw
  else if 0x80B0 ≤ num ∧ num ≤ 0x80CF then outOf s (execCalslotWrite p (num - 0x80B0) (v.setWidth 32))
  else
    match num with
    | 0x8020 => outOf s (execPartcfgWrite p (v.setWidth 32))
    | 0x8030 => if fwctlOk v then { s with fwctl := Tbl.set s.fwctl (portOf sel) v } else s
    | 0x8060 =>
      let c := sel.frame.toNat / 32768
      let f := sel.frame.toNat % 32768
      if v.getLsbD 13 then outOf s (execFrameScrub c f (v.setWidth 16)) else outOf s (execOwnerWrite c f (v.setWidth 16))
    | 0x80D0 =>
      if v.getLsbD 0 then outOf s (execCalendarRun p (v.setWidth 32)) else outOf s (execCalendarStop p (v.setWidth 32))
    | 0x80E0 =>
      match ethPort sel with
      | some k => outOf s (execEthcfgWrite k v)
      | none => s
    | 0x80E1 => { s with fabnum := v.setWidth 16 }
    | 0x80E2 => { s with fabtab := v }
    | 0x80E8 =>
      if (List.range 8).any fun i => bits n (8 * i) 8 == 0 then s
      else s.modRouter (portOf sel) fun r => { r with weights := v }
    | 0x80E9 => if 256 ≤ n ∧ n ≤ 65535 then s.modRouter (portOf sel) fun r => { r with lowMax := n } else s
    | 0x80F0 =>
      let w := bits n 0 13
      if 1500 ≤ w ∧ w ≤ 4200 then { s with power := { s.power with cap := w } } else s
    | _ => s

/-- A write to the privileged view with the given selectors; selectors themselves belong to the thread that writes them (19
R415). Read-only registers discard it. -/
def State.privWrite (s : State) (sel : Sel) (num : Nat) (v : DWord) : State :=
  if num = 0x8080 ∨ num = 0x8081 then s.putTag sel num v
  else if 0x8070 ≤ num ∧ num ≤ 0x8074 then s.putWindow sel num v
  else if (s.viewVf sel num).isSome then s.putVf sel num v
  else s.putRest sel num v

/-- PRIVILEGED_REGISTER_WRITE (19 R415): by the mailbox, which firmware serves once the package has started (21 R445; log 80). -/
def execPrivilegedRegisterWrite (sel : Sel) (num : BitVec 16) (v : DWord) (s : State) : Out :=
  .next (if s.power.stage = .running then s.privWrite sel num.toNat v else s)

/-! ## `srd` and `swr` (12 R298, R299) -/

/-- A number that the privileged view does not list, or a type that is not its width. -/
def badRegister : Trap := trapOf .illegalOp 4

/-- The value that `srd` reads; none where the number or the type does not fit the privileged view. -/
def State.sysValue (s : State) (l : Lane) (wide : Bool) (num : Nat) : Option DWord :=
  if num < 0x8000 then some (s.userView l num)
  else
    match s.privView l.t.sel num with
    | some (w, n) => if w = wide then some (BitVec.ofNat 64 n) else none
    | none => none

/-- `srd` (12 R298); a trap is every active lane's (12 R281). -/
def execSrd (h : Hdr) (wide : Bool) (d : Reg) (num : Word) (s : State) : Out :=
  .next (s.runWhole (.srd h wide d num) h fun s l =>
    match s.sysValue l wide num.toNat with
    | none => .trap badRegister
    | some v => s.compute l [] (Reg.refs d) fun _ => .write (destWrites d v) none)

/-- `swr` (12 R299); a trap is every active lane's (12 R281). -/
def execSwr (h : Hdr) (wide : Bool) (num : Word) (a : Src) (s : State) : Out :=
  .next (s.runWhole (.swr h wide num a) h fun s l =>
    match s.privView l.t.sel num.toNat with
    | none => .trap badRegister
    | some r =>
      if r.1 = wide then
        s.compute l [a] [] fun vs =>
          let v := if wide then vs.getD 0 0 else ((vs.getD 0 0).setWidth 32).setWidth 64
          .act fun s =>
            let s := (s.privWrite l.t.sel num.toNat v).modThread l.core l.ctx fun t => { t with sel := Sel.put t.sel num.toNat v }
            s.goesOn l.core l.ctx l.nextPc l.yields
      else .trap badRegister)

end Sys2Proof.Machine
end

