-- ==== Sys2Proof/Machine/Pick.lean ====
section
/-! DEFINITION. The pickers (01 R34, R35), and the pass of each cycle that finds which waiting, halted and sending threads go on (01 R39, R40,
02 R67, 10 R231, 20 R425, R429). -/

namespace Sys2Proof.Machine

/-! ## Pick (01 R34) -/

/-- A thread that a picker may issue, with its context. -/
abbrev Cand := Nat × Thread

/-- The ready threads of a picker half; those whose registers are under test are held (20 R435). -/
def State.readyOf (s : State) (c half : Nat) : List Cand :=
  (s.core c).ctxs.filter fun e => halfOf e.1 == half && e.1 < ctxCount && e.2.st == .ready && !s.regsHeld c e.1

/-- One thread is older than another: by stamp, then by context. -/
def older (a b : Cand) : Bool := a.2.stamp < b.2.stamp || (a.2.stamp == b.2.stamp && a.1 ≤ b.1)

/-- A thread put into its place by age. -/
def insertAge (a : Cand) : List Cand → List Cand
  | [] => [a]
  | b :: l => if older a b then a :: b :: l else b :: insertAge a l

/-- The threads of a list, oldest first. -/
def byAge (l : List Cand) : List Cand := l.foldr insertAge []

/-- The lane set that a picker issues now: the oldest threads, at most 64, of the class of the oldest one. -/
def State.pickSet (s : State) (c half : Nat) : List Cand :=
  match byAge (s.readyOf c half) with
  | [] => []
  | a :: l => ((a :: l).filter fun b => s.classOf b.2 == s.classOf a.2).take 64

/-- The decision count of a picker rises (01 R34). -/
def Core.decide (k : Core) (half : Nat) : Core :=
  if half = 0 then { k with d0 := k.d0 + 1 } else { k with d1 := k.d1 + 1 }

/-- The word at which a thread stands carries the yield hint (08 R176). -/
def State.yieldsAt (s : State) (t : Thread) : Bool := (s.wordOf t).any fun w => w.getLsbD 74

/-- A picked thread: it goes back to the wait that it keeps, or its issue's yield hint is noted. -/
def State.takePicked (s : State) (c : Nat) (e : Cand) : State :=
  match e.2.kept with
  | some w => s.modThread c e.1 fun t => { t with st := .waiting w, kept := none }
  | none => s.modThread c e.1 fun t => { t with yld := s.yieldsAt t }

/-- The decision of a picker (01 R34): the count rises; the threads of the set that keep no wait are its lane set. -/
def State.decideSet (s : State) (core half : Nat) (cs : List Cand) : State :=
  match cs with
  | [] => s
  | a :: _ =>
    let s := cs.foldl (fun s e => s.takePicked core e) (s.modCore core fun k => k.decide half)
    match cs.filter fun e => e.2.kept.isNone with
    | [] => s
    | xs =>
      let iss : Issue := ⟨core, half, xs.map Prod.fst, a.2.pc, s.nextIssue, none, 0, false⟩
      let s : State := { s with nextIssue := s.nextIssue + 1, chosen := s.chosen ++ [iss] }
      s.dictUse core a.2.vf.toNat a.2.khandle.toNat

/-- The sets decided in a cycle are issued when its last decision is made, so that no effect of one comes before another decision
of the cycle (01 R34). -/
def State.issueChosen (s : State) : State :=
  match s.events with
  | .pick _ _ :: _ => s
  | _ => { s with issues := s.issues ++ s.chosen, chosen := [] }

/-- PICK (01 R34): one lane set is decided, unless the cycle is a gap. -/
def execPick (core half : Nat) (s : State) : Out :=
  .next ((if s.gapNow || 2 ≤ half then s else s.decideSet core half (s.pickSet core half)).issueChosen)

/-! ## What waiting threads wait for -/

/-- The words that a thread waits for are FULL. -/
def State.wordsFull (s : State) (c : Nat) (t : Thread) (l : List WRef) : Bool := l.all fun r => s.isFull c t r

/-- A waiting thread may try its instruction again. -/
def State.mayRetry (s : State) (c x : Nat) (t : Thread) : Bool :=
  match t.st with
  | .waiting (.words l) => s.wordsFull c t l
  | .waiting .drained => s.drained c x
  | .waiting (.fence sc) => !s.fenceOpen sc c x
  | .waiting .acquire => s.wordsFull c t t.acq
  | .waiting .dict => s.dictLoaded c t.vf.toNat t.khandle.toNat
  | .waiting .fork => s.forkTurn c x
  | .waiting .retry => true
  | _ => false

/-- A thread goes on where it can. -/
def State.wakeThread (s : State) (c x : Nat) : State :=
  let t := s.thread c x
  let s :=
    if s.mayRetry c x t then
      match t.group with
      | some g => if t.rets.isEmpty then s.ready c x else s.forkEnd c g.1
      | none => s.ready c x
    else s
  let s := s.modThread c x fun t => { t with acq := t.acq.filter fun r => !s.isFull c t r }
  if s.resumable c x then s.unhalt c x else s.wakeSent c x

/-- Every lane of a released set still waits in it. -/
def State.setWaits (s : State) (i : Issue) : Bool :=
  i.lanes.all fun x => (s.thread i.core x).st == .waiting .set

/-- The next cycle is a gap of the power cap (21 R446), in which no instruction is issued. -/
def State.gapNext (s : State) : Bool := ({ s with clk := s.clk + 1 } : State).gapNow

/-- The released sets of a group that wait are tried again (11 R255), in a cycle that is no gap. -/
def State.retrySets (s : State) (c g : Nat) : State :=
  let due := (s.group c g).pend.filter fun i => s.setWaits i && !i.lanes.any (s.regsHeld c)
  if due.isEmpty || s.gapNext then s
  else
    let s := s.modGroup c g fun k => { k with pend := k.pend.filter fun i => !due.contains i }
    { s with issues := s.issues ++ due }

/-- The pass over one core; the sets of picker 0's groups are tried before those of picker 1's (11 R268). -/
def State.wakeCore (s : State) (c : Nat) : State :=
  let s := (s.core c).ctxs.foldl (fun s e => s.wakeThread c e.1) s
  let s := s.testCounters c
  let gs := (s.core c).groups
  (gs.filter (fun e => e.2.num % 2 == 0) ++ gs.filter fun e => e.2.num % 2 == 1).foldl (fun s e => s.retrySets c e.1) s

/-- The pass of one cycle (log 1): threads of VFs that are not active halt at safe points, cursors pause, waiting threads go on,
markers of other packages are acknowledged. -/
def State.wake (s : State) : State :=
  let s := s.parts.foldl (fun s e => s.haltPart e.1) s
  let s := s.cores.foldl (fun s e => (s.pauseCursors e.1).wakeCore e.1) s
  s.ports.foldl (fun s e => s.ackFar e.1) s

/-- An issue gap of the power cap is counted (12 R298). -/
def State.countGap (s : State) : State :=
  if s.gapNow && !s.power.therm then { s with power := { s.power with gaps := s.power.gaps + 1 } } else s

end Sys2Proof.Machine
end

