-- ==== Sys2Proof/Machine/Cycle.lean ====
section
/-! DEFINITION. The agenda of a cycle: the events that may come or are due (95), in an order that is a free choice (log 1). An event whose
condition does not hold any more when its turn comes changes nothing. -/

namespace Sys2Proof.Machine

/-! ## Free choices (log 1) -/

/-- A list with each element kept or not. -/
def State.maybe (s : State) (l : List Instr) : List Instr :=
  (l.zipIdx.filter fun e => Config.choose (s.tick + e.2) % 2 == 1).map Prod.fst

/-- A list in an order that is a free choice; n is its length. -/
def shuffle (t : Nat) : Nat → List Instr → List Instr
  | 0, l => l
  | n + 1, l =>
    let i := Config.choose (t + n) % l.length
    match l[i]? with
    | some x => x :: shuffle t n (l.eraseIdx i)
    | none => l

/-- As many events about entries of a list as it has entries, each about any of them. -/
def State.anyOf (s : State) (n : Nat) (f : Nat → Instr) : List Instr :=
  (List.range n).map fun k => f (Config.choose (s.tick + k) % n)

/-! ## Requests and frames -/

/-- The home's core of a request for the walk that precedes it. -/
def Req.walks (r : Req) : List Instr :=
  match r.home with
  | .core c => [.tableWalk c r.vf.toNat r.va]
  | .host => [.tableWalk r.core r.vf.toNat r.va]
  | .far _ _ => []

/-- What may come next of a request; an engine's belongs to no fault unit (04 R108). -/
def Req.events (r : Req) : List Instr :=
  match r.stat with
  | .unsent => [.remoteRequestSend r.id]
  | .sent => Req.walks r ++ [.perform r.id, .firewallDrop r.id] ++ r.reps.map fun d => .mcstForward r.id d
  | .performed => [.requestResponse r.id]
  | .faulted _ => if r.ctx = engineCtx then [.requestResponse r.id] else [.requestResponse r.id, .unitPark r.issue r.key]
  | .returned | .denied _ _ => if r.far.isSome then [.requestResponse r.id] else []
  | .merged _ => []

/-- The events of a request: its response waits while a test holds the registers that it writes (20 R435). -/
def State.reqEvents (s : State) (r : Req) : List Instr :=
  if r.stat == .performed && r.far.isNone && r.dst.isSome && s.regsHeld r.core r.ctx then [] else Req.events r

/-- Requests, fills, frames and messages. -/
def State.traffic (s : State) : List Instr :=
  s.reqs.flatMap s.reqEvents ++ s.anyOf s.fills.length .roSectorFill ++ s.anyOf s.flights.length .firewallBounce ++
    s.anyOf s.grants.length .reservationGrant ++ s.anyOf s.decs.length .gridCountDecrement ++
    s.anyOf s.resvQ.length .reservationRequest

/-! ## Engines and groups -/

/-- An engine's work is held by a test (20 R435): of the registers of one of its threads, or of scratchpad or accumulator rows of its team. -/
def State.workHeld (s : State) (c team : Nat) (xs : List Nat) : Bool :=
  s.macroHeld .sram c team || s.macroHeld .accumulator c team || xs.any (s.regsHeld c)

/-- The engine events of a core. -/
def State.work (s : State) (c : Nat) : List Instr :=
  let k := s.core c
  let copies := k.copies.filter fun o => !s.workHeld c o.team [o.ctx]
  let spills := k.spills.filter fun o => !s.workHeld c ((o.gset.map fun g => (s.group c g).team).getD (2 ^ 32)) [o.ctx]
  let mats := k.mq.head?.toList.filter fun o => !s.workHeld c o.team (o.lanes.map MLane.ctx)
  let curs := fun (ls : List (Nat × Nat)) (i : Instr) => if (ls.map Prod.snd).any (s.regsHeld c) then [] else [i]
  (copies.flatMap fun o =>
    (o.left.map fun e => if o.isGather then .gatherRow c o.id e else .copyElement c o.id e) ++ [.copyComplete c o.id]) ++
  (spills.map fun o => .spillComplete c o.id) ++
  (if mats.isEmpty then [] else [.matrixOpStart c, .matrixOpComplete c]) ++
  (k.cursors.flatMap fun e => match e.2.busy with
    | .next _ ls .. => curs ls (.crdNextComplete c e.1)
    | .split _ ls .. => curs ls (.crdSplitComplete c e.1)
    | .none => []) ++
  (k.ctxs.flatMap fun e => match e.2.st with
    | .departing _ _ => if s.regsHeld c e.1 then [] else [.firstHopAccept c e.1]
    | _ => [])

/-- The dictionaries that a core is to load (13 R310). -/
def Core.dictLoads (k : Core) (c : Nat) : List Instr := k.dictWant.map fun e => .dictionaryLoad c e.1 e.2

/-! ## Grids and chains -/

/-- The events of a VF's chains. -/
def State.chainWork (s : State) (v : Nat) : List Instr :=
  if (s.vf v).enable then (List.range 4).flatMap fun k => [.blockStart v k, .chainAdvance v k] else []

/-- Window re-keys and frame scrubs under way. -/
def State.frameWork (s : State) : List Instr :=
  (s.windows.filter fun e => e.2.state == .opening || e.2.state == .closing).map (fun e => .rekeyComplete e.1) ++
    (s.owners.filter fun e => e.2.init).map fun e => .scrubComplete (e.1 / 32768) (e.1 % 32768)

/-- Team placements: each VF with teams to place may place one, where it is its turn (20 R424). -/
def State.placements (s : State) : List Instr :=
  ((s.vfs.map Prod.fst).filter fun v => !(s.toPlace v).isEmpty).map .teamPlacement

/-! ## Claims on halted footprints (20 R427) -/

/-- The opcode of the instruction at which a thread stands. -/
def State.opcodeAt (s : State) (t : Thread) : Nat := ((s.wordOf t).map fun w => (opcodeOf w).toNat).getD 0

/-- A thread waits for a cursor slot in `crd.open` or `crd.load`. -/
def State.wantsSlot (s : State) (t : Thread) : Bool :=
  (t.st == .waiting .set || t.st == .waiting .retry) && [0x182, 0x186].contains (s.opcodeAt t)

/-- A thread waits for a free slot in `detach`. -/
def State.wantsRow (s : State) (c : Nat) (t : Thread) : Bool :=
  t.st == .waiting .retry && s.opcodeAt t == 0x10E && !s.slotFree c

/-- The kinds of unit that claimants of a core miss: a team, an evicted team or free thread, a frame, a cursor, a slot. -/
def State.missing (s : State) (c : Nat) : List Nat :=
  let k := s.core c
  let team := match s.nextTeam c with
    | some (_, g) => s.lacks c ((s.kernel g.vf g.khandle.toNat).askTeam g)
    | none => []
  let back := (s.restoreTeams c).flatMap fun e => s.lacks c (s.askRestore c e.2)
  let free := (k.queue.any (s.admissible c)) ||
    k.ctxs.any fun e => (ctxCount ≤ e.1 || e.2.slotOut) && e.2.group.isNone && s.vfActive e.2.vf.toNat c
  let ctx := if free && (k.freeCtxs 0 ++ k.freeCtxs 1).isEmpty then [0] else []
  let row := if (free && !s.slotFree c) || k.ctxs.any fun e => s.wantsRow c e.2 then [1] else []
  let slot := if (k.cursors.countP fun e => e.1 < 256) < 256 then []
    else if k.ctxs.any fun e => s.wantsSlot e.2 then [5] else []
  team ++ back ++ ctx ++ row ++ slot

/-- The evictions of a core: for each kind of unit that is missing, the unit whose turn it is. -/
def State.evictions (s : State) (c : Nat) : List Instr :=
  (s.missing c).filterMap fun k => (earliest (s.candidates c k)).map fun e => .lazyEviction c e.2

/-- The restores of a core (20 R429). -/
def State.restores (s : State) (c : Nat) : List Instr :=
  ((s.restoreTeams c).map fun e => .teamRestore c e.2) ++
    ((s.core c).ctxs.filter fun e => (ctxCount ≤ e.1 || e.2.slotOut) && e.2.group.isNone).map fun e => .freeThreadRestore c e.1

/-! ## The agenda -/

/-- The power loop and the thermal limits (21 R446, R447): an interval every 9,400 cycles, a stop once 110 °C has been held for 1 ms. -/
def State.powerTimers (s : State) : List Instr :=
  let p := s.power
  (if p.nextInterval.toNat ≤ s.clk.toNat then [.powerInterval (Config.watts s.tick)] else []) ++
    if p.tooHot s.clk && !p.therm then [.thermalStop p.temp] else []

/-- Events whose time has come: slots, forced halts, releases, retries, dies, watchdogs, power. -/
def State.timers (s : State) : List Instr :=
  s.powerTimers ++
  (s.parts.flatMap fun e => [.slotEnd e.1, .forcedHalt e.1] ++ e.2.trees.map fun t => .treeRelease e.1 t.1) ++
    ((List.range s.held.length).map .faultQueueRetry) ++ (if s.power.stage = .dies then [.dieResetRelease] else []) ++
    s.cores.map fun e => .engineReset e.1

/-- Frames arrive, then each core admits (01 R30). -/
def State.arrivals (s : State) : List Instr :=
  (s.maybe (s.anyOf s.flights.length .frameArrival)) ++
    s.cores.flatMap fun e => s.restores e.1 ++ s.evictions e.1 ++ [.admitCore e.1]

/-- What a core does at once: budgets that are free, teams that are stuck (01 R17 to R19). -/
def State.pools (s : State) : List Instr :=
  s.cores.flatMap fun e => e.2.teams.flatMap fun t => [.releaseComplete e.1 t.1, .claimServed e.1 t.1, .teamDeadlock e.1 t.1]

/-- The events that may come in a cycle. -/
def State.mayCome (s : State) : List Instr :=
  s.traffic ++ (s.cores.flatMap fun e => s.work e.1 ++ e.2.dictLoads e.1) ++ s.frameWork ++
    (s.vfs.flatMap fun e => s.chainWork e.1 ++ [.vfResetComplete e.1]) ++ s.grids.map fun g => .gridComplete g.id

/-- The decisions of a cycle come first: what becomes ready in the cycle is stamped after them (01 R34). -/
def State.picks (s : State) : List Instr := s.cores.flatMap fun e => [.pick e.1 0, .pick e.1 1]

/-- The agenda of a cycle after the picks and inputs: what is due, what may come, placements, arrivals and admission. -/
def State.agenda (s : State) : List Instr :=
  let m := s.maybe s.mayCome
  s.timers ++ shuffle s.tick m.length m ++ s.pools ++ s.placements ++ s.arrivals

/-! ## Cycles and issues (log 1) -/

/-- A driver's command on a register of the privileged view, which comes by the physical function's mailbox (18 R374). -/
def byMailbox : Instr → Bool
  | .replay _ _ | .kill _ _ | .calendarRun _ _ | .calendarStop _ _ | .calslotWrite _ _ _ | .vfReset _ | .kernelRegister _
  | .kernelUnregister _ _ | .regionTableLoad _ | .keyGenerate _ | .keyDestroy _ | .pcinv _ | .ownerWrite _ _ _ | .frameScrub _ _ _
  | .winpageAdd _ _ | .winpageClear _ | .windowOpen _ _ | .windowCloseRekey _ _ | .windowCloseDestroy _ _ | .octmapWrite _ _
  | .partcfgWrite _ _ | .ethcfgWrite _ _ | .privilegedRegisterWrite _ _ _ | .attestationRequest _ => true
  | _ => false

/-- The inputs of a cycle: accesses that were held first, in the order held (20 R434). Before firmware serves the mailbox, no command comes
through it (21 R445; log 80). -/
def State.nowIn (s : State) : List Instr :=
  s.waitIn ++ (s.inputs.headD []).filter fun i => s.power.stage == .running || !byMailbox i

/-- A new cycle: the pass over waiting threads that ends the old one, the clock, the errors found since, the end of a thermal stop below 95 °C
(21 R447), the packets that leave, the decisions, the inputs of the cycle and the agenda. -/
def State.newCycle (s : State) : State :=
  let s := ({ s.wake with clk := s.clk + 1 } : State).countGap.logWorn.logFailed
  let s := outState s (execThermalResume s.power.temp s)
  let s := (s.ports.map Prod.fst).foldl State.servePort s
  { s with events := s.picks ++ s.nowIn ++ s.agenda, inputs := s.inputs.drop 1, waitIn := [] }

/-- A lane set whose encoding is rejected: every thread parks with ILLEGAL_OP, whose KIND is the failing step (08 R192). -/
def State.decodeFails (s : State) (iss : Issue) (rest : List Issue) (e : DecErr) : State :=
  let s : State := { s with issues := rest }
  (unitsOf (iss.lanes.map (s.laneOf iss 0))).foldl (fun s ls =>
    s.parkLanes ls (trapOf .illegalOp e.step) (ls.map Lane.lane) iss.pc .reexec) s

/-- The word of `nop` (09 R225). -/
def nopWord : BitVec 96 := 0x33C000000000000000000000#96

/-- A kernel whose code is the given parcels, with a full dictionary. -/
def Kernel.ofParcels (ps : List (BitVec 16)) : Kernel :=
  { (default : Kernel) with live := true, migratory := true, code := ps, dict := List.replicate 1024 nopWord }

/-- The state with a free thread of VF 0 in context 0 of core 0 being issued at parcel 0 of a kernel with the given code, its
dictionary loaded (log 90). -/
def State.withKernel (s : State) (ps : List (BitVec 16)) : State :=
  let t : Thread := { (default : Thread) with st := .ready, khandle := 1 }
  let s := s.modVf 0 fun v => { v with kernels := Tbl.set v.kernels 1 (Kernel.ofParcels ps) }
  let s := (s.setThread 0 0 t).modCore 0 fun k => { k with dicts := [⟨0, 1, true, 0⟩] }
  { s with issues := [⟨0, 0, [0], 0, s.nextIssue, none, 0, false⟩] }

end Sys2Proof.Machine
end

