-- ==== Sys2Proof/Machine/Control.lean ====
section
/-! DEFINITION. Class 3: comparisons, predicates and control flow (09 R218 to R225). -/

namespace Sys2Proof.Machine

/-! ## Predicates -/

/-- A predicate computed from sources. -/
def State.cmp2 (s : State) (l : Lane) (p : PReg) (a b : Src) (f : DWord → DWord → Bool) : LaneOut :=
  s.compute l [a, b] [.p p.toNat] fun vs =>
    .write [(.p p.toNat, boolWord (f (vs.getD 0 0) (vs.getD 1 0)))] none

/-- A predicate computed from predicates. -/
def State.predOp (s : State) (l : Lane) (p : PReg) (srcs : List PReg) (f : List Bool → Bool) : LaneOut :=
  match s.readCheck l (srcs.map fun q => (.p q.toNat, false)) with
  | some o => o
  | none =>
    match s.destCheck l [.p p.toNat] with
    | some o => o
    | none => .write [(.p p.toNat, boolWord (f (srcs.map fun q => l.t.pred q.toNat)))] none

/-- `setp` (09 R218). -/
def execSetp (h : Hdr) (cmp : Cmp) (t : Ty) (p : PReg) (a b : Src) (s : State) : Out :=
  .next (s.runLanes (.setp h cmp t p a b) h fun s l =>
    s.cmp2 l p a b fun x y => Cmp.holds cmp (readInt t x) (readInt t y))

/-- `fsetp` (09 R218). -/
def execFsetp (h : Hdr) (mask : BitVec 4) (p : PReg) (a b : Src) (s : State) : Out :=
  .next (s.runLanes (.fsetp h mask p a b) h fun s l =>
    s.cmp2 l p a b fun x y => fsetpHolds mask (x.setWidth 32) (y.setWidth 32))

/-- `fclass` (09 R219). -/
def execFclass (h : Hdr) (p : PReg) (a b : Src) (s : State) : Out :=
  .next (s.runLanes (.fclass h p a b) h fun s l =>
    s.cmp2 l p a b fun x m => m.getLsbD (fclassOf (x.setWidth 32)))

/-- `pand` (09 R220). -/
def execPand (h : Hdr) (p a b : PReg) (na nb : Bool) (s : State) : Out :=
  .next (s.runLanes (.pand h p a b na nb) h fun s l =>
    s.predOp l p [a, b] fun vs => (vs.getD 0 false != na) && (vs.getD 1 false != nb))

/-- `por` (09 R220). -/
def execPor (h : Hdr) (p a b : PReg) (na nb : Bool) (s : State) : Out :=
  .next (s.runLanes (.por h p a b na nb) h fun s l =>
    s.predOp l p [a, b] fun vs => (vs.getD 0 false != na) || (vs.getD 1 false != nb))

/-- `pxor` (09 R220). -/
def execPxor (h : Hdr) (p a b : PReg) (na nb : Bool) (s : State) : Out :=
  .next (s.runLanes (.pxor h p a b na nb) h fun s l =>
    s.predOp l p [a, b] fun vs => (vs.getD 0 false != na) != (vs.getD 1 false != nb))

/-- `pnot` (09 R220). -/
def execPnot (h : Hdr) (p a : PReg) (s : State) : Out :=
  .next (s.runLanes (.pnot h p a) h fun s l => s.predOp l p [a] fun vs => !vs.getD 0 false)

/-- `pmov` (09 R221). -/
def execPmov (h : Hdr) (p a : PReg) (s : State) : Out :=
  .next (s.runLanes (.pmov h p a) h fun s l => s.predOp l p [a] fun vs => vs.getD 0 false)

/-- `pmov.get` (09 R221). -/
def execPmovGet (h : Hdr) (d : Reg) (s : State) : Out :=
  .next (s.runLanes (.pmovGet h d) h fun s l =>
    match s.readCheck l ((List.range 16).map fun n => (.p n, false)) with
    | some o => o
    | none =>
      match s.destCheck l (Reg.refs d) with
      | some o => o
      | none => .write (destWrites d (l.t.predWord.setWidth 64)) none)

/-- `pmov.put` (09 R221): D is a source that no trap-on-empty bit covers. -/
def execPmovPut (h : Hdr) (d : Reg) (a : Src) (s : State) : Out :=
  .next (s.runLanes (.pmovPut h d a) h fun s l =>
    match s.readCheck l (hinted l 0 [a] ++ (Reg.refs d).map fun r => (r, false)) with
    | some o => o
    | none =>
      let m := s.srcVal l a
      let v := s.regVal l d
      let ps := (List.range 16).filter fun n => n != 0 && m.getLsbD n
      match s.destCheck l (ps.map WRef.p) with
      | some o => o
      | none => .write (ps.map fun n => (.p n, boolWord (v.getLsbD n))) none)

/-! ## Branches (09 R222, R223) -/

/-- The references and value of a link write. -/
def linkWrite (l : Lane) : List (WRef × Word) := [(.g 15, l.nextPc)]

/-- `bra` (09 R223). -/
def execBra (h : Hdr) (off : Word) (s : State) : Out :=
  .next (s.runLanes (.bra h off) h fun _ l => .write [] (some (l.t.pc + off)))

/-- `bra.ind` (09 R223). -/
def execBraInd (h : Hdr) (a : Src) (s : State) : Out :=
  .next (s.runLanes (.braInd h a) h fun s l =>
    s.compute l [a] [] fun vs => .write [] (some ((vs.getD 0 0).setWidth 32)))

/-- `call` (09 R223). -/
def execCall (h : Hdr) (off : Word) (s : State) : Out :=
  .next (s.runLanes (.call h off) h fun s l =>
    s.compute l [] [.g 15] fun _ => .write (linkWrite l) (some (l.t.pc + off)))

/-- `call.ind` (09 R223). -/
def execCallInd (h : Hdr) (a : Src) (s : State) : Out :=
  .next (s.runLanes (.callInd h a) h fun s l =>
    s.compute l [a] [.g 15] fun vs =>
      .write (linkWrite l) (some ((vs.getD 0 0).setWidth 32)))

/-- `ret` (09 R223): waits while g15 is EMPTY, with no hint. -/
def execRet (h : Hdr) (s : State) : Out :=
  .next (s.runLanes (.ret h) h fun s l =>
    match s.readCheck l [(.g 15, false)] with
    | some o => o
    | none => .write [] (some (l.t.reg 15).val))

/-- `exit` (09 R224): every register word and predicate FULL (02 R68), every request with its outcome (10 R249). -/
def execExit (h : Hdr) (s : State) : Out :=
  .next (s.runLanes (.exit h) h fun s l =>
    let refs := (List.range (s.budget l.core l.t)).map WRef.g ++ (List.range 16).map WRef.p
    match s.destCheck l refs with
    | some o => o
    | none =>
      if s.drained l.core l.ctx then .act fun s => s.exitThread l.core l.ctx
      else .wait .drained)

/-- `yield` (09 R225): the stamp D + 64. -/
def execYield (h : Hdr) (s : State) : Out :=
  .next (s.runLanes (.yield h) h fun _ l =>
    .act fun s => s.goesOn l.core l.ctx l.nextPc true)

/-- `nop` (09 R225). -/
def execNop (h : Hdr) (s : State) : Out :=
  .next (s.runLanes (.nop h) h fun _ _ => .write [] none)

end Sys2Proof.Machine
end

