-- ==== Sys2Proof/Machine/Dispatch.lean ====
section
/-! DEFINITION. The dispatch: one arm per constructor of `Instr`, each one direct call of its meaning. -/

namespace Sys2Proof.Machine

open Sys2Proof

def exec (i : Instr) (s : State) : Host.Outcome State Fault Refusal :=
  match i with
  | .shortParcel n => Sys2Proof.Machine.execShortParcel n s
  | .add h ty d a b => Sys2Proof.Machine.execAdd h ty d a b s
  | .addXi h ty d a imm => Sys2Proof.Machine.execAddXi h ty d a imm s
  | .sub h ty d a b => Sys2Proof.Machine.execSub h ty d a b s
  | .subXi h ty d a imm => Sys2Proof.Machine.execSubXi h ty d a imm s
  | .addc h ty d a b pc => Sys2Proof.Machine.execAddc h ty d a b pc s
  | .subb h ty d a b pc => Sys2Proof.Machine.execSubb h ty d a b pc s
  | .iadd3 h ty d a b c => Sys2Proof.Machine.execIadd3 h ty d a b c s
  | .mulLo h ty d a b => Sys2Proof.Machine.execMulLo h ty d a b s
  | .mulLoXi h ty d a imm => Sys2Proof.Machine.execMulLoXi h ty d a imm s
  | .mulHi h ty d a b => Sys2Proof.Machine.execMulHi h ty d a b s
  | .mulWide h ty d a b => Sys2Proof.Machine.execMulWide h ty d a b s
  | .madLo h ty d a b c => Sys2Proof.Machine.execMadLo h ty d a b c s
  | .madHi h ty d a b c => Sys2Proof.Machine.execMadHi h ty d a b c s
  | .madWide h ty d a b c => Sys2Proof.Machine.execMadWide h ty d a b c s
  | .div h ty d a b => Sys2Proof.Machine.execDiv h ty d a b s
  | .rem h ty d a b => Sys2Proof.Machine.execRem h ty d a b s
  | .min h ty d a b => Sys2Proof.Machine.execMin h ty d a b s
  | .minXi h ty d a imm => Sys2Proof.Machine.execMinXi h ty d a imm s
  | .max h ty d a b => Sys2Proof.Machine.execMax h ty d a b s
  | .maxXi h ty d a imm => Sys2Proof.Machine.execMaxXi h ty d a imm s
  | .abs h ty d a => Sys2Proof.Machine.execAbs h ty d a s
  | .neg h ty d a => Sys2Proof.Machine.execNeg h ty d a s
  | .saddSat h ty d a b => Sys2Proof.Machine.execSaddSat h ty d a b s
  | .ssubSat h ty d a b => Sys2Proof.Machine.execSsubSat h ty d a b s
  | .and h ty d a b => Sys2Proof.Machine.execAnd h ty d a b s
  | .andXi h ty d a imm => Sys2Proof.Machine.execAndXi h ty d a imm s
  | .or h ty d a b => Sys2Proof.Machine.execOr h ty d a b s
  | .orXi h ty d a imm => Sys2Proof.Machine.execOrXi h ty d a imm s
  | .xor h ty d a b => Sys2Proof.Machine.execXor h ty d a b s
  | .xorXi h ty d a imm => Sys2Proof.Machine.execXorXi h ty d a imm s
  | .not h ty d a => Sys2Proof.Machine.execNot h ty d a s
  | .andn h ty d a b => Sys2Proof.Machine.execAndn h ty d a b s
  | .shl h ty d a b => Sys2Proof.Machine.execShl h ty d a b s
  | .shr h ty d a b => Sys2Proof.Machine.execShr h ty d a b s
  | .sar h ty d a b => Sys2Proof.Machine.execSar h ty d a b s
  | .rol h ty d a b => Sys2Proof.Machine.execRol h ty d a b s
  | .ror h ty d a b => Sys2Proof.Machine.execRor h ty d a b s
  | .bfe h ty d a b => Sys2Proof.Machine.execBfe h ty d a b s
  | .bfi h ty d a b c => Sys2Proof.Machine.execBfi h ty d a b c s
  | .bfrev h ty d a => Sys2Proof.Machine.execBfrev h ty d a s
  | .popc h ty d a => Sys2Proof.Machine.execPopc h ty d a s
  | .clz h ty d a => Sys2Proof.Machine.execClz h ty d a s
  | .ctz h ty d a => Sys2Proof.Machine.execCtz h ty d a s
  | .lea h ty d a b c => Sys2Proof.Machine.execLea h ty d a b c s
  | .mov h d a => Sys2Proof.Machine.execMov h d a s
  | .movi h d imm => Sys2Proof.Machine.execMovi h d imm s
  | .sel h d a b pc => Sys2Proof.Machine.execSel h d a b pc s
  | .fadd h ty m d a b => Sys2Proof.Machine.execFadd h ty m d a b s
  | .faddXi h ty m d a imm => Sys2Proof.Machine.execFaddXi h ty m d a imm s
  | .fsub h m d a b => Sys2Proof.Machine.execFsub h m d a b s
  | .fmul h ty m d a b => Sys2Proof.Machine.execFmul h ty m d a b s
  | .fmulXi h ty m d a imm => Sys2Proof.Machine.execFmulXi h ty m d a imm s
  | .ffma h ty m d a b c => Sys2Proof.Machine.execFfma h ty m d a b c s
  | .fmin h ty d a b => Sys2Proof.Machine.execFmin h ty d a b s
  | .fminXi h ty d a imm => Sys2Proof.Machine.execFminXi h ty d a imm s
  | .fmax h ty d a b => Sys2Proof.Machine.execFmax h ty d a b s
  | .fmaxXi h ty d a imm => Sys2Proof.Machine.execFmaxXi h ty d a imm s
  | .fminn h ty d a b => Sys2Proof.Machine.execFminn h ty d a b s
  | .fmaxn h ty d a b => Sys2Proof.Machine.execFmaxn h ty d a b s
  | .fabs h ty d a => Sys2Proof.Machine.execFabs h ty d a s
  | .fneg h ty d a => Sys2Proof.Machine.execFneg h ty d a s
  | .fsgn h ty d a b => Sys2Proof.Machine.execFsgn h ty d a b s
  | .fdiv h m d a b => Sys2Proof.Machine.execFdiv h m d a b s
  | .fsqrt h m d a => Sys2Proof.Machine.execFsqrt h m d a s
  | .frcp h m d a => Sys2Proof.Machine.execFrcp h m d a s
  | .frsq h m d a => Sys2Proof.Machine.execFrsq h m d a s
  | .fex2 h m d a => Sys2Proof.Machine.execFex2 h m d a s
  | .flg2 h m d a => Sys2Proof.Machine.execFlg2 h m d a s
  | .fsin h m d a => Sys2Proof.Machine.execFsin h m d a s
  | .fcos h m d a => Sys2Proof.Machine.execFcos h m d a s
  | .ftanh h m d a => Sys2Proof.Machine.execFtanh h m d a s
  | .frnd h m d a => Sys2Proof.Machine.execFrnd h m d a s
  | .ffrc h m d a => Sys2Proof.Machine.execFfrc h m d a s
  | .fscale h m d a b => Sys2Proof.Machine.execFscale h m d a b s
  | .fdot2 h ty m d a b c => Sys2Proof.Machine.execFdot2 h ty m d a b c s
  | .cvt h t src m sat d a => Sys2Proof.Machine.execCvt h t src m sat d a s
  | .cvtPack h ty m d a b c => Sys2Proof.Machine.execCvtPack h ty m d a b c s
  | .qpack h d a b c => Sys2Proof.Machine.execQpack h d a b c s
  | .qunpack h m d a b => Sys2Proof.Machine.execQunpack h m d a b s
  | .bsel h d a b c => Sys2Proof.Machine.execBsel h d a b c s
  | .pack h ty sat d a b c => Sys2Proof.Machine.execPack h ty sat d a b c s
  | .unpack h ty d a b => Sys2Proof.Machine.execUnpack h ty d a b s
  | .setp h cmp ty p a b => Sys2Proof.Machine.execSetp h cmp ty p a b s
  | .fsetp h mask p a b => Sys2Proof.Machine.execFsetp h mask p a b s
  | .fclass h p a b => Sys2Proof.Machine.execFclass h p a b s
  | .pand h p a b na nb => Sys2Proof.Machine.execPand h p a b na nb s
  | .por h p a b na nb => Sys2Proof.Machine.execPor h p a b na nb s
  | .pxor h p a b na nb => Sys2Proof.Machine.execPxor h p a b na nb s
  | .pnot h p a => Sys2Proof.Machine.execPnot h p a s
  | .pmov h p a => Sys2Proof.Machine.execPmov h p a s
  | .pmovGet h d => Sys2Proof.Machine.execPmovGet h d s
  | .pmovPut h d a => Sys2Proof.Machine.execPmovPut h d a s
  | .bra h off => Sys2Proof.Machine.execBra h off s
  | .braInd h a => Sys2Proof.Machine.execBraInd h a s
  | .call h off => Sys2Proof.Machine.execCall h off s
  | .callInd h a => Sys2Proof.Machine.execCallInd h a s
  | .ret h => Sys2Proof.Machine.execRet h s
  | .exit h => Sys2Proof.Machine.execExit h s
  | .yield h => Sys2Proof.Machine.execYield h s
  | .nop h => Sys2Proof.Machine.execNop h s
  | .ldG h ty tf d base disp => Sys2Proof.Machine.execLdG h ty tf d base disp s
  | .stG h ty tf v base disp => Sys2Proof.Machine.execStG h ty tf v base disp s
  | .ldS h ty d base disp => Sys2Proof.Machine.execLdS h ty d base disp s
  | .stS h ty v base disp => Sys2Proof.Machine.execStS h ty v base disp s
  | .ldRo h ty tf d base disp => Sys2Proof.Machine.execLdRo h ty tf d base disp s
  | .pfRo h base disp => Sys2Proof.Machine.execPfRo h base disp s
  | .atomG h op ty tf d base disp v => Sys2Proof.Machine.execAtomG h op ty tf d base disp v s
  | .atomS h op ty d base disp v => Sys2Proof.Machine.execAtomS h op ty d base disp v s
  | .redG h op ty tf v base disp => Sys2Proof.Machine.execRedG h op ty tf v base disp s
  | .mcst h ty v base disp => Sys2Proof.Machine.execMcst h ty v base disp s
  | .fence h scope => Sys2Proof.Machine.execFence h scope s
  | .ldAcq h ty tf d base disp => Sys2Proof.Machine.execLdAcq h ty tf d base disp s
  | .stRel h scope ty tf v base disp => Sys2Proof.Machine.execStRel h scope ty tf v base disp s
  | .mig h base disp => Sys2Proof.Machine.execMig h base disp s
  | .detach h tf => Sys2Proof.Machine.execDetach h tf s
  | .spawn h off nreg tf => Sys2Proof.Machine.execSpawn h off nreg tf s
  | .spawnAt h off a nreg tf => Sys2Proof.Machine.execSpawnAt h off a nreg tf s
  | .launch h d a b => Sys2Proof.Machine.execLaunch h d a b s
  | .shfl h mode ty d a b c => Sys2Proof.Machine.execShfl h mode ty d a b c s
  | .lpred h op d a => Sys2Proof.Machine.execLpred h op d a s
  | .redux h op ty m d a => Sys2Proof.Machine.execRedux h op ty m d a s
  | .scan h op ex ty m d a => Sys2Proof.Machine.execScan h op ex ty m d a s
  | .segscan h ex ty d a b c => Sys2Proof.Machine.execSegscan h ex ty d a b c s
  | .segred h ty d a b c => Sys2Proof.Machine.execSegred h ty d a b c s
  | .peers h op ty d a => Sys2Proof.Machine.execPeers h op ty d a s
  | .lcompress h ty d a b c => Sys2Proof.Machine.execLcompress h ty d a b c s
  | .lexpand h ty d a b c => Sys2Proof.Machine.execLexpand h ty d a b c s
  | .gwait h => Sys2Proof.Machine.execGwait h s
  | .mma h z ty row a off tag => Sys2Proof.Machine.execMma h z ty row a off tag s
  | .mmaSp h z ty row a off md => Sys2Proof.Machine.execMmaSp h z ty row a off md s
  | .sprune h ty d a c => Sys2Proof.Machine.execSprune h ty d a c s
  | .mdist h z ty row a off => Sys2Proof.Machine.execMdist h z ty row a off s
  | .mtopk h max ty d row g0 k => Sys2Proof.Machine.execMtopk h max ty d row g0 k s
  | .acz h row n => Sys2Proof.Machine.execAcz h row n s
  | .acld h row off n tok => Sys2Proof.Machine.execAcld h row off n tok s
  | .acst h row off n tok => Sys2Proof.Machine.execAcst h row off n tok s
  | .accp h ty d b n => Sys2Proof.Machine.execAccp h ty d b n s
  | .acsc h ty var off row n f => Sys2Proof.Machine.execAcsc h ty var off row n f s
  | .tcopy h tok off => Sys2Proof.Machine.execTcopy h tok off s
  | .gather h tok off => Sys2Proof.Machine.execGather h tok off s
  | .crdOpen h op c da db => Sys2Proof.Machine.execCrdOpen h op c da db s
  | .crdSplit h c n k => Sys2Proof.Machine.execCrdSplit h c n k s
  | .crdNext h d c p => Sys2Proof.Machine.execCrdNext h d c p s
  | .crdSave h sp c b => Sys2Proof.Machine.execCrdSave h sp c b s
  | .crdLoad h sp c b => Sys2Proof.Machine.execCrdLoad h sp c b s
  | .crdClose h c => Sys2Proof.Machine.execCrdClose h c s
  | .spill h sp tok a b n => Sys2Proof.Machine.execSpill h sp tok a b n s
  | .fill h sp tok a b n => Sys2Proof.Machine.execFill h sp tok a b n s
  | .rclaim h k => Sys2Proof.Machine.execRclaim h k s
  | .rgive h k => Sys2Proof.Machine.execRgive h k s
  | .barTeam h => Sys2Proof.Machine.execBarTeam h s
  | .barRole h => Sys2Proof.Machine.execBarRole h s
  | .barTree h tag => Sys2Proof.Machine.execBarTree h tag s
  | .arrive h off n => Sys2Proof.Machine.execArrive h off n s
  | .waitCtr h off target => Sys2Proof.Machine.execWaitCtr h off target s
  | .trap h code => Sys2Proof.Machine.execTrap h code s
  | .brk h => Sys2Proof.Machine.execBrk h s
  | .srd h wide d num => Sys2Proof.Machine.execSrd h wide d num s
  | .swr h wide num a => Sys2Proof.Machine.execSwr h wide num a s
  | .halt h => Sys2Proof.Machine.execHalt h s
  | .tlbinvAll h v => Sys2Proof.Machine.execTlbinvAll h v s
  | .tlbinvPage h v a => Sys2Proof.Machine.execTlbinvPage h v a s
  | .roinvAll h v => Sys2Proof.Machine.execRoinvAll h v s
  | .roinvPage h v a => Sys2Proof.Machine.execRoinvPage h v a s
  | .pick core half => Sys2Proof.Machine.execPick core half s
  | .firstHopAccept core ctx => Sys2Proof.Machine.execFirstHopAccept core ctx s
  | .frameArrival n => Sys2Proof.Machine.execFrameArrival n s
  | .admitCore core => Sys2Proof.Machine.execAdmit core s
  | .firewallBounce n => Sys2Proof.Machine.execFirewallBounce n s
  | .firewallDrop req => Sys2Proof.Machine.execFirewallDrop req s
  | .teamPlacement vf => Sys2Proof.Machine.execTeamPlacement vf s
  | .reservationRequest n => Sys2Proof.Machine.execReservationRequest n s
  | .reservationGrant n => Sys2Proof.Machine.execReservationGrant n s
  | .gridCountDecrement n => Sys2Proof.Machine.execGridCountDecrement n s
  | .gridComplete grid => Sys2Proof.Machine.execGridComplete grid s
  | .claimServed core team => Sys2Proof.Machine.execClaimServed core team s
  | .releaseComplete core team => Sys2Proof.Machine.execReleaseComplete core team s
  | .teamDeadlock core team => Sys2Proof.Machine.execTeamDeadlock core team s
  | .treeRelease part tag => Sys2Proof.Machine.execTreeRelease part tag s
  | .dictionaryLoad core vf handle => Sys2Proof.Machine.execDictionaryLoad core vf handle s
  | .remoteRequestSend req => Sys2Proof.Machine.execRemoteRequestSend req s
  | .perform req => Sys2Proof.Machine.execPerform req s
  | .tableWalk core vf va => Sys2Proof.Machine.execTableWalk core vf va s
  | .requestResponse req => Sys2Proof.Machine.execRequestResponse req s
  | .roSectorFill n => Sys2Proof.Machine.execRoSectorFill n s
  | .mcstForward req die => Sys2Proof.Machine.execMcstForward req die s
  | .flushMarkerAck core ctx n => Sys2Proof.Machine.execFlushMarkerAck core ctx n s
  | .copyElement core op elem => Sys2Proof.Machine.execCopyElement core op elem s
  | .gatherRow core op row => Sys2Proof.Machine.execGatherRow core op row s
  | .copyComplete core op => Sys2Proof.Machine.execCopyComplete core op s
  | .spillComplete core op => Sys2Proof.Machine.execSpillComplete core op s
  | .matrixOpStart core => Sys2Proof.Machine.execMatrixOpStart core s
  | .matrixOpComplete core => Sys2Proof.Machine.execMatrixOpComplete core s
  | .engineReset core => Sys2Proof.Machine.execEngineReset core s
  | .crdNextComplete core slot => Sys2Proof.Machine.execCrdNextComplete core slot s
  | .crdSplitComplete core slot => Sys2Proof.Machine.execCrdSplitComplete core slot s
  | .unitPark issue key => Sys2Proof.Machine.execUnitPark issue key s
  | .faultQueueRetry n => Sys2Proof.Machine.execFaultQueueRetry n s
  | .replay vf seq => Sys2Proof.Machine.execReplay vf seq s
  | .kill vf seq => Sys2Proof.Machine.execKill vf seq s
  | .slotEnd part => Sys2Proof.Machine.execSlotEnd part s
  | .forcedHalt part => Sys2Proof.Machine.execForcedHalt part s
  | .lazyEviction core u => Sys2Proof.Machine.execLazyEviction core u s
  | .teamRestore core team => Sys2Proof.Machine.execTeamRestore core team s
  | .freeThreadRestore core ctx => Sys2Proof.Machine.execFreeThreadRestore core ctx s
  | .calendarRun part v => Sys2Proof.Machine.execCalendarRun part v s
  | .calendarStop part v => Sys2Proof.Machine.execCalendarStop part v s
  | .calslotWrite part slot v => Sys2Proof.Machine.execCalslotWrite part slot v s
  | .vfReset vf => Sys2Proof.Machine.execVfReset vf s
  | .vfResetComplete vf => Sys2Proof.Machine.execVfResetComplete vf s
  | .doorbellAppend vf chain v => Sys2Proof.Machine.execDoorbellAppend vf chain v s
  | .unsupportedRequest vf off size write => Sys2Proof.Machine.execUnsupportedRequest vf off size write s
  | .blockStart vf chain => Sys2Proof.Machine.execBlockStart vf chain s
  | .chainAdvance vf chain => Sys2Proof.Machine.execChainAdvance vf chain s
  | .kernelRegister vf => Sys2Proof.Machine.execKernelRegister vf s
  | .kernelUnregister vf handle => Sys2Proof.Machine.execKernelUnregister vf handle s
  | .regionTableLoad vf => Sys2Proof.Machine.execRegionTableLoad vf s
  | .keyGenerate vf => Sys2Proof.Machine.execKeyGenerate vf s
  | .keyDestroy vf => Sys2Proof.Machine.execKeyDestroy vf s
  | .pcinv vf => Sys2Proof.Machine.execPcinv vf s
  | .ownerWrite core frame v => Sys2Proof.Machine.execOwnerWrite core frame v s
  | .frameScrub core frame v => Sys2Proof.Machine.execFrameScrub core frame v s
  | .scrubComplete core frame => Sys2Proof.Machine.execScrubComplete core frame s
  | .winpageAdd win v => Sys2Proof.Machine.execWinpageAdd win v s
  | .winpageClear win => Sys2Proof.Machine.execWinpageClear win s
  | .windowOpen win v => Sys2Proof.Machine.execWindowOpen win v s
  | .windowCloseRekey win v => Sys2Proof.Machine.execWindowCloseRekey win v s
  | .windowCloseDestroy win v => Sys2Proof.Machine.execWindowCloseDestroy win v s
  | .rekeyComplete win => Sys2Proof.Machine.execRekeyComplete win s
  | .octmapWrite j v => Sys2Proof.Machine.execOctmapWrite j v s
  | .partcfgWrite part v => Sys2Proof.Machine.execPartcfgWrite part v s
  | .ethcfgWrite port v => Sys2Proof.Machine.execEthcfgWrite port v s
  | .privilegedRegisterWrite sel num v => Sys2Proof.Machine.execPrivilegedRegisterWrite sel num v s
  | .cxlMemRead addr n => Sys2Proof.Machine.execCxlMemRead addr n s
  | .cxlMemWrite addr data => Sys2Proof.Machine.execCxlMemWrite addr data s
  | .cxlCacheSnoop addr => Sys2Proof.Machine.execCxlCacheSnoop addr s
  | .attestationRequest nonce => Sys2Proof.Machine.execAttestationRequest nonce s
  | .powerOn => Sys2Proof.Machine.execPowerOn s
  | .dieResetRelease => Sys2Proof.Machine.execDieResetRelease s
  | .firmwareImageLoad die image sig => Sys2Proof.Machine.execFirmwareImageLoad die image sig s
  | .powerInterval watts => Sys2Proof.Machine.execPowerInterval watts s
  | .thermalThrottle temp => Sys2Proof.Machine.execThermalThrottle temp s
  | .thermalStop temp => Sys2Proof.Machine.execThermalStop temp s
  | .thermalResume temp => Sys2Proof.Machine.execThermalResume temp s
  | .firmwareWake core ctx => Sys2Proof.Machine.execFirmwareWake core ctx s
  | .errorDetected core u loc outcome syndrome => Sys2Proof.Machine.execErrorDetected core u loc outcome syndrome s
  | .selfTestTrial n reproduced => Sys2Proof.Machine.execSelfTestTrial n reproduced s
  | .linkRetry link ok => Sys2Proof.Machine.execLinkRetry link ok s
  | .packetReceive port p => Sys2Proof.Machine.execPacketReceive port p s
  | .packetAck port n => Sys2Proof.Machine.execPacketAck port n s
  | .retransmit port n => Sys2Proof.Machine.execRetransmit port n s
  | .lowmaxService port cls => Sys2Proof.Machine.execLowmaxService port cls s

end Sys2Proof.Machine
end

