-- ==== Sys2Proof/Machine/Step.lean ====
section
/-! DEFINITION. One step of the machine: the next lane set being issued is fetched, decoded and executed; with none left, the next event
of the cycle's agenda comes; with none left, a new cycle begins (log 1). -/

namespace Sys2Proof.Machine

/-- One step. -/
def step (s : State) : Host.Outcome State Fault Refusal :=
  let s := s.ticked
  match s.issues, s.events with
  | iss :: rest, _ =>
    match s.fetch iss with
    | .error e => .next (s.decodeFails iss rest e)
    | .ok r => exec r.1 { s with issues := { iss with len := r.2 } :: rest }
  | [], e :: rest => exec e { s with events := rest }
  | [], [] => .next s.newCycle

/-- The state with an instruction placed where `step` fetches next: six parcels with the table's bits, zeros above them, as the code
of a kernel that a thread is about to execute (log 90). -/
def State.withFetchWord (s : State) (_nbits w : Nat) : State := s.withKernel (parcelsOf (natBytes 12 w))

end Sys2Proof.Machine
end

