-- ==== Sys2Proof/Safety.lean ====
section
/-! DEFINITION. What counts as a safe run, and the vocabulary of the claims: the issue that an instruction executes, the lanes that may
execute it, and what an issue may change. -/

namespace Sys2Proof.Safety

open Sys2Proof.Machine

/-! ## Safe runs -/

/-- Device memory and host memory are in canonical form. -/
def MemInv (s : State) : Prop := Memory.wf s.mem = true ∧ Memory.wf s.hostMem = true

/-- A step from the state answers a next state. -/
def Goes (s : State) : Prop := ∃ t, step s = .next t

/-- Every step of the next n answers a next state, and each of these states keeps the memories canonical. -/
def SafeFor : Nat → State → Prop
  | 0, s => MemInv s
  | n + 1, s => MemInv s ∧ ∃ t, step s = .next t ∧ SafeFor n t

/-! ## The issue that executes (01 R34, 10 R246) -/

/-- The state with the issues that remain. -/
def left (s : State) (rest : List Issue) : State := { s with issues := rest }

/-- The lanes of an issue, as the instruction sees them. -/
def lanesOf (s : State) (iss : Issue) (rest : List Issue) (h : Hdr) : List Lane :=
  iss.lanes.map ((left s rest).laneOf iss h.hints)

/-- The lanes of an issue: of one group in rising lane order, or free threads. -/
def Together (ls : List Lane) : Prop :=
  (∃ g, ∀ l ∈ ls, l.t.group.map Prod.fst = some g) ∧ ls.Pairwise (fun a b => a.lane < b.lane) ∨
    (∀ l ∈ ls, l.t.group = none) ∧ ls.Pairwise (fun a b => a.ctx ≠ b.ctx)

/-- The first issue executes the instruction: its lanes stand together, and none fails a check of 08 R190, R191 or R188. -/
structure AtIssue (s : State) (i : Instr) (h : Hdr) (iss : Issue) (rest : List Issue) : Prop where
  head : s.issues = iss :: rest
  together : Together (lanesOf s iss rest h)
  decodes : ∀ l ∈ lanesOf s iss rest h, (left s rest).decodeTrap i l = none

/-- A lane may read references (02 R67, 04 R103, 20 R433): none EMPTY, poisoned, or the token of an engine. -/
def Readable (s : State) (l : Lane) (rs : List WRef) : Prop :=
  ∀ r ∈ rs, s.isEmpty l.core l.t r = false ∧ (s.word l.core l.t r).poison = false ∧ (s.word l.core l.t r).token = none

/-- A lane may write references (02 R67): all FULL. -/
def Writable (s : State) (l : Lane) (rs : List WRef) : Prop := ∀ r ∈ rs, s.isFull l.core l.t r = true

/-- Every active lane (08 R175, 09 R194) may read the sources and write the destinations. -/
def Able (s : State) (iss : Issue) (rest : List Issue) (h : Hdr) (rd wr : List WRef) : Prop :=
  ∀ l ∈ activeLanes h (lanesOf s iss rest h), Readable (left s rest) l rd ∧ Writable (left s rest) l wr

/-- The state after the units of an issue: lanes that are not active pass, active ones complete with their writes. -/
def writeUnits (h : Hdr) (ws : Lane → List (WRef × Word)) (pc : Lane → Option Word) (us : List (List Lane)) (s : State) : State :=
  us.foldl (fun s ls => (activeLanes h ls).foldl (fun s l => s.complete l (ws l) (pc l)) (ls.foldl (State.passLane h) s)) s

/-- The state after the first issue, whose active lanes write and go on (09 R197). -/
def written (s : State) (iss : Issue) (rest : List Issue) (h : Hdr) (ws : Lane → List (WRef × Word)) (pc : Lane → Option Word) :
    State :=
  writeUnits h ws pc (unitsOf (lanesOf s iss rest h)) (left s rest)

/-- The lanes of an issue are one fault unit (10 R246): of one group, or a free thread alone. -/
def OneUnit (ls : List Lane) : Prop :=
  (∃ g, ∀ l ∈ ls, l.t.group.map Prod.fst = some g) ∨ ∃ l, ls = [l] ∧ l.t.group = none

/-- The lanes of the first issue that are active. -/
def active (s : State) (iss : Issue) (rest : List Issue) (h : Hdr) : List Lane := activeLanes h (lanesOf s iss rest h)

/-- The state in which the lanes of the first issue that are not active have passed the instruction, or wait for its guard. -/
def passed (s : State) (iss : Issue) (rest : List Issue) (h : Hdr) : State :=
  (lanesOf s iss rest h).foldl (State.passLane h) (left s rest)

/-- The state in which the active lanes of the first issue have acted besides, one after another. -/
def acted (s : State) (iss : Issue) (rest : List Issue) (h : Hdr) (act : Lane → State → State) : State :=
  (active s iss rest h).foldl (fun s l => act l s) (passed s iss rest h)

/-- The first issue is a released set of one group (01 R12, 11 R254) that executes: no released set of its group waits before it, no
guard is EMPTY, and some lane is active. -/
structure Released (s : State) (i : Instr) (h : Hdr) (iss : Issue) (rest : List Issue) : Prop where
  head : s.issues = iss :: rest
  released : iss.released = true
  group : ∃ g, (∀ l ∈ lanesOf s iss rest h, l.t.group.map Prod.fst = some g) ∧ (s.group iss.core g).pend = []
  order : (lanesOf s iss rest h).Pairwise fun a b => a.lane < b.lane
  decodes : ∀ l ∈ lanesOf s iss rest h, (left s rest).decodeTrap i l = none
  guards : ∀ l ∈ lanesOf s iss rest h, guardEmpty h l.t = false
  some : active s iss rest h ≠ []

/-! ## What an issue may change -/

/-- `t` is `s` but for the issues left and, at the issue's core, PC, readiness and the destinations `dst` of its lanes: lane
registers and predicates of the lanes, uniform registers of the lanes' group. A write to a lane register may release latch A (04 R115);
what the core keeps for the instruction that a lane stands at (10 R248, 12 R283, R288) goes with it. -/
structure LaneFrame (s t : State) (iss : Issue) (dst : List WRef) : Prop where
  rest : t = { s with issues := t.issues, cores := t.cores }
  mem : ∀ a, Mem.get t.mem a = Mem.get s.mem a
  hostMem : ∀ a, Mem.get t.hostMem a = Mem.get s.hostMem a
  cores : ∀ c, c ≠ iss.core → t.core c = s.core c
  core : t.core iss.core =
    { s.core iss.core with
      ctxs := (t.core iss.core).ctxs
      groups := (t.core iss.core).groups
      latchA := (t.core iss.core).latchA }
  latch : (t.core iss.core).latchA = (s.core iss.core).latchA ∨ (t.core iss.core).latchA = none
  others : ∀ x, x ∉ iss.lanes → t.thread iss.core x = s.thread iss.core x
  lanes : ∀ x, t.thread iss.core x =
    { s.thread iss.core x with
      pc := (t.thread iss.core x).pc
      st := (t.thread iss.core x).st
      stamp := (t.thread iss.core x).stamp
      snap := (t.thread iss.core x).snap
      read := (t.thread iss.core x).read
      readDenied := (t.thread iss.core x).readDenied
      regs := (t.thread iss.core x).regs
      preds := (t.thread iss.core x).preds
      pempty := (t.thread iss.core x).pempty }
  regs : ∀ x n, WRef.g n ∉ dst → (t.thread iss.core x).reg n = (s.thread iss.core x).reg n
  preds : ∀ x n, n < 16 → WRef.p n ∉ dst →
    (t.thread iss.core x).pred n = (s.thread iss.core x).pred n ∧
      (t.thread iss.core x).predEmpty n = (s.thread iss.core x).predEmpty n
  groups : ∀ g, t.group iss.core g = { s.group iss.core g with sregs := (t.group iss.core g).sregs }
  sregs : ∀ g n, (WRef.s n ∉ dst ∨ ∀ x ∈ iss.lanes, (s.thread iss.core x).group.map Prod.fst ≠ some g) →
    (t.group iss.core g).sreg n = (s.group iss.core g).sreg n

end Sys2Proof.Safety
end

