-- ==== Sys2Proof/Certificates/Slice0/Obligations.lean ====
section
/-! DEFINITION. The statements for the provers. The vocabulary of a statement stands before it; `Sys2Proof.Safety` holds what they share. -/

namespace Sys2Proof.Claims

open Sys2Proof.Machine Sys2Proof.Safety

/-! ## Integers (06 R138, R139, 09 R195, R199 to R206) -/

/-- The width of an integer or raw type (06 R138). -/
def width : Ty → Nat
  | .i8 | .n8 => 8
  | .i16 | .n16 => 16
  | .i32 | .n32 | .b32 => 32
  | _ => 64

/-- The signed types. -/
def signed : Ty → Bool
  | .i8 | .i16 | .i32 | .i64 => true
  | _ => false

/-- A source read under 06 R138: the low n bits, two's complement for i types. -/
def value (t : Ty) (v : DWord) : Int :=
  if signed t then (v.setWidth (width t)).toInt else (v.setWidth (width t)).toNat

/-- A result written under 06 R138: modulo 2^n, sign-extended for i types. -/
def result (t : Ty) (x : Int) : DWord :=
  if signed t then (BitVec.ofInt (width t) x).signExtend 64 else (BitVec.ofInt (width t) x).setWidth 64

/-- The least and greatest value of a type. -/
def least (t : Ty) : Int := if signed t then -(2 ^ (width t - 1)) else 0
/-- The greatest value of a type. -/
def greatest (t : Ty) : Int := if signed t then 2 ^ (width t - 1) - 1 else 2 ^ width t - 1

/-- The immediate of an XI form (08 R179). -/
def immediate (t : Ty) (i : Word) : DWord :=
  match t with
  | .i64 | .b64 => i.signExtend 64
  | _ => i.setWidth 64

/-- The two-source rows of the table of 09 R199. -/
inductive IntBin : (Hdr → Ty → Reg → Src → Src → Instr) → (Ty → DWord → DWord → DWord) → Prop
  | add : IntBin .add fun t a b => result t (value t a + value t b)
  | sub : IntBin .sub fun t a b => result t (value t a - value t b)
  | mulLo : IntBin .mulLo fun t a b => result t (value t a * value t b)
  | mulHi : IntBin .mulHi fun t a b => result t (value t a * value t b / 2 ^ width t)
  | min : IntBin .min fun t a b => result t (min (value t a) (value t b))
  | max : IntBin .max fun t a b => result t (max (value t a) (value t b))
  | saddSat : IntBin .saddSat fun t a b => result t (max (least t) (min (greatest t) (value t a + value t b)))
  | ssubSat : IntBin .ssubSat fun t a b => result t (max (least t) (min (greatest t) (value t a - value t b)))
  | and : IntBin .and fun _ a b => a &&& b
  | or : IntBin .or fun _ a b => a ||| b
  | xor : IntBin .xor fun _ a b => a ^^^ b
  | andn : IntBin .andn fun _ a b => a &&& ~~~b
  | mulWide : IntBin .mulWide fun t a b => result (if t = .i32 then .i64 else .n64) (value t a * value t b)

/-- The rows with an XI opcode (09 R199, R206): the register form with b the immediate. -/
inductive IntImm : (Hdr → Ty → Reg → Src → Word → Instr) → (Ty → DWord → DWord → DWord) → Prop
  | addXi : IntImm .addXi fun t a b => result t (value t a + value t b)
  | subXi : IntImm .subXi fun t a b => result t (value t a - value t b)
  | mulLoXi : IntImm .mulLoXi fun t a b => result t (value t a * value t b)
  | minXi : IntImm .minXi fun t a b => result t (min (value t a) (value t b))
  | maxXi : IntImm .maxXi fun t a b => result t (max (value t a) (value t b))
  | andXi : IntImm .andXi fun _ a b => a &&& b
  | orXi : IntImm .orXi fun _ a b => a ||| b
  | xorXi : IntImm .xorXi fun _ a b => a ^^^ b

/-- The one-source rows. -/
inductive IntUn : (Hdr → Ty → Reg → Src → Instr) → (Ty → DWord → DWord) → Prop
  | abs : IntUn .abs fun t a => result t ((value t a).natAbs : Int)
  | neg : IntUn .neg fun t a => result t (-value t a)
  | not : IntUn .not fun _ a => ~~~a

/-- The three-source rows. -/
inductive IntTern : (Hdr → Ty → Reg → Src → Src → Src → Instr) → (Ty → DWord → DWord → DWord → DWord) → Prop
  | iadd3 : IntTern .iadd3 fun t a b c => result t (value t a + value t b + value t c)
  | madLo : IntTern .madLo fun t a b c => result t (value t a * value t b + value t c)
  | madHi : IntTern .madHi fun t a b c => result t (value t a * value t b / 2 ^ width t + value t c)
  | madWide : IntTern .madWide fun t a b c =>
      result (if t = .i32 then .i64 else .n64) (value t a * value t b + value (if t = .i32 then .i64 else .n64) c)

/-- An instruction completes where its active lanes may read and write: each writes `ws` and goes on, at `pc` or at the next
instruction. The functions see the lane and the state in which the issue executes. -/
def Completes (i : Instr) (h : Hdr) (rd wr : List WRef) (ws : State → Lane → List (WRef × Word))
    (pc : State → Lane → Option Word := fun _ _ => none) : Prop :=
  ∀ s iss rest, WellFormed i = true → AtIssue s i h iss rest → Able s iss rest h rd wr →
    exec i s = .next (written s iss rest h (ws (left s rest)) (pc (left s rest)))

/-- A one-source instruction completes: every active lane writes its result to D. -/
def Completes1 (i : Instr) (h : Hdr) (d : Reg) (a : Src) (f : DWord → DWord) : Prop :=
  Completes i h (Src.refs a) (Reg.refs d) fun s l => destWrites d (f (s.srcVal l a))

/-- A two-source instruction completes. -/
def Completes2 (i : Instr) (h : Hdr) (d : Reg) (a b : Src) (f : DWord → DWord → DWord) : Prop :=
  Completes i h (Src.refs a ++ Src.refs b) (Reg.refs d) fun s l => destWrites d (f (s.srcVal l a) (s.srcVal l b))

/-- A three-source instruction completes. -/
def Completes3 (i : Instr) (h : Hdr) (d : Reg) (a b c : Src) (f : DWord → DWord → DWord → DWord) : Prop :=
  Completes i h (Src.refs a ++ Src.refs b ++ Src.refs c) (Reg.refs d) fun s l =>
    destWrites d (f (s.srcVal l a) (s.srcVal l b) (s.srcVal l c))

/-- A count operand: one word, unsigned (09 R195). -/
def count (v : DWord) : Nat := (v.setWidth 32).toNat

/-- The predicate's value as a number (09 R200). -/
def carryIn (l : Lane) (p : PReg) : Int := if l.t.pred p.toNat then 1 else 0

/-- The quotient of 09 R201. -/
def quotient (t : Ty) (a b : Int) : Int :=
  if b = 0 then 2 ^ width t - 1 else if signed t = true ∧ a = -(2 ^ (width t - 1)) ∧ b = -1 then a else a.tdiv b

/-- The remainder of 09 R201. -/
def remainder (t : Ty) (a b : Int) : Int :=
  if b = 0 then a else if signed t = true ∧ a = -(2 ^ (width t - 1)) ∧ b = -1 then 0 else a - a.tdiv b * b

/-- The shifts and rotates of 09 R202. -/
inductive Shift : (Hdr → Ty → Reg → Src → Src → Instr) → (Ty → DWord → DWord → DWord) → Prop
  | shl : Shift .shl fun t a s =>
      if count s ≥ width t then 0 else ((a.setWidth (width t)).toNat * 2 ^ count s % 2 ^ width t : Nat)
  | shr : Shift .shr fun t a s => if count s ≥ width t then 0 else ((a.setWidth (width t)).toNat / 2 ^ count s : Nat)
  | sar : Shift .sar fun t a s => result t (value t a / 2 ^ min (count s) (width t - 1))
  | rol : Shift .rol fun t a s => ((a.setWidth (width t)).rotateLeft (count s % width t)).setWidth 64
  | ror : Shift .ror fun t a s => ((a.setWidth (width t)).rotateRight (count s % width t)).setWidth 64

/-- A number of its lowest n bits. -/
def ofBits (n : Nat) (b : Nat → Bool) : Nat := ((List.range n).map fun k => if b k then 2 ^ k else 0).sum

/-- Bit i of a source of a type, as 09 R203 reads it for `bfe`. -/
def bitAt (t : Ty) (a : DWord) (i : Nat) : Bool :=
  if i < width t then a.getLsbD i else signed t && a.getLsbD (width t - 1)

/-- The position of a field operand (09 R203). -/
def fieldPos (f : DWord) : Nat := f.toNat % 256
/-- The length of a field operand (09 R203). -/
def fieldLen (f : DWord) : Nat := f.toNat / 256 % 256

/-- `bfe` of 09 R203. -/
def extracted (t : Ty) (a f : DWord) : DWord :=
  result t (if fieldLen f = 0 then 0 else
    ofBits (width t) fun k =>
      if k < fieldLen f then bitAt t a (fieldPos f + k)
      else signed t && bitAt t a (fieldPos f + (min (fieldLen f) (width t) - 1)))

/-- `bfi` of 09 R203. -/
def inserted (t : Ty) (a b f : DWord) : DWord :=
  (ofBits (width t) fun k =>
    if fieldPos f ≤ k ∧ k < fieldPos f + fieldLen f then b.getLsbD (k - fieldPos f) else a.getLsbD k : Nat)

/-- The one-source rows of 09 R203. -/
inductive BitUn : (Hdr → Ty → Reg → Src → Instr) → (Ty → DWord → DWord) → Prop
  | bfrev : BitUn .bfrev fun t a => (ofBits (width t) fun k => a.getLsbD (width t - 1 - k) : Nat)
  | popc : BitUn .popc fun t a => (((List.range (width t)).filter fun k => a.getLsbD k).length : Nat)
  | clz : BitUn .clz fun t a => ((((List.range (width t)).map fun k => width t - 1 - k).takeWhile fun k => !a.getLsbD k).length : Nat)
  | ctz : BitUn .ctz fun t a => (((List.range (width t)).takeWhile fun k => !a.getLsbD k).length : Nat)

/-! ## Floating point (chapter 06, 09 R207 to R211) -/

/-- The magnitude of a code of a format, its sign bit aside. -/
def magnitude (f : FForm) (c : Nat) : ℚ :=
  match f.decode c with
  | .fin _ m e => m * 2 ^ e
  | _ => 0

/-- The magnitude that Round of 06 R145 chooses for a magnitude a, before overflow. -/
def chosen {K : Type} [Field K] [LinearOrder K] [IsStrictOrderedRing K] [FloorRing K] (f : FForm) (m : Rnd) (neg : Bool) (a : K) : K :=
  let q : K := 2 ^ (max (Int.log 2 a) (1 - f.bias) - f.frac)
  let lo := ⌊a / q⌋ * q
  let hi := lo + q
  if a = lo then lo
  else
    match m with
    | .rn => if a - lo < hi - a then lo else if hi - a < a - lo then hi else if ⌊a / q⌋ % 2 = 0 then lo else hi
    | .rz => lo
    | .rd => if neg then hi else lo
    | .ru => if neg then lo else hi

/-- Round of the exact value, without `.sat`. -/
def rounded (f : FForm) (m : Rnd) (v : FVal) : Nat := v.round f false m

/-- Two-source instructions on the codes of .f32, or of each half (09 R207, R208). -/
inductive FloatBin : (Hdr → Ty → Rnd → Reg → Src → Src → Instr) → (FForm → Rnd → Nat → Nat → Nat) → Prop
  | fadd : FloatBin .fadd fun f m a b => rounded f m (fsum m [f.decode a, f.decode b])
  | fmul : FloatBin .fmul fun f m a b => rounded f m ((f.decode a).mul (f.decode b))

/-- A code of a format is a NaN (06 R135): its exponent field is all ones and its fraction nonzero, or 7 in E4M3. -/
def nanOf (f : FForm) (c : Nat) : Bool :=
  if f = .e4m3 then c % 128 = 127 else c % 2 ^ f.signPos > 2 ^ f.signPos - 2 ^ f.frac

/-- The place of a code that is no NaN in the order of 06 R149, where −0 is less than +0. -/
def orderOf (f : FForm) (c : Nat) : Int := if c.testBit f.signPos then -1 - (c % 2 ^ f.signPos : Nat) else c

/-- The greater of two codes, or the lesser, by the table of 06 R149: propagating, or number-preferring. -/
def extreme (f : FForm) (greater prefer : Bool) (a b : Nat) : Nat :=
  match nanOf f a, nanOf f b with
  | true, true => f.nanCode
  | true, false => if prefer then b else f.nanCode
  | false, true => if prefer then a else f.nanCode
  | false, false => if greater = decide (orderOf f a < orderOf f b) then b else a

/-- The minima and maxima of 06 R149. -/
inductive FloatMin : (Hdr → Ty → Reg → Src → Src → Instr) → (FForm → Nat → Nat → Nat) → Prop
  | fmin : FloatMin .fmin fun f a b => extreme f false false a b
  | fmax : FloatMin .fmax fun f a b => extreme f true false a b
  | fminn : FloatMin .fminn fun f a b => extreme f false true a b
  | fmaxn : FloatMin .fmaxn fun f a b => extreme f true true a b

/-- The XI forms with a rounding code (09 R206). -/
inductive FloatBinXi : (Hdr → Ty → Rnd → Reg → Src → Word → Instr) → (FForm → Rnd → Nat → Nat → Nat) → Prop
  | faddXi : FloatBinXi .faddXi fun f m a b => rounded f m (fsum m [f.decode a, f.decode b])
  | fmulXi : FloatBinXi .fmulXi fun f m a b => rounded f m ((f.decode a).mul (f.decode b))

/-- The XI forms without one. -/
inductive FloatMinXi : (Hdr → Ty → Reg → Src → Word → Instr) → (FForm → Nat → Nat → Nat) → Prop
  | fminXi : FloatMinXi .fminXi fun f a b => extreme f false false a b
  | fmaxXi : FloatMinXi .fmaxXi fun f a b => extreme f true false a b

/-- The special functions and `fsqrt` on F32 words (06 R150, R152, R153). -/
inductive FloatUn : (Hdr → Rnd → Reg → Src → Instr) → (Rnd → Word → Word) → Prop
  | fsqrt : FloatUn .fsqrt fun m x => BitVec.ofNat 32 (fsqrtRound .f32 m (f32v x))
  | frcp : FloatUn .frcp fun _ x => sfRcp x
  | frsq : FloatUn .frsq fun _ x => sfRsq x
  | fex2 : FloatUn .fex2 fun _ x => sfEx2 x
  | flg2 : FloatUn .flg2 fun _ x => sfLg2 x
  | fsin : FloatUn .fsin fun _ x => sfSin x
  | fcos : FloatUn .fcos fun _ x => sfCos x
  | ftanh : FloatUn .ftanh fun _ x => sfTanh x

/-- An F32 word is a NaN (06 R135). -/
def isNaN (w : Word) : Bool := w.toNat % 2 ^ 31 > 0x7F800000
/-- An F32 word is an infinity. -/
def isInf (w : Word) : Bool := w.toNat % 2 ^ 31 = 0x7F800000
/-- An F32 word is a zero. -/
def isZero (w : Word) : Bool := w.toNat % 2 ^ 31 = 0
/-- A word with a sign. -/
def withSign (neg : Bool) (w : Word) : Word := if neg then w ||| 0x80000000 else w
/-- The magnitude of a finite F32 word. -/
def sizeOf (w : Word) : ℚ := magnitude .f32 (w.toNat % 2 ^ 31)
/-- The value of a finite F32 word. -/
def valueOf (w : Word) : ℚ := if w.msb then -sizeOf w else sizeOf w

/-- A word is Round of a nonzero real of a magnitude under a mode (06 R145). -/
def Rounds (m : Rnd) (neg : Bool) (v : ℝ) (r : Word) : Prop :=
  if ((magnitude .f32 0x7F7FFFFF : ℚ) : ℝ) < chosen .f32 m neg v then r = BitVec.ofNat 32 (FForm.f32.overflow false m neg)
  else ((sizeOf r : ℚ) : ℝ) = chosen .f32 m neg v ∧ r.toNat % 2 ^ 31 ≤ 0x7F7FFFFF ∧ r.msb = neg

/-- `fdiv` (06 R150): IEEE 754 for NaN, infinities and zeros; else the exact quotient rounded once. -/
def Divides (m : Rnd) (x y r : Word) : Prop :=
  let neg := x.msb != y.msb
  if isNaN x ∨ isNaN y ∨ (isInf x ∧ isInf y) ∨ (isZero x ∧ isZero y) then r = 0x7FC00000
  else if isInf x ∨ isZero y then r = withSign neg 0x7F800000
  else if isZero x ∨ isInf y then r = withSign neg 0
  else Rounds m neg ((sizeOf x / sizeOf y : ℚ) : ℝ) r

/-- `fsqrt` (06 R150): the exact root rounded once. -/
def Roots (m : Rnd) (x r : Word) : Prop :=
  if isZero x then r = x
  else if isNaN x ∨ x.msb then r = 0x7FC00000
  else if isInf x then r = x
  else Rounds m false (Real.sqrt ((sizeOf x : ℚ) : ℝ)) r

/-- `frcp` (06 R152, R153): 1/x rounded to nearest. -/
def Reciprocal (x r : Word) : Prop :=
  if isNaN x then r = 0x7FC00000
  else if isZero x then r = withSign x.msb 0x7F800000
  else if isInf x then r = withSign x.msb 0
  else Rounds .rn x.msb ((1 / sizeOf x : ℚ) : ℝ) r

/-- `frsq` (06 R152, R153): 1/√x rounded to nearest. -/
def ReciprocalRoot (x r : Word) : Prop :=
  if isZero x then r = withSign x.msb 0x7F800000
  else if isNaN x ∨ x.msb then r = 0x7FC00000
  else if isInf x then r = 0
  else Rounds .rn false (1 / Real.sqrt ((sizeOf x : ℚ) : ℝ)) r

/-- −1 to the power of an integer, as an F32 word. -/
def alternating (n : Int) : Word := withSign (n % 2 = 1) 0x3F800000

/-- The exact values that 06 R153 gives `fex2`. -/
def PowerOfTwo (x r : Word) : Prop :=
  (isNaN x → r = 0x7FC00000) ∧ (isInf x → r = if x.msb then 0 else 0x7F800000) ∧
  (x.toNat < 0x7F800000 → 128 ≤ valueOf x → r = 0x7F800000) ∧
  ∀ n : Int, -149 ≤ n → n ≤ 127 → x.toNat % 2 ^ 31 < 0x7F800000 → valueOf x = n → valueOf r = 2 ^ n ∧ r.toNat < 0x7F800000

/-- The exact values that 06 R153 gives `flg2`. -/
def Logarithm (x r : Word) : Prop :=
  (isNaN x → r = 0x7FC00000) ∧ (isZero x → r = 0xFF800000) ∧ (isInf x → x.msb = false → r = 0x7F800000) ∧
  (isZero x = false → x.msb = true → r = 0x7FC00000) ∧
  ∀ n : Int, -149 ≤ n → n ≤ 127 → x.toNat < 0x7F800000 → valueOf x = 2 ^ n →
    valueOf r = n ∧ r.toNat % 2 ^ 31 < 0x7F800000 ∧ (n = 0 → r = 0)

/-- The exact values that 06 R153 gives `fsin`. -/
def Sine (x r : Word) : Prop :=
  (isNaN x ∨ isInf x → r = 0x7FC00000) ∧
  ∀ n : Int, x.toNat % 2 ^ 31 < 0x7F800000 →
    (valueOf x = n → r = withSign x.msb 0) ∧ (valueOf x = n + 1 / 2 → r = alternating n)

/-- The exact values that 06 R153 gives `fcos`. -/
def Cosine (x r : Word) : Prop :=
  (isNaN x ∨ isInf x → r = 0x7FC00000) ∧
  ∀ n : Int, x.toNat % 2 ^ 31 < 0x7F800000 → (valueOf x = n → r = alternating n) ∧ (valueOf x = n + 1 / 2 → r = 0)

/-- The exact values that 06 R153 gives `ftanh`. -/
def Tangent (x r : Word) : Prop :=
  (isNaN x → r = 0x7FC00000) ∧ (isZero x → r = x) ∧ (isInf x → r = withSign x.msb 0x3F800000)

/-- The values of the special functions and `fsqrt` (06 R150, R152, R153). -/
inductive FloatValue : (Hdr → Rnd → Reg → Src → Instr) → (Rnd → Word → Word → Prop) → Prop
  | fsqrt : FloatValue .fsqrt fun m x r => Roots m x r
  | frcp : FloatValue .frcp fun _ x r => Reciprocal x r
  | frsq : FloatValue .frsq fun _ x r => ReciprocalRoot x r
  | fex2 : FloatValue .fex2 fun _ x r => PowerOfTwo x r
  | flg2 : FloatValue .flg2 fun _ x r => Logarithm x r
  | fsin : FloatValue .fsin fun _ x r => Sine x r
  | fcos : FloatValue .fcos fun _ x r => Cosine x r
  | ftanh : FloatValue .ftanh fun _ x r => Tangent x r

/-- A function of codes on a word of type .f32, or on the halves of a packed one. -/
def onHalves (t : Ty) (g : Nat → Nat → Nat → Nat) (a b c : DWord) : DWord :=
  let a := count a; let b := count b; let c := count c
  if t = .f32 then (g a b c % 2 ^ 32 : Nat)
  else ((g (a / 65536) (b / 65536) (c / 65536) * 65536 + g (a % 65536) (b % 65536) (c % 65536)) % 2 ^ 32 : Nat)

/-- A function on words. -/
def onWord (g : Word → Word) (a : DWord) : DWord := (g (a.setWidth 32)).setWidth 64
/-- A function on two words. -/
def onWord2 (g : Word → Word → Word) (a b : DWord) : DWord := (g (a.setWidth 32) (b.setWidth 32)).setWidth 64
/-- A function on three words. -/
def onWord3 (g : Word → Word → Word → Word) (a b c : DWord) : DWord :=
  (g (a.setWidth 32) (b.setWidth 32) (c.setWidth 32)).setWidth 64

/-- The sign bits of a type of 09 R207 in a word. -/
def signMask (t : Ty) : Word := if t = .f32 then 0x80000000 else 0x80008000

/-! ## Conversion (09 R212 to R217) -/

/-- The bits of a type that `cvt` reads. -/
def cvtBits : Ty → Nat
  | .f16 | .bf16 => 16
  | .e4m3 | .e5m2 => 8
  | t => if t = .f32 then 32 else width t

/-- An integer brought into the range of a type. -/
def clamped (t : Ty) (x : Int) : Int := max (least t) (min (greatest t) x)

/-- A value rounded to an integer of a type (06 R148). -/
def toInteger (t : Ty) (m : Rnd) : FVal → Int
  | .nan => 0
  | .inf neg => if neg then least t else greatest t
  | .fin neg a e => clamped t (roundInt m neg a e)

/-- `cvt` of 09 R212, row by row. -/
def converted (t u : Ty) (m : Rnd) (sat : Bool) (v : DWord) : DWord :=
  let x := (fformOf u).decode (v.toNat % 2 ^ cvtBits u)
  match u.isInt, t.isInt with
  | true, true => result t (if sat then clamped t (value u v) else value u v)
  | true, false => (rounded (fformOf t) m (FVal.ofInt (value u v)) : Nat)
  | false, true => result t (toInteger t m x)
  | false, false => (x.round (fformOf t) sat m : Nat)

/-- `cvt.pack` of 09 R213. -/
def packedFloats (t : Ty) (m : Rnd) (a b c : Word) : Word :=
  match t with
  | .f16x2 | .bf16x2 => (f32v b).round (fformOf t) false m * 2 ^ 16 + (f32v a).round (fformOf t) false m
  | _ => c.toNat % 2 ^ 16 * 2 ^ 16 + (f32v b).round (fformOf t) true m * 2 ^ 8 + (f32v a).round (fformOf t) true m

/-- The values of eight consecutive registers, and references to them. -/
def eight (s : State) (l : Lane) (r : Reg) : List Word := (eightRefs r).map fun q => (s.word l.core l.t q).val

/-- A source of `qpack` is a NaN, or its tag has the NaN scale, up to and with element k (09 R214). -/
def nanUpTo (tag : Nat) (xs : List Word) (k : Nat) : Bool :=
  tagSE tag == 255 || (xs.take (k + 1)).any fun x => f32v x == .nan

/-- The Q4 code of element k (09 R214). -/
def q4Code (tag : Nat) (xs : List Word) (k : Nat) : Nat :=
  if nanUpTo tag xs k || tagZero tag then 0 else q4Quot (tagQ tag) (f32v (xs.getD k 0)) (tagScale tag)

/-- The word of eight codes (09 R214). -/
def q4Codes (tag : Nat) (xs : List Word) : DWord :=
  (((List.range 8).map fun k => q4Code tag xs k % 16 * 16 ^ k).sum : Nat)

/-- The tag that `qpack` returns (09 R214). -/
def q4Tag (tag : Nat) (xs : List Word) : DWord :=
  (if nanUpTo tag xs 7 then tag / 1024 * 1024 + 255 * 4 else tag : Nat)

/-- Element k of `qunpack` (09 R215). -/
def q4Element (m : Rnd) (tag : Nat) (a : DWord) (k : Nat) : Word :=
  if tagSE tag = 255 then 0x7FC00000
  else if tagZero tag then 0
  else rounded .f32 m ((q4Value (tagQ tag) (a.toNat / 16 ^ k % 16)).mul (tagScale tag))

/-- Byte k of two words, the bytes of `a` lowest. -/
def byteOf (a b : Word) (k : Nat) : Nat := (if k < 4 then a.toNat / 256 ^ k else b.toNat / 256 ^ (k - 4)) % 256

/-- A byte of `bsel` by its selector, after the byte before it (09 R216). -/
def selectedBy (a b : Word) (s prev : Nat) : Nat :=
  if s ≤ 7 then byteOf a b s
  else if s = 8 then 0
  else if s = 9 then 0xFF
  else if s = 10 then if prev / 128 % 2 = 1 then 0xFF else 0
  else if s = 11 then prev
  else ofBits 8 fun k => (byteOf a b (s - 12)).testBit (7 - k)

/-- Byte i of `bsel` (09 R216). -/
def selected (a b c : Word) : Nat → Nat
  | 0 => selectedBy a b (c.toNat % 16) 0
  | i + 1 => selectedBy a b (c.toNat / 16 ^ (i + 1) % 16) (selected a b c i)

/-- An element of `pack` (09 R217). -/
def packElement (t : Ty) (sat : Bool) (v : Word) : Nat :=
  let x : Int := if signed t then v.toInt else v.toNat
  ((if sat then clamped t x else x) % 2 ^ width t).toNat

/-- `pack` of 09 R217. -/
def packed (t : Ty) (sat : Bool) (a b c : Word) : Word :=
  if width t = 8 then c.toNat % 2 ^ 16 * 2 ^ 16 + packElement t sat b * 2 ^ 8 + packElement t sat a
  else packElement t sat b * 2 ^ 16 + packElement t sat a

/-! ## Predicates and control (09 R218 to R225) -/

/-- A comparison of `setp` (09 R218). -/
def compares (c : Cmp) (a b : Int) : Bool :=
  match c with
  | .eq => a = b
  | .ne => a ≠ b
  | .lt => a < b
  | .le => a ≤ b
  | .gt => a > b
  | .ge => a ≥ b

/-- The place of an F32 word that is no NaN in the order of values; −0 and +0 are equal. -/
def rank (w : Word) : Int := if w.msb then -(w.toNat % 2 ^ 31 : Nat) else w.toNat

/-- The outcome of `fsetp` on two F32 words (09 R218). -/
def outcome (a b : Word) : Nat :=
  if isNaN a ∨ isNaN b then 3 else if rank a < rank b then 0 else if rank a = rank b then 1 else 2

/-- The class of an F32 word (09 R219). -/
def classOf (w : Word) : Nat :=
  let m := w.toNat % 2 ^ 31
  if m > 0x7F800000 then 8
  else if m = 0x7F800000 then if w.msb then 0 else 7
  else if m = 0 then if w.msb then 3 else 4
  else if m < 2 ^ 23 then if w.msb then 2 else 5
  else if w.msb then 1 else 6

/-- The two-source rows of 09 R220; a source may be inverted. -/
inductive PredBin : (Hdr → PReg → PReg → PReg → Bool → Bool → Instr) → (Bool → Bool → Bool) → Prop
  | pand : PredBin .pand fun a b => a && b
  | por : PredBin .por fun a b => a || b
  | pxor : PredBin .pxor fun a b => a != b

/-- The predicates that `pmov.put` writes under a mask (09 R221). -/
def putMask (m : DWord) : List Nat := (List.range 16).filter fun n => n ≠ 0 && m.getLsbD n

/-! ## What an instruction of classes 0 to 3 may write -/

/-- The instructions of classes 0 to 3 but `exit`, with the registers and predicates that they may write. -/
inductive Writes : Instr → Hdr → List WRef → Prop
  | intBin {k f h t d a b} : IntBin k f → Writes (k h t d a b) h (Reg.refs d)
  | intImm {k f h t d a i} : IntImm k f → Writes (k h t d a i) h (Reg.refs d)
  | intUn {k f h t d a} : IntUn k f → Writes (k h t d a) h (Reg.refs d)
  | intTern {k f h t d a b c} : IntTern k f → Writes (k h t d a b c) h (Reg.refs d)
  | addc {h t d a b} {p : PReg} : Writes (.addc h t d a b p) h (.p p.toNat :: Reg.refs d)
  | subb {h t d a b} {p : PReg} : Writes (.subb h t d a b p) h (.p p.toNat :: Reg.refs d)
  | div {h t d a b} : Writes (.div h t d a b) h (Reg.refs d)
  | rem {h t d a b} : Writes (.rem h t d a b) h (Reg.refs d)
  | shift {k f h t d a b} : Shift k f → Writes (k h t d a b) h (Reg.refs d)
  | bfe {h t d a b} : Writes (.bfe h t d a b) h (Reg.refs d)
  | bfi {h t d a b c} : Writes (.bfi h t d a b c) h (Reg.refs d)
  | bitUn {k f h t d a} : BitUn k f → Writes (k h t d a) h (Reg.refs d)
  | lea {h t d a b c} : Writes (.lea h t d a b c) h (Reg.refs d)
  | mov {h d a} : Writes (.mov h d a) h (Reg.refs d)
  | movi {h d i} : Writes (.movi h d i) h (Reg.refs d)
  | sel {h d a b p} : Writes (.sel h d a b p) h (Reg.refs d)
  | floatBin {k g h t m d a b} : FloatBin k g → Writes (k h t m d a b) h (Reg.refs d)
  | floatMin {k g h t d a b} : FloatMin k g → Writes (k h t d a b) h (Reg.refs d)
  | floatBinXi {k g h t m d a i} : FloatBinXi k g → Writes (k h t m d a i) h (Reg.refs d)
  | floatMinXi {k g h t d a i} : FloatMinXi k g → Writes (k h t d a i) h (Reg.refs d)
  | floatUn {k g h m d a} : FloatUn k g → Writes (k h m d a) h (Reg.refs d)
  | fsub {h m d a b} : Writes (.fsub h m d a b) h (Reg.refs d)
  | fdiv {h m d a b} : Writes (.fdiv h m d a b) h (Reg.refs d)
  | ffma {h t m d a b c} : Writes (.ffma h t m d a b c) h (Reg.refs d)
  | fdot2 {h t m d a b c} : Writes (.fdot2 h t m d a b c) h (Reg.refs d)
  | fabs {h t d a} : Writes (.fabs h t d a) h (Reg.refs d)
  | fneg {h t d a} : Writes (.fneg h t d a) h (Reg.refs d)
  | fsgn {h t d a b} : Writes (.fsgn h t d a b) h (Reg.refs d)
  | frnd {h m d a} : Writes (.frnd h m d a) h (Reg.refs d)
  | ffrc {h m d a} : Writes (.ffrc h m d a) h (Reg.refs d)
  | fscale {h m d a b} : Writes (.fscale h m d a b) h (Reg.refs d)
  | cvt {h t u m sat d a} : Writes (.cvt h t u m sat d a) h (Reg.refs d)
  | cvtPack {h t m d a b c} : Writes (.cvtPack h t m d a b c) h (Reg.refs d)
  | qpack {h d a b c} : Writes (.qpack h d a b c) h (Reg.refs d ++ Reg.refs c)
  | qunpack {h m d a b} : Writes (.qunpack h m d a b) h (eightRefs d)
  | bsel {h d a b c} : Writes (.bsel h d a b c) h (Reg.refs d)
  | pack {h t sat d a b c} : Writes (.pack h t sat d a b c) h (Reg.refs d)
  | unpack {h t d a b} : Writes (.unpack h t d a b) h (Reg.refs d)
  | setp {h c t a b} {p : PReg} : Writes (.setp h c t p a b) h [.p p.toNat]
  | fsetp {h m a b} {p : PReg} : Writes (.fsetp h m p a b) h [.p p.toNat]
  | fclass {h a b} {p : PReg} : Writes (.fclass h p a b) h [.p p.toNat]
  | predBin {k f h na nb} {p a b : PReg} : PredBin k f → Writes (k h p a b na nb) h [.p p.toNat]
  | pnot {h} {p a : PReg} : Writes (.pnot h p a) h [.p p.toNat]
  | pmov {h} {p a : PReg} : Writes (.pmov h p a) h [.p p.toNat]
  | pmovGet {h d} : Writes (.pmovGet h d) h (Reg.refs d)
  | pmovPut {h d a} : Writes (.pmovPut h d a) h ((List.range 16).map WRef.p)
  | bra {h off} : Writes (.bra h off) h []
  | braInd {h a} : Writes (.braInd h a) h []
  | call {h off} : Writes (.call h off) h [.g 15]
  | callInd {h a} : Writes (.callInd h a) h [.g 15]
  | ret {h} : Writes (.ret h) h []
  | yield {h} : Writes (.yield h) h []
  | nop {h} : Writes (.nop h) h []
  | srd {h t d n} : Writes (.srd h t d n) h (Reg.refs d)

/-- A lane writes a word to a reference, and no other word there. -/
def WritesOnly (ws : List (WRef × Word)) (r : WRef) (w : Word) : Prop := (r, w) ∈ ws ∧ ∀ v, (r, v) ∈ ws → v = w

/-! ## Accesses (02 R52 to R61, 10 R226 to R238) -/

/-- The value of a memory operand's address (08 R180): modulo 2^64, or modulo 2^32 for the scratchpad. -/
def address (s : State) (l : Lane) (base : Reg) (disp : BitVec 10) : Nat := (s.regVal l base + disp.signExtend 64).toNat
/-- The scratchpad offset of a memory operand (08 R180). -/
def spOffset (s : State) (l : Lane) (base : Reg) (disp : BitVec 10) : Nat :=
  ((s.regVal l base).setWidth 32 + disp.signExtend 32).toNat

/-- The bytes of a memory type (10 R227). -/
def bytesOf : Ty → Nat
  | .i8 | .n8 | .e4m3 | .e5m2 => 1
  | .i16 | .n16 | .f16 | .bf16 => 2
  | .i64 | .n64 | .b64 => 8
  | _ => 4

/-- What a load of a type writes (10 R227). -/
def loaded (t : Ty) (v : Nat) : DWord := if signed t then result t v else (v % 256 ^ bytesOf t : Nat)

/-- The data of a store of a type: the low bytes of its source (10 R227). -/
def stored (t : Ty) (v : DWord) : BitVec 128 := (v.toNat % 256 ^ bytesOf t : Nat)

/-- The access of a lane passes the checks of 10 R228 and leaves its core as a request, or is performed there (10 R229): its address
lies in a region, is aligned, has a home; a free thread stays only for a home of its own core, a window, a replica, the host or a
reduction; an access whose home is its own core passes Perform's checks (02 R54). -/
structure Reaches (s : State) (l : Lane) (x : Access) (g : Region) (hm : Home) : Prop where
  below : x.a < 2 ^ 56
  home : s.homeOf l.t.vf.toNat x.a l.core = .ok (g, hm)
  aligned : x.a % x.size = 0
  writable : AccKind.writes x.kind = true → g.win = false
  stays : l.t.group ≠ none ∨ hm = .core l.core ∨ g.win = true ∨ g.func = 4 ∨ g.func = 5 ∨ x.kind = .red
  allowed : hm = .core l.core → (∀ t, s.homeCheck l.t.vf.toNat l.t.principal.toNat x.a x.kind x.tf l.core g ≠ .trap t) ∧
    s.homeCheck l.t.vf.toNat l.t.principal.toNat x.a x.kind x.tf l.core g ≠ .wait

/-- The walk of 19 R394 to R396 from a table of level n − 1 at a core, entry by entry: each is read under key 0; it names the next table, or
is the leaf. -/
inductive Walks (s : State) (c a : Nat) (isHost : Bool) : Nat → Nat → Pte → Prop
  | leaf {n t} (w : Nat) : w = s.stillNat (physAddr c (t + 8 * (a / 2 ^ (16 + 10 * n) % 1024))) 8 →
      s.readableKey0 (physAddr c (t + 8 * (a / 2 ^ (16 + 10 * n) % 1024))) = true →
      w % 4 = 3 → w / 2 ^ 2 % 4 = 0 → w / 2 ^ 40 % 64 = 0 →
      (n = 0 ∧ w / 2 ^ 50 % 4 ≤ 1 ∨ n = 1 ∧ w / 2 ^ 50 % 4 = 2) → w.testBit 49 = isHost →
      (w.testBit 49 = false → w / 2 ^ 4 % 2 ^ 36 < 32768) → Walks s c a isHost (n + 1) t (Pte.ofNat w)
  | next {n t e} (w : Nat) : w = s.stillNat (physAddr c (t + 8 * (a / 2 ^ (16 + 10 * n) % 1024))) 8 →
      s.readableKey0 (physAddr c (t + 8 * (a / 2 ^ (16 + 10 * n) % 1024))) = true →
      w % 4 = 1 → w / 2 ^ 2 % 2 ^ 11 = 0 → w / 2 ^ 31 % 2 ^ 33 = 0 → 0 < n →
      Walks s c a isHost n (w / 2 ^ 13 % 2 ^ 18 * 8192) e → Walks s c a isHost (n + 1) t e

/-- The root of a VF's page table at a core (19 R393); 0 names none. -/
def rootOf (s : State) (v c : Nat) : Nat := (Tbl.get (0 : BitVec 32) (s.vf v).roots c).toNat

/-- The page of an address has an entry at a core (02 R53, 19 R396, R397): one that its TLB holds, else one that the walk finds; the page is
no larger than its region allows, and its frame's owner counts as the VF's. -/
structure Entry (s : State) (v a c : Nat) (g : Region) (e : Pte) : Prop where
  found :
    (∃ x, s.tlbFind v a c = some x ∧ e = Pte.ofNat x.pte.toNat ∧ (e.host = false →
      Tbl.get (s.keyCounts v (s.owner (frameOf (physAddr c (e.offset a)))).key) x.owned (frameOf (physAddr c (e.offset a))) = true)) ∨
    (s.tlbFind v a c = none ∧ rootOf s v c ≠ 0 ∧ Walks s c a g.isHost 4 (rootOf s v c) e ∧
      (e.host = false → s.keyCounts v (s.owner (frameOf (physAddr c (e.offset a)))).key = true))
  granule : e.frames ≤ g.granule

/-- The place of an address in its page at a core: a host-physical address for a host page. -/
def placeOf (e : Pte) (a c : Nat) : Nat := if e.host then e.offset a else physAddr c (e.offset a)

/-- The checks of Perform let an access pass at a home (02 R54, R69): the page may be written where the access writes, its window is neither
closed nor re-keying, the principal is allowed the page's class, the frame is not held, the sector is sound. -/
structure Passes (s : State) (v pr a : Nat) (k : AccKind) (tf : Bool) (c : Nat) (g : Region) (e : Pte) : Prop where
  entry : Entry s v a c g e
  ro : AccKind.writes k = true → e.ro = false
  replica : AccKind.writes k = true → k ≠ .mcst → e.replica = false
  window : e.host = false → e.window = true → s.rekeying (placeOf e a c) = false ∧ (tf = true → s.shut (placeOf e a c) = false)
  cls : e.cls = 0 ∨ pr < (s.vf v).ptSize ∧ s.allows v pr e.cls c = true
  still : e.host = false → s.busyAt (placeOf e a c) = false
  sound : e.host = false → s.poisoned (placeOf e a c) = false

/-- The device may use an address of a VF that is homed in this package, at a place (18 R386, 02 R72): no WIN, replicated or host region, a
page of class 0, written only where it may be, and a sound sector. -/
structure DevReaches (s : State) (v a : Nat) (wr : Bool) (p : Nat) : Prop where
  below : a < 2 ^ 56
  page : ∃ g c e, s.homeOf v a 0 = .ok (g, .core c) ∧ g.win = false ∧ g.func ≠ 4 ∧ g.func ≠ 5 ∧ Entry s v a c g e ∧ e.cls = 0 ∧
    (wr = true → e.ro = false ∧ e.replica = false) ∧ p = physAddr c (e.offset a) ∧
    ((s.owner (frameOf p)).init = true ∨ s.devSpoiled p = false)

/-- The number that the device reads at a place: 0 in a frame whose scrub is under way (19 R397). -/
def devNat (s : State) (p n : Nat) : Nat := if (s.owner (frameOf p)).init then 0 else Mem.readNat s.mem p n

/-- No `ld.acq` of the lane's thread has yet to return (03 R84). -/
def noAcquire (s : State) (l : Lane) : Prop := ∀ r ∈ l.t.acq, s.isEmpty l.core l.t r = false

/-- An access instruction completes: each active lane's access is issued, and its thread goes on (10 R229, R231). -/
def Accesses (i : Instr) (h : Hdr) (rd wr : List WRef) (x : State → Lane → Access) : Prop :=
  ∀ s iss rest (g : Lane → Region) (hm : Lane → Home), WellFormed i = true → AtIssue s i h iss rest →
    OneUnit (lanesOf s iss rest h) →
    (∀ l ∈ active s iss rest h, let u := passed s iss rest h
      Readable u l rd ∧ noAcquire u l ∧ Writable u l wr ∧ Reaches u l (x u l) (g l) (hm l)) →
    exec i s = .next (acted s iss rest h fun l v => v.issueAccess l (x (passed s iss rest h) l) (g l) (hm l))

/-- An access to shared storage of a kind. -/
def accessOf (k : AccKind) (a : Nat) (t : Ty) (tf : Bool) : Access := ⟨k, a, bytesOf t, t, .exch, 0, 0, tf, none, false⟩

/-- A scratchpad access of a lane may be made (10 R228, 02 R60, 03 R77, R88): aligned, inside the grant, held by nothing. -/
def SpReaches (s : State) (l : Lane) (wr : Bool) (a n : Nat) : Prop :=
  a % n = 0 ∧ (s.team l.core (s.teamOf l)).inGrant a n = true ∧ s.spHeld l wr a n = false

/-- The registers that an atomic reads besides its address (10 R234). -/
def casRefs (op : AtomOp) (d : Reg) : List WRef := if op = .cas then Reg.refs d else []

/-! ## Cross-lane and matrix instructions (chapter 11) -/

/-- A class 5 instruction that writes registers completes: values come from the state in which the set executes (11 R254, R255, R257). -/
def SetCompletes (i : Instr) (h : Hdr) (rd wr : List WRef) (ws : State → List Lane → Lane → List (WRef × Word)) : Prop :=
  ∀ s iss rest, WellFormed i = true → Released s i h iss rest →
    (∀ l ∈ active s iss rest h, Readable (left s rest) l rd ∧ Writable (left s rest) l wr) →
    exec i s = .next (acted s iss rest h fun l u =>
      u.complete l (ws (left s rest) (active s iss rest h) l) none)

/-- The width of the group of a lane is a power of two up to 64 (01 R11). -/
def widthPower (s : State) (l : Lane) (n : Nat) : Prop :=
  n ≤ 6 ∧ ∃ g, l.t.group.map Prod.fst = some g ∧ (s.group l.core g).width = 2 ^ n

/-- The value of a source in lane j where that is active, else another value. -/
def laneValue (s : State) (ls : List Lane) (a : Src) (other : DWord) (j : Nat) : DWord :=
  ((ls.find? fun k => k.lane == j).map fun k => s.srcVal k a).getD other

/-- The lane that `shfl` reads (11 R259), for a group of width 2^n. -/
def shuffleFrom (mode : ShflMode) (n l x c : Nat) : Option Nat :=
  let w := 2 ^ n
  let s := if c = 0 then w else 2 ^ (min c w).log2
  let base := l - l % s
  match mode with
  | .idx => some (base + x % s)
  | .up => if x ≤ l - base then some (l - x) else none
  | .down => if x < base + s - l then some (l + x) else none
  | .xor => some (l ^^^ (x % s))

/-- The balanced tree of 11 R262 over 2^n values from the one at i. -/
def balanced (f : DWord → DWord → DWord) (v : Nat → DWord) : Nat → Nat → DWord
  | 0, i => v i
  | n + 1, i => f (balanced f v n i) (balanced f v n (i + 2 ^ n))

/-- The values at lo to hi − 1 combined left to right from the identity (11 R262). -/
def leftToRight (f : DWord → DWord → DWord) (e : DWord) (v : Nat → DWord) (lo hi : Nat) : DWord :=
  (List.range' lo (hi - lo)).foldl (fun acc i => f acc (v i)) e

/-- The start of the segment of lane L: the highest active lane up to L whose predicate is true, else lane 0 (11 R263). -/
def segmentStart (ls : List Lane) (b : PReg) (l : Nat) : Nat :=
  ((ls.filter fun k => k.lane ≤ l && k.t.pred b.toNat).map Lane.lane).foldl max 0

/-- The last active lane of the segment of lane L (11 R263). -/
def segmentEnd (ls : List Lane) (b : PReg) (l : Nat) : Nat :=
  ((ls.filter fun k => segmentStart ls b k.lane == segmentStart ls b l).map Lane.lane).foldl max l

/-- The operations that `segscan` and `segred` take from their code operand (11 R261). -/
def segmentOp (ls : List Lane) (s : State) (c : Src) : Option RedOp :=
  (ls.head?.map fun l => count (s.srcVal l c)).bind fun n =>
    [RedOp.add, .min, .max, .minn, .maxn, .and, .or, .xor][n]?

/-- Active lanes whose predicate is true. -/
def chosenLanes (ls : List Lane) (p : PReg) : List Lane := ls.filter fun l => l.t.pred p.toNat

/-- The number of lanes of a list below a lane. -/
def below (ls : List Lane) (l : Lane) : Nat := (ls.filter fun k => k.lane < l.lane).length

/-- A mask of lanes. -/
def laneMask (ls : List Lane) : DWord := (ofBits 64 fun j => ls.any fun l => l.lane == j : Nat)

/-- What `lpred` writes (11 R260). -/
def vote (op : LpredOp) (ls : List Lane) (p : PReg) : DWord :=
  match op with
  | .mask => laneMask (chosenLanes ls p)
  | .count => ((chosenLanes ls p).length : Nat)
  | .first => ((chosenLanes ls p).head?.map fun l => (l.lane : DWord)).getD 0xFFFFFFFF
  | .every => if ls.all fun l => l.t.pred p.toNat then 1 else 0
  | .some => if ls.any fun l => l.t.pred p.toNat then 1 else 0
  | .same => if (ls.all fun l => l.t.pred p.toNat) || ls.all fun l => !l.t.pred p.toNat then 1 else 0

/-- The peers of a lane (11 R264). -/
def peersOf (s : State) (t : Ty) (a : Src) (ls : List Lane) (l : Lane) : List Lane :=
  ls.filter fun k => (s.srcVal k a).setWidth (width t) == (s.srcVal l a).setWidth (width t)

/-- What `peers` writes (11 R264). -/
def peersValue (s : State) (op : PeersOp) (t : Ty) (a : Src) (ls : List Lane) (l : Lane) : DWord :=
  let ps := peersOf s t a ls l
  match op with
  | .mask => laneMask ps
  | .leader => ((ps.head?.map Lane.lane).getD 0 : Nat)
  | .rank => (below ps l : Nat)
  | .uniform => if ps.length = ls.length then laneMask ls else 0

/-- The matrix instructions that join the engine's queue (11 R268): group operands, operands of each lane, whether a row count of 0
queues nothing, and the operation. -/
inductive Queues : Instr → Hdr → List Src → List Src → Bool → (State → List Lane → MatOp) → Prop
  | mma {h z t row a off tag} : Queues (.mma h z t row a off tag) h [off] [] false fun s ls =>
      { s.matOp .mma t ls with
        flag := z, row := row.toNat, tile := a.toNat, off := s.groupNat ls off, mdReg := tag.toNat }
  | mmaSp {h z t row a off md} : Queues (.mmaSp h z t row a off md) h [off] [] false fun s ls =>
      { s.matOp .mmaSp t ls with
        flag := z, row := row.toNat, tile := a.toNat, off := s.groupNat ls off, mdReg := md.toNat }
  | mdist {h z t row a off} : Queues (.mdist h z t row a off) h [off] [] false fun s ls =>
      { s.matOp .mdist t ls with flag := z, row := row.toNat, tile := a.toNat, off := s.groupNat ls off }
  | mtopk {h mx t d row g0 k} : Queues (.mtopk h mx t d row g0 k) h [] [g0, k] false fun s ls =>
      { s.matOp .mtopk t ls with
        flag := mx, row := row.toNat, tile := d.toNat
        lanes := ls.map fun l => ⟨l.lane, l.ctx, (s.srcVal l g0).setWidth 32, count (s.srcVal l k),
          l.t.vals (8 * d.toNat) (min (count (s.srcVal l k)) 16), l.t.vals (8 * d.toNat + 16) (min (count (s.srcVal l k)) 16)⟩ }
  | acz {h row n} : Queues (.acz h row n) h [n] [] true fun s ls =>
      { s.matOp .acz .i32 ls with row := row.toNat, n := s.groupNat ls n }
  | acld {h row off n tok} : Queues (.acld h row off n tok) h [off, n] [] true fun s ls =>
      { s.matOp .acld .i32 ls with
        row := row.toNat, off := s.groupNat ls off, n := s.groupNat ls n, tok := tok.toNat }
  | acst {h row off n tok} : Queues (.acst h row off n tok) h [off, n] [] true fun s ls =>
      { s.matOp .acst .i32 ls with
        row := row.toNat, off := s.groupNat ls off, n := s.groupNat ls n, tok := tok.toNat }
  | accp {h t d b n} : Queues (.accp h t d b n) h [n] [] true fun s ls =>
      { s.matOp .accp t ls with row := d.toNat, row2 := b.toNat, n := s.groupNat ls n }
  | acsc {h t var off row n f} : Queues (.acsc h t var off row n f) h [off, n, f] [] true fun s ls =>
      { s.matOp .acsc t ls with
        var := var.toNat, row := row.toNat, off := s.groupNat ls off, n := s.groupNat ls n
        f := (s.groupVal ls f).setWidth 32 }

/-- The scratchpad bytes of a matrix operation (11 R268, R273, R274): the B operand with its tags, the rows, or the output of `acsc`. -/
def footprint (o : MatOp) : Nat :=
  match o.kind with
  | .mma | .mdist => 4096 + if o.ty = .q4 then 512 else 0
  | .mmaSp => 8192 + if o.ty = .q4 then 1024 else 0
  | .acld | .acst => 256 * o.n
  | .acsc => o.n * (8 * elemBits o.ty) + if o.ty = .q4 ∨ (elemBits o.ty = 8 ∧ o.var = 1) then 4 * o.n else 0
  | _ => 0

/-- What 11 R268 asks of a matrix operation of lanes in a team: list lengths from 1 to 16, rows and bytes within the grants, an aligned
offset, and metadata whose indices rise in every group of eight (04 R113). -/
structure MatFits (o : MatOp) (ls : List Lane) (tm : Team) : Prop where
  lists : o.kind = .mtopk → ∀ m ∈ o.lanes, 1 ≤ m.k ∧ m.k ≤ 16
  laneRows : o.kind = .mma ∨ o.kind = .mmaSp ∨ o.kind = .mdist ∨ o.kind = .mtopk → ∀ l ∈ ls, o.row + l.lane < 64 * tm.accBlocks
  rows : o.n ≠ 0 → o.row + o.n ≤ 64 * tm.accBlocks ∧ (o.kind = .accp → o.row2 + o.n ≤ 64 * tm.accBlocks)
  align128 : o.kind = .mma ∨ o.kind = .mmaSp ∨ o.kind = .mdist → o.off % 128 = 0
  align64 : o.kind = .acld ∨ o.kind = .acst ∨ o.kind = .acsc → o.off % 64 = 0
  bytes : o.off + footprint o ≤ 65536 * tm.spBlocks
  metadata : o.kind = .mmaSp → ∀ l ∈ ls, ∀ q < kOf o.ty true / 8, ∀ m < 3,
    wordsNat (l.t.vals (8 * o.mdReg) 12) / 2 ^ (12 * q + 3 * m) % 8 < wordsNat (l.t.vals (8 * o.mdReg) 12) / 2 ^ (12 * q + 3 * m + 3) % 8

/-- The lane registers that a matrix operation reads and LOCKs in each lane (11 R268 to R270): the A tile, the tag registers of a Q4 `mma`,
and the metadata tile, or two, of `mma.sp`. -/
def sourceWords (o : MatOp) : List Nat :=
  let span := fun (n k : Nat) => (List.range k).map (n + ·)
  match o.kind with
  | .mma => span (8 * o.tile) 16 ++ if o.ty = .q4 then span o.mdReg 2 else []
  | .mmaSp => span (8 * o.tile) 16 ++ span (8 * o.mdReg) (if o.ty = .q4 then 16 else 8)
  | .mdist => span (8 * o.tile) 16
  | _ => []

/-! ## Instructions whose lanes act in ascending order (10 R242, R244, 12 R279) -/

/-- One lane is active, and its thread, of a group or free, executes the issue for the first time. -/
structure Lone (s : State) (i : Instr) (h : Hdr) (iss : Issue) (rest : List Issue) (l : Lane) : Prop where
  issue : AtIssue s i h iss rest
  unit : OneUnit (lanesOf s iss rest h)
  only : active s iss rest h = [l]
  ready : l.t.st = .ready
  first : l.t.fork = none
  member : ∀ g, l.t.group = some g → l.ctx ∈ ((left s rest).group l.core g.1).present ∧
    ∀ x ∈ ((left s rest).group l.core g.1).present, ((left s rest).thread l.core x).fork.map Prod.fst ≠ some l.num

/-- The thread of a lane stands after its instruction. -/
def Passed (t : State) (l : Lane) : Prop := (t.thread l.core l.ctx).pc = l.nextPc

/-- The scratchpad offset of a one-word source. -/
def offsetOf (s : State) (l : Lane) (off : Src) : Nat := count (s.srcVal l off)

/-- The bytes of a lane's scratchpad. -/
def scratch (s : State) (l : Lane) : Team := s.team l.core (s.teamOf l)

/-- The registers of a claim or release of 8k registers (12 R291). -/
def registers (k : Nat) : Nat := 8 * min k 8

/-- The group of a lane. -/
def groupOf (l : Lane) : Nat := (l.t.group.map Prod.fst).getD 0

/-- The lanes of a list are present members of the group that they name. -/
def Members (s : State) (ls : List Lane) : Prop :=
  ∀ l ∈ ls, l.ctx ∈ (s.group l.core (groupOf l)).present ∧ (s.group l.core (groupOf l)).live = true ∧
    groupOf l ∈ (s.team l.core (s.group l.core (groupOf l)).team).groups

/-- A stream descriptor in a lane's scratchpad (05 R117, 12 R285): in place, sound, with reserved fields and alignment as they must be. -/
structure StreamAt (s : State) (l : Lane) (a : Nat) : Prop where
  place : a % 32 = 0 ∧ a + 32 ≤ 65536 * (scratch s l).spBlocks
  free : s.heldByMatrix l.core (groupOf l) a 32 = false
  sound : (scratch s l).spBad a 32 = false
  reserved : Mem.readNat (scratch s l).sp (a + 7) 1 = 0 ∧ Mem.readNat (scratch s l).sp (a + 0x10) 16 ≤ 1
  aligned : Mem.readNat (scratch s l).sp a 8 % 8 = 0 ∧ Mem.readNat (scratch s l).sp (a + 8) 4 % 8 = 0

/-- The stream of such a descriptor (05 R117, R131): its start, length, first position and MULTI. -/
def streamAt (s : State) (l : Lane) (a : Nat) : Stream :=
  let n := fun (off k : Nat) => Mem.readNat (scratch s l).sp (a + off) k
  { baddr := BitVec.ofNat 56 (n 0 8), idx := 0, left := n 8 4, pos := BitVec.ofNat 32 (n 0xC 4), unknown := false, last := 0, roff := 0
    new := true, multi := n 0x10 1 == 1 }

/-- An empty second stream, of a cursor with one (05 R131; log 98). -/
def noStream : Stream := { baddr := 0, idx := 0, left := 0, pos := 0, unknown := false, last := 0, roff := 0, new := true, multi := false }

/-- A cursor number may be opened (05 R123): it is open, so that its slot is closed first, or a slot of the core is free. -/
def SlotLeft (s : State) (l : Lane) (num : Nat) : Prop :=
  (∃ n, s.slotOf l.core (groupOf l) num = some n ∧ n < 256) ∨
    s.slotOf l.core (groupOf l) num = none ∧ ∃ n < 256, Tbl.has (s.core l.core).cursors n = false

/-- A cursor number is open, in a slot that no operation uses (05 R123, 12 R278). -/
def OpenIn (s : State) (l : Lane) (num slot : Nat) : Prop :=
  num ≤ 3 ∧ s.slotOf l.core (groupOf l) num = some slot ∧ (s.cursor l.core slot).busy = .none

/-- The address of a cursor record (12 R288): a multiple of 64, in the scratchpad's grant, or an address with a home. -/
def RecordAt (s : State) (l : Lane) (sp : Bool) (b : Reg) (a : Nat) : Prop :=
  a % 64 = 0 ∧ (sp = true → a = ((s.regVal l b).setWidth 32).toNat ∧ a + 64 ≤ 65536 * (scratch s l).spBlocks) ∧
    (sp = false → a = (s.regVal l b).toNat ∧ a < 2 ^ 56 ∧ ∃ g hm, s.homeOf l.t.vf.toNat a l.core = .ok (g, hm))

/-- A cursor record whose fields keep 05 R131: an operation of 0 to 4, reserved bits 0, aligned block addresses. -/
structure RecordFits (b : List Byte) : Prop where
  op : fieldAt b 0x30 8 / 2 ^ 61 % 8 ≤ 4
  reserved : fieldAt b 0x30 8 / 2 ^ 52 % 16 = 0 ∧ fieldAt b 0x30 8 % 128 = 0
  zeros : (fieldAt b 0x30 8 / 2 ^ 61 % 8 = 0 → fieldAt b 0x18 24 = 0) ∧ (fieldAt b 0x30 8 / 2 ^ 61 % 8 = 4 → fieldAt b 0x28 8 = 0)
  aligned : fieldAt b 0 8 % 8 = 0 ∧ (fieldAt b 0x30 8 / 2 ^ 61 % 8 ≠ 0 → fieldAt b 0x30 8 / 2 ^ 61 % 8 ≠ 4 → fieldAt b 0x18 8 % 8 = 0)

/-- A stream holds what 24 bytes of a record say (05 R131). -/
structure StreamOf (b : List Byte) (off : Nat) (st : Stream) : Prop where
  addr : st.baddr.toNat = fieldAt b off 8 % 2 ^ 56
  idx : st.idx = fieldAt b off 8 / 2 ^ 56 % 256
  left : st.left = fieldAt b (off + 8) 4
  pos : st.pos.toNat = fieldAt b (off + 0xC) 4
  last : st.last.toNat = fieldAt b (off + 0x10) 4
  roff : st.roff.toNat = fieldAt b (off + 0x14) 4

/-- A cursor holds what a record says (05 R131): its operation, its streams, its flags, its end, LASTOUT and EMITTED. -/
structure CursorOf (b : List Byte) (k : Cursor) : Prop where
  op : (CrdOp.code k.cur.op).toNat = fieldAt b 0x30 8 / 2 ^ 61 % 8
  a : StreamOf b 0 k.cur.a
  second : CrdOp.two k.cur.op = true → StreamOf b 0x18 k.cur.b
  flags : k.cur.a.multi = (fieldAt b 0x30 8).testBit 60 ∧ k.cur.b.multi = (fieldAt b 0x30 8).testBit 59 ∧
    k.cur.a.new = (fieldAt b 0x30 8).testBit 58 ∧ k.cur.b.new = (fieldAt b 0x30 8).testBit 57 ∧
    k.cur.endAll = (fieldAt b 0x30 8).testBit 56
  rows : k.cur.op = .expand → k.cur.knext.toNat = fieldAt b 0x18 4 ∧ k.cur.kend.toNat = fieldAt b 0x1C 4 ∧
    k.cur.rowStart.toNat = fieldAt b 0x20 4 ∧ k.cur.row.toNat = fieldAt b 0x24 4
  ends : k.cur.cEnd.toNat = fieldAt b 0x38 4 ∧ k.emitted.toNat = fieldAt b 0x3C 4 ∧ k.lastOut.toNat = fieldAt b 0x30 8 / 2 ^ 8 % 2 ^ 32
  fresh : k.live = true ∧ k.busy = .none ∧ k.look = none ∧ k.outNew = true

/-- 24 bytes of a record as a stream is saved in them (05 R131). -/
structure StreamSaved (st : Stream) (b : List Byte) (off : Nat) : Prop where
  idx : fieldAt b off 8 / 2 ^ 56 = st.idx
  addr : fieldAt b off 8 % 2 ^ 56 = st.baddr.toNat
  left : fieldAt b (off + 8) 4 = st.left
  pos : fieldAt b (off + 0xC) 4 = if st.unknown then 0xFFFFFFFF else st.pos.toNat
  last : fieldAt b (off + 0x10) 4 = st.last.toNat
  roff : fieldAt b (off + 0x14) 4 = st.roff.toNat

/-- The layout of 05 R131, field by field, of the record in which a cursor is saved. -/
structure RecordSays (k : Cursor) (b : List Byte) : Prop where
  length : b.length = 64
  a : StreamSaved k.cur.a b 0
  second : k.cur.op = .intersect ∨ k.cur.op = .union ∨ k.cur.op = .diff → StreamSaved k.cur.b b 0x18
  enum : k.cur.op = .enum → fieldAt b 0x18 24 = 0
  expand : k.cur.op = .expand → fieldAt b 0x18 4 = k.cur.knext.toNat ∧ fieldAt b 0x1C 4 = k.cur.kend.toNat ∧
    fieldAt b 0x20 4 = k.cur.rowStart.toNat ∧ fieldAt b 0x24 4 = k.cur.row.toNat ∧ fieldAt b 0x28 8 = 0
  op : fieldAt b 0x30 8 / 2 ^ 61 = match k.cur.op with
    | .enum => 0 | .intersect => 1 | .union => 2 | .diff => 3 | .expand => 4
  flags : (fieldAt b 0x30 8).testBit 60 = k.cur.a.multi ∧ (fieldAt b 0x30 8).testBit 59 = k.cur.b.multi ∧
    (fieldAt b 0x30 8).testBit 58 = k.cur.a.new ∧ (fieldAt b 0x30 8).testBit 57 = k.cur.b.new ∧
    (fieldAt b 0x30 8).testBit 56 = k.cur.endAll ∧ (fieldAt b 0x30 8).testBit 7 = k.outNew
  reserved : fieldAt b 0x30 8 / 2 ^ 52 % 16 = 0 ∧ fieldAt b 0x30 8 % 128 = 0
  principal : fieldAt b 0x30 8 / 2 ^ 40 % 4096 = k.principal.toNat
  lastOut : fieldAt b 0x30 8 / 2 ^ 8 % 2 ^ 32 = k.lastOut.toNat
  ends : fieldAt b 0x38 4 = k.cur.cEnd.toNat ∧ fieldAt b 0x3C 4 = k.emitted.toNat

/-- The registers of the user view (12 R298): wide or not, number, and value for a lane. FTCAP and FTLIVE are those of a VF whose home is this
package (01 R23). -/
inductive UserReg (s : State) (l : Lane) : Bool → Nat → Nat → Prop
  | devid : UserReg s l false 0x00 0x71080100
  | spsize {p} : s.partOf l.core = some p → UserReg s l false 0x10 (s.part p).s
  | teamsp {g} : l.t.group = some g → UserReg s l false 0x11 (s.team l.core (s.group l.core g.1).team).spBlocks
  | teamspFree : l.t.group = none → UserReg s l false 0x11 0
  | teamacc {g} : l.t.group = some g → UserReg s l false 0x12 (s.team l.core (s.group l.core g.1).team).accBlocks
  | teamaccFree : l.t.group = none → UserReg s l false 0x12 0
  | budget {g} : l.t.group = some g → UserReg s l false 0x13 (s.group l.core g.1).budget
  | budgetFree : l.t.group = none → UserReg s l false 0x13 16
  | poolfree {g} : l.t.group = some g → UserReg s l false 0x14 (s.team l.core (s.group l.core g.1).team).free
  | poolfreeFree : l.t.group = none → UserReg s l false 0x14 0
  | slotidx {p} : s.partOf l.core = some p → UserReg s l false 0x20 (s.part p).cur
  | slotleft {p e} : s.partOf l.core = some p → (s.part p).slotEnd = some e →
      UserReg s l false 0x21 (min (e.toNat - s.clk.toNat) 0xFFFFFFFF)
  | ftcap : l.t.vfPkg = s.fabnum → UserReg s l false 0x30 (s.vf l.t.vf.toNat).ftCap
  | ftlive : l.t.vfPkg = s.fabnum → UserReg s l false 0x31 (s.vf l.t.vf.toNat).ftLive
  | gaps : UserReg s l true 0x40 s.power.gaps.toNat

/-- The checks of a copy descriptor (04 R99), row by row, for a team's scratchpad. -/
structure CopyFits (d : CopyDesc) (tm : Team) : Prop where
  reserved : d.reservedOk = true
  codes : d.dir ≤ 1 ∧ d.esize ≤ 4 ∧ d.conv ≤ 5
  pairs : (d.conv = 1 ∨ d.conv = 2 → d.esize = 2) ∧ (d.conv = 3 ∨ d.conv = 4 → d.esize = 1) ∧ (d.conv = 5 → d.esize = 4)
  memory : d.gaddr % d.eg = 0 ∧ (∀ x ∈ d.str, x % d.eg = 0) ∧ (d.conv = 5 → d.tagaddr % 16 = 0)
  scratch : d.spoff % d.es = 0 ∧ ∀ x ∈ d.spstr, x % d.es = 0
  aux : (d.done = true → d.ctroff % 8 = 0) ∧ (d.conv = 5 → d.tagsp % 16 = 0)
  last : d.spoff + ((d.box.zip d.spstr).map fun e => e.1 * e.2).sum + d.box.headD 0 * d.es + d.es ≤ 65536 * tm.spBlocks
  auxIn : (d.done = true → d.ctroff + 8 ≤ 65536 * tm.spBlocks) ∧ (d.conv = 5 → d.tagsp + 2 * d.count ≤ 65536 * tm.spBlocks)

/-- The checks of a gather descriptor (04 R107). -/
structure GatherFits (d : GatherDesc) (tm : Team) : Prop where
  reserved : d.reservedOk = true
  aligned : d.table % 16 = 0 ∧ d.stride % 16 = 0 ∧ d.idxoff % 4 = 0 ∧ d.dst % 16 = 0 ∧ d.dstStride % 16 = 0 ∧ d.defoff % 16 = 0
  counter : d.done = true → d.ctroff % 8 = 0 ∧ d.ctroff + 8 ≤ 65536 * tm.spBlocks
  list : d.idxoff + 4 * d.count ≤ 65536 * tm.spBlocks
  rows : d.dst + (d.count - 1) * d.dstStride + d.rowSize ≤ 65536 * tm.spBlocks
  default_ : d.defoff + d.rowSize ≤ 65536 * tm.spBlocks

/-- The pending bytes of an arrival counter stay below 2^27 with more posted (12 R283, R295). -/
def PendingRoom (s : State) (l : Lane) (off bytes : Nat) : Prop :=
  s.counterWord l.core (s.teamOf l) off / 2 ^ 32 % 2 ^ 27 + bytes < 2 ^ 27

/-- The checks of `spill` and `fill` (12 R290): one to eight tiles, none of them with the token, within the budget; an aligned address;
for the scratchpad form bytes within the grant, else an address with a home, which a spill may write. -/
structure SpillFits (s : State) (l : Lane) (fill sp : Bool) (tok tile k a : Nat) : Prop where
  tiles : 1 ≤ k ∧ k ≤ 8 ∧ tile + k ≤ 8
  token : tok < 8 * tile ∨ 8 * (tile + k) ≤ tok
  budget : 8 * (tile + k) ≤ s.budget l.core l.t
  aligned : a % 32 = 0
  inside : sp = true → a + k * s.widthOf l * 32 ≤ 65536 * (s.team l.core (s.teamOf l)).spBlocks
  home : sp = false → a < 2 ^ 56 ∧ ∃ g hm, s.homeOf l.t.vf.toNat a l.core = .ok (g, hm) ∧ (fill = false → g.win = false ∧ g.func ≠ 4)

/-! ## Events (95) -/

/-- An instruction or event answers a next state that meets a condition. -/
def Gives (i : Instr) (s : State) (post : State → Prop) : Prop := ∃ t, exec i s = .next t ∧ post t

/-- A request with a number; every number is given once. -/
structure Named (s : State) (id : Nat) (r : Req) : Prop where
  mem : r ∈ s.reqs
  id : r.id = id
  once : (s.reqs.map Req.id).Nodup

/-- A request is in a state, and meets a condition. -/
def Stands (t : State) (id : Nat) (p : Req → Prop) : Prop := ∃ q ∈ t.reqs, q.id = id ∧ p q

/-- A sent request whose turn it is at its home (02 R52, 03 R74 to R80, 10 R249, 19 R391): no earlier request of its thread, of this package
or another, faulted there or has to come first, no firewall stands before it, and its address lies in a region. -/
structure Due (s : State) (id : Nat) (r : Req) (g : Region) : Prop where
  named : Named s id r
  sent : r.stat = .sent
  reps : r.reps = []
  first : ∀ x ∈ s.reqs, Req.turnsBack x r = false ∧ Req.precedes x r = false
  turned : ∀ x ∈ s.turned, Turned.holds x r = false
  open_ : s.walled r = false
  region : s.regionOf r.vf.toNat r.va.toNat = some g

/-- Bytes are written at the place that Perform found, and nothing else in memory changes. -/
def Wrote (s t : State) (p : Nat) (e : Pte) (bs : List Byte) : Prop :=
  if e.host then t.hostMem = Mem.write s.hostMem p bs ∧ t.mem = s.mem
  else t.mem = Mem.write s.mem p bs ∧ t.hostMem = s.hostMem

/-- The value that an atomic writes, modulo the width of its type, or none (10 R234): old value, operand, expected value. -/
def atomicValue (op : AtomOp) (t : Ty) (o v e : DWord) : Option Nat :=
  let low := fun (x : DWord) => x.toNat % 256 ^ bytesOf t
  let int := fun (x : Int) => some (x % 2 ^ width t).toNat
  match op with
  | .add | .addComb =>
    if t = .f32 then some (rounded .f32 .rn (fsum .rn [f32v (o.setWidth 32), f32v (v.setWidth 32)]))
    else int (value t o + value t v)
  | .min => if t = .f32 then some (extreme .f32 false true (count o) (count v)) else int (min (value t o) (value t v))
  | .max => if t = .f32 then some (extreme .f32 true true (count o) (count v)) else int (max (value t o) (value t v))
  | .and => some (low (o &&& v))
  | .or => some (low (o ||| v))
  | .xor => some (low (o ^^^ v))
  | .exch => some (low v)
  | .cas => if low o = low e then some (low v) else none
  | .incb => if value t o < value t v then int (value t o + 1) else none
  | .decb => if value t o > value t v then int (value t o - 1) else none

/-- The requests of a fault unit (10 R246). -/
def unitReqs (s : State) (issue key : Nat) : List Req :=
  s.reqs.filter fun r => r.issue == issue && r.key == key && r.far.isNone && r.kind != .prefetch

/-- A frame's admission is what a core does next (01 R16, R30): its VF is active and it is the oldest such one in the queue, a context and a
slot are free, nothing is in the overflow ring, and no team waits that could be admitted. -/
structure Admits (s : State) (c x : Nat) (y : Sys2Proof.Machine.Slot) : Prop where
  queued : y ∈ (s.core c).queue ∧ s.vfActive y.frame.vf.toNat c = true
  oldest : ∀ z ∈ (s.core c).queue, s.vfActive z.frame.vf.toNat c = true → z = y ∨ y.num.toNat < z.num.toNat
  context : x < 4096 ∧ (s.thread c x).st = .none ∧ ∀ n < x, (s.thread c n).st ≠ .none
  slot : s.slotFree c = true
  ring : (s.core c).overflow = []
  teams : s.nextTeam c = none

/-- A context of a core holds the thread that another one held, which is free. -/
def Moved (s t : State) (c x y : Nat) : Prop :=
  (t.thread c x).st = .none ∧ (t.thread c y).st = (s.thread c x).st ∧ (t.thread c y).pc = (s.thread c x).pc

/-- An engine access of a copy at an address passes its checks at a core of its package, with no firewall between, or in host memory (02 R54,
R59, 04 R100, 19 R391): where, and with what page. -/
def ReadsAt (s : State) (c : Nat) (o : CopyOp) (a : Nat) (k : AccKind) (p : Nat) (e : Pte) : Prop :=
  a < 2 ^ 56 ∧ ∃ g hm d, s.homeOf o.vf.toNat a c = .ok (g, hm) ∧ (g.win = true → AccKind.writes k = false) ∧
    (hm = .core d ∧ s.engineWalled (o.asker c) g.win k d = false ∨ hm = .host ∧ d = c) ∧ p = placeOf e a d ∧
    Passes s o.vf.toNat o.principal.toNat a k false d g e

/-- The copy operation that an event names; an operation's number names it alone, and nothing of its thread is awaited (03 R86). -/
structure CopyAt (s : State) (c op : Nat) (o : CopyOp) : Prop where
  mem : o ∈ (s.core c).copies
  id : o.id = op
  once : ((s.core c).copies.map CopyOp.id).Nodup
  forked : s.forkHeld c o.ctx o.seq = false

/-- An element of a copy has been moved. -/
def StepDone (t : State) (c op e : Nat) (o : CopyOp) : Prop :=
  ∃ o' ∈ (t.core c).copies, o'.id = op ∧ o'.left = o.left.filter (· ≠ e)

/-- A scratchpad in which an operation's arrival counter, if it has one, has b bytes moved from pending to counted (04 R104, 12 R295). -/
def counted (sp : List Host.Cell) (ctr : Option Nat) (b : Nat) : List Host.Cell :=
  match ctr with
  | none => sp
  | some off =>
    let w := Mem.readNat sp off 8
    Mem.write sp off (leBytes 8 (w / 2 ^ 59 % 32 * 2 ^ 59 + (w / 2 ^ 32 % 2 ^ 27 - b) * 2 ^ 32 + (w + b) % 2 ^ 32))

/-- The counter of an operation that an error ended has its cause and no more the bytes that were not written (04 R105). -/
def errored (sp : List Host.Cell) (off b cause : Nat) : List Host.Cell :=
  let w := Mem.readNat sp off 8
  let err := w / 2 ^ 59 % 32
  Mem.write sp off (leBytes 8 ((if err = 0 then cause else err) * 2 ^ 59 + (w / 2 ^ 32 % 2 ^ 27 - b) * 2 ^ 32 + w % 2 ^ 32))

/-- A part of a global spill or fill, at an aligned address, may be moved in its page: both 16-byte accesses pass their checks (12 R290). -/
structure PartAt (s : State) (c : Nat) (o : SpillOp) (a : Nat) (k : AccKind) (p : Nat) (e : Pte) : Prop where
  aligned : a % 32 = 0
  below : a < 2 ^ 56
  place : ∃ g hm d, s.homeOf o.vf.toNat a c = .ok (g, hm) ∧ (g.win = true → AccKind.writes k = false) ∧
    (hm = .core d ∧ s.engineWalled (o.asker c) g.win k d = false ∨ hm = .host ∧ d = c) ∧ p = placeOf e a d ∧
    Passes s o.vf.toNat o.principal.toNat a k false d g e ∧ Passes s o.vf.toNat o.principal.toNat (a + 16) k false d g e

/-! ## Matrix operands and values (04 R111 to R114, 06 R154, 11 R269 to R274) -/

/-- Bits of a code of a matrix type. -/
def codeBits : Ty → Nat
  | .bf16 | .f16 => 16
  | .e4m3 | .e5m2 | .i8 => 8
  | _ => 4

/-- K, dense or sparse, and the aligned group size c (04 R111). -/
def rowLen (t : Ty) (sp : Bool) : Nat := (if sp then 1024 else 512) / codeBits t
/-- The aligned group size c. -/
def groupLen (t : Ty) : Nat := if codeBits t = 16 then 16 else 32

/-- n bits from a position on of words joined, the first lowest. -/
def bitsIn (ws : List Word) (pos n : Nat) : Nat := ofBits n fun i => (ws.getD ((pos + i) / 32) 0).getLsbD ((pos + i) % 32)

/-- Code k of a run of b-bit codes in scratchpad, the even one of two Q4 codes in the low half of the byte (06 R142). -/
def codeAt (sp : List Host.Cell) (off b k : Nat) : Nat := Mem.readNat sp (off + k * b / 8) ((b + 7) / 8) / 2 ^ (k * b % 8) % 2 ^ b

/-- The value of a Q4 code of a QTYPE (06 R143). -/
def fourBit (q c : Nat) : FVal :=
  let eighths := match q with
    | 1 => [0, 4, 8, 12, 16, 24, 32, 48]
    | 2 => [0, 1, 2, 4, 8, 16, 32, 64]
    | _ => [0, 8, 16, 24, 32, 48, 64, 96]
  if q = 0 then FVal.ofInt (BitVec.ofNat 4 c).toInt else .fin (8 ≤ c) (eighths.getD (c % 8) 0) (-3)

/-- The scale of a tag that is no NaN block (06 R141). -/
def blockScale (tag : Nat) : FVal :=
  if tag % 1024 = 0 then .fin false 0 0 else .fin false (4 + tag % 4) ((tag / 4 % 256 : Nat) - 129)

/-- The value of a code of a floating matrix type, of Q4 under its block's tag: +0 in a zero block. -/
def codeValue (t : Ty) (tag c : Nat) : FVal :=
  if t = .q4 then if tag % 1024 = 0 then .fin false 0 0 else fourBit (tag / 1024 % 4) c else (fformOf t).decode c

/-- ExactDotAdd of 06 R154 for the codes of one aligned group: products, or squared differences for `mdist`. -/
def exactDotAdd (t : Ty) (dist : Bool) (acc : Word) (ta tb : Nat) (ps : List (Nat × Nat)) : Word :=
  if t = .i8 then
    let term := fun (p : Nat × Nat) =>
      let a := (BitVec.ofNat 8 p.1).toInt
      let b := (BitVec.ofNat 8 p.2).toInt
      if dist then (a - b) ^ 2 else a * b
    BitVec.ofInt 32 (acc.toInt + (ps.map term).sum)
  else if t = .q4 ∧ (ta / 4 % 256 = 255 ∨ tb / 4 % 256 = 255) then 0x7FC00000
  else
    let term := fun (p : Nat × Nat) =>
      let a := codeValue t ta p.1
      let b := codeValue t tb p.2
      let v := if dist then (fsum .rn [a, b.neg]).mul (fsum .rn [a, b.neg]) else a.mul b
      if t = .q4 then ((blockScale ta).mul (blockScale tb)).mul v else v
    BitVec.ofNat 32 (rounded .f32 .rn (fsum .rn (f32v acc :: ps.map term)))

/-- The positions of an expanded row with the A elements that meet them: all, or those that the metadata keeps (04 R113, 11 R270). -/
def meetings (t : Ty) (sp : Bool) (md : List Word) : List (Nat × Nat) :=
  if sp then (List.range (rowLen t true / 2)).map fun e => (8 * (e / 4) + bitsIn md (12 * (e / 4) + 3 * (e % 4)) 3, e)
  else (List.range (rowLen t false)).map fun k => (k, k)

/-- The A tag of a group of a lane (11 R269). -/
def tagOfA (o : MatOp) (l : MLane) (q : Nat) : Nat := bitsIn l.md ((if o.kind = .mmaSp then 384 else 0) + 16 * q) 16
/-- The B tag of a group and column. -/
def tagOfB (o : MatOp) (sp : List Host.Cell) (q j : Nat) : Nat :=
  Mem.readNat sp (o.off + (if o.kind = .mmaSp then 8192 else 4096) + 2 * (64 * q + j)) 2

/-- Column j of a lane after `mma`, `mma.sp` or `mdist`, from its value before (04 R112 to R114). -/
def matrixValue (o : MatOp) (l : MLane) (sp : List Host.Cell) (j : Nat) (acc : Word) : Word :=
  let b := codeBits o.ty
  let c := groupLen o.ty
  (List.range (rowLen o.ty (o.kind == .mmaSp) / c)).foldl (fun acc q =>
    exactDotAdd o.ty (o.kind == .mdist) acc (tagOfA o l q) (tagOfB o sp q j)
      (((meetings o.ty (o.kind == .mmaSp) l.md).filter fun p => p.1 / c = q).map fun p =>
        (bitsIn l.a (b * p.2) b, codeAt sp o.off b (64 * p.1 + j)))) acc

/-- The order of `mtopk` (04 R114, 11 R272): empty entries last, NaN after every number, values by the form's order with −0 equal to +0, then
indices; then list before row, then place. -/
def Precedes (f mx : Bool) (a b : TopEntry) : Prop :=
  let gone := fun (e : TopEntry) => e.idx == 0xFFFFFFFF#32
  let nan := fun (e : TopEntry) => f && isNaN e.val
  let num := fun (e : TopEntry) =>
    let v : Int := if f then if e.val.msb then -(e.val.toNat % 2 ^ 31 : Nat) else e.val.toNat else e.val.toInt
    if mx then -v else v
  if gone a ≠ gone b then gone b = true
  else if gone a = false ∧ nan a ≠ nan b then nan b = true
  else if gone a = false ∧ nan a = false ∧ num a ≠ num b then num a < num b
  else if gone a = false ∧ a.idx ≠ b.idx then a.idx.toNat < b.idx.toNat
  else if a.row ≠ b.row then b.row = true
  else a.place < b.place

/-- The entries that `mtopk` sorts in a lane: its list and its row (11 R272). -/
def topEntries (l : MLane) (r : AccRow) : List TopEntry :=
  ((List.range l.k).map fun i => ⟨l.a.getD i 0, l.md.getD i 0, false, i⟩) ++
    (List.range 64).map fun j => ⟨r.col j, l.g0 + BitVec.ofNat 32 j, true, j⟩

/-- The value of a finite number. -/
def numOf : FVal → ℚ
  | .fin neg m e => (if neg then -1 else 1) * (m * 2 ^ e)
  | _ => 0

/-- v / s rounded to nearest into a target of `acsc`, saturating (06 R142, R144, R145, 11 R274). -/
def CodeOf (t : Ty) (var : Nat) (v : Word) (s : ℚ) (c : Nat) : Prop :=
  if t = .q4 then
    let x := valueOf v / s
    let signed := fun (d : Nat) => var ≠ 0 → decide (8 ≤ d) = v.msb
    let far := fun (d : Nat) => |x - numOf (fourBit var d)|
    if isInf v then c = if v.msb then if var = 0 then 8 else 15 else 7
    else c < 16 ∧ signed c ∧ ∀ d < 16, signed d → far c < far d ∨ far c = far d ∧ (d = c ∨ c % 2 = 0)
  else
    let f := fformOf t
    if isNaN v then c = f.nanCode
    else if isInf v then c = f.signed v.msb f.maxCode
    else ∃ m ≤ f.maxCode, c = f.signed v.msb m ∧ magnitude f m = min (chosen f .rn v.msb (sizeOf v / s)) (magnitude f f.maxCode)

/-- A block of `acsc` with its tag (11 R274): scale number n stands for (1 + SM/4) × 2^(SE − 127) with n = 4 SE + SM. -/
def BlockOf (t : Ty) (var : Nat) (v : Nat → Word) (tag : Nat) (code : Nat → Nat) : Prop :=
  let head := match t with
    | .e4m3 => 4096
    | .e5m2 => 8192
    | _ => 1024 * var
  let target : ℚ := match t with
    | .e4m3 => 448
    | .e5m2 => 57344
    | _ => if var = 0 then 7 else if var = 1 then 6 else if var = 2 then 8 else 12
  let scale := fun (n : Nat) => ((4 + n % 4 : Nat) : ℚ) * 2 ^ (((n / 4 : Nat) : Int) - 129)
  let fits := fun (n : Nat) => ∀ j < 32, isInf (v j) = false ∧ sizeOf (v j) / scale n ≤ target
  if (List.range 32).any fun j => isNaN (v j) then tag = head + 1020 ∧ ∀ j < 32, code j = 0
  else if (List.range 32).all fun j => isZero (v j) then tag = head ∧ ∀ j < 32, code j = 0
  else ∃ n, 1 ≤ n ∧ n ≤ 1019 ∧ (fits n ∨ n = 1019) ∧ (∀ m, 1 ≤ m → m < n → ¬fits m) ∧ tag = head + n ∧
    ∀ j < 32, CodeOf t var (v j) (scale n) (code j)

/-- What `acsc` writes of a row (11 R274): codes, and two tags in a tagged form. -/
def RowScaled (o : MatOp) (r : AccRow) (code : Nat → Nat) (tag : Nat → Nat) : Prop :=
  let v := fun (j : Nat) => BitVec.ofNat 32 (rounded .f32 .rn ((f32v (r.col j)).mul (f32v o.f)))
  if o.ty = .q4 ∨ codeBits o.ty = 8 ∧ o.var = 1 then
    ∀ q < 2, BlockOf o.ty o.var (fun j => v (32 * q + j)) (tag q) fun j => code (32 * q + j)
  else ∀ j < 64, CodeOf o.ty o.var (v j) 1 (code j)

/-- The accumulator rows that a matrix operation writes become what its rule says, free of poison; the others stay (04 R112). -/
def RowsBecome (tm tm' : Team) (rows : List Nat) (f : Nat → Nat → Word) : Prop :=
  (∀ r ∈ rows, (tm'.row r).poison = false ∧ ∀ j < 64, (tm'.row r).col j = f r j) ∧ ∀ r, r ∉ rows → tm'.row r = tm.row r

/-- Harvest may go on with a cursor's operation (05 R132 to R134, 03 R86): it is neither stuck nor paused, no local access of its group is open;
its members wait for it. -/
structure HarvestGoes (s : State) (c : Nat) (k : Cursor) (lanes : List (Nat × Nat)) : Prop where
  live : k.live = true ∧ k.stuck = false ∧ k.paused = false
  forked : ∀ x ∈ (s.group c k.gset).present, s.localOpen c x = false
  members : (lanes.map Prod.snd).Nodup ∧ ∀ m ∈ lanes, (s.thread c m.2).st = .waiting .harvest

/-- SEGS and SEGE of an item that a `crd.next` delivers j-th (05 R127): the row flags of EXPAND; else whether it is the first one delivered, or
differs from the one before, and whether none follows, or a different one. -/
def Segments (k : Cursor) (l : List Item) (look : Option Item) (j : Nat) (it : Item) (segs sege : Bool) : Prop :=
  if k.cur.op = .expand then segs = it.segs ∧ sege = it.sege
  else
    (segs = true ↔ if j = 0 then k.outNew = true ∨ k.lastOut ≠ it.c else ∀ x, l[j - 1]? = some x → x.c ≠ it.c) ∧
      (sege = true ↔ ∀ x, (l[j + 1]?).or look = some x → x.c ≠ it.c)

/-- A cursor has consumed all of its streams, and the row of an EXPAND one (05 R126). -/
def AtEnd (st : CState) : Prop :=
  st.a.left = 0 ∧ (CrdOp.two st.op = true → st.b.left = 0) ∧ (st.op = .expand → ¬st.knext < st.kend)

/-- The slot that a partition's calendar is in (20 R422, R423): its number, its register as read at its start, and the cycle of its end. -/
def InSlot (t : State) (p j : Nat) (w : Word) (clk : DWord) : Prop :=
  (t.part p).cur = j ∧ (t.part p).slotWord = w ∧ (t.part p).idle = false ∧
    (t.part p).slotEnd = some (clk + BitVec.ofNat 64 ((w.toNat % 256 + 1) * 94000))

/-- The frames of a list of pages stand as the owner table says (19 R397): under a key, and with or without REKEY. -/
def PagesUnder (t : State) (fs : List Nat) (key : Nat) (rekey : Bool) : Prop :=
  ∀ f ∈ fs, (t.owner f).key = key ∧ (t.owner f).rekey = rekey

/-- The unacknowledged flush markers of a context at the two ports of its die (03 R85). -/
def markers (s : State) (c x : Nat) : Nat :=
  ((s.port (2 * dieOf c)).unacked ++ (s.port (2 * dieOf c + 1)).unacked).countP fun k => Packet.isMarker k.1 c x

/-! ## Words, memory, records (08 R171 to R192, 12 R302, 20 R417 to R419) -/

/-- No hints and no guard: predicate 0, not negated (08 R174). -/
def bare : Hdr := ⟨0, false, 0⟩
/-- A guard alone. -/
def guarded (p : BitVec 4) : Hdr := ⟨p, false, 0⟩
/-- A lane register. -/
def gr (n : BitVec 6) : Reg := .g n false
/-- A pair of lane registers. -/
def gp (n : BitVec 6) : Reg := .g n true
/-- A lane register as a source. -/
def sg (n : BitVec 6) : Src := .reg (gr n)

/-- The numbers of a fault record lie in their fields. -/
structure InFields (r : Rec) : Prop where
  cause : r.cause < 2 ^ 16
  kind : r.kind < 2 ^ 8
  origin : r.origin < 2 ^ 4
  ctx : r.ctx < 2 ^ 12
  core : r.core < 2 ^ 9
  gset : r.gset < 2 ^ 9
  buf : r.buf < 2 ^ 8
  role : r.role < 2 ^ 2

/-- Bits `hi` to `lo` of the 64-bit field at an offset of a fault record (12 R302); the model's bytes begin at offset 0x08. -/
def recField (b : List Byte) (off hi lo : Nat) : Nat := bits (fieldAt b (off - 8) 8) lo (hi + 1 - lo)

/-- The header of a VF's fault queue lies at a place of this package, and the queue has a free slot (20 R418, R419). -/
def HasRoom (s : State) (v ph : Nat) : Prop :=
  DevReaches s v (s.vf v).fqAddr true ph ∧
    (BitVec.ofNat 64 (devNat s ph 8) - BitVec.ofNat 64 (devNat s (ph + 8) 8)).toNat < (s.vf v).fqSize

/-- The state in which HEAD of that header is counted up (20 R419). -/
def headTaken (s : State) (ph : Nat) : State := s.devPut ph (leBytes 8 (devNat s ph 8 + 1))

/-- The slot that HEAD names lies at a place of this package (20 R418). -/
def SlotAt (s : State) (v ph p : Nat) : Prop :=
  DevReaches (headTaken s ph) v ((s.vf v).fqAddr + 0x80 + 128 * (devNat s ph 8 % (s.vf v).fqSize)) true p

/-- What parking a unit leaves of it: its number, and what it was parked with. -/
structure Parked (s : State) (u w : FUnit) : Prop where
  id : w.id = s.nextUnit
  trap : w.trap = u.trap
  threads : w.threads = u.threads
  place : w.core = u.core ∧ w.vf = u.vf ∧ w.gset = u.gset ∧ w.origin = u.origin
  pcs : w.pc = u.pc ∧ w.parkPc = u.parkPc
  sets : w.performed = u.performed ∧ w.faulting = u.faulting ∧ w.pending = u.pending ∧ w.active = u.active
  kept : w.reqs = u.reqs ∧ w.resume = u.resume

/-! ## Configuration, power and health, clause by clause -/

/-- 19 R388: OCTMAP assigns the octants of its eight bytes. -/
def OctantsWritten : Prop :=
  ∀ (i : Nat) (v : DWord) (s : State), i < 8 → octOk v = true → (∀ j : Nat, j < 8 → s.octBusy (8 * i + j) = false) → Gives (.octmapWrite i v) s fun t =>
      ∀ j : Nat, j < 8 → t.partOfOctant (8 * i + j) = if v.getLsbD (8 * j + 7) then some (v.toNat / 2 ^ (8 * j) % 64) else none

/-- 19 R389: PARTCFG. -/
def PartitionSize : Prop :=
  ∀ (p : Nat) (v : Word) (s : State), p < 64 → (v.toNat % 8 = 0 ∨ v.toNat % 8 = 7 → exec (.partcfgWrite p v) s = .next s) ∧
      (0 < v.toNat % 8 → v.toNat % 8 < 7 → (∀ c : Nat, c ∈ s.partCores p → (s.core c).occupied = false) →
        Gives (.partcfgWrite p v) s fun t => (t.part p).s = v.toNat % 8)

/-- 19 R397: an OWNER write, and one with INIT. -/
def OwnerWritten : Prop :=
  ∀ (c n : Nat) (v : BitVec 16) (s : State), c < 512 → n < 32768 → v.extractLsb' 11 2 = 0 → let f := c * 32768 + n
      s.ownerFree f = true →
      let o : Bool → Owner := fun init => { s.owner f with hostOk := v.getLsbD 15, init := init, key := v.toNat % 2048 }
      (v.getLsbD 13 = false → Gives (.ownerWrite c n v) s fun t => t.owner f = o (s.owner f).init ∧ t.mem = s.mem) ∧
      (v.getLsbD 13 = true → Gives (.frameScrub c n v) s fun t => t.owner f = o true ∧ t.mem = s.mem)

/-- 19 R397: a scrub ends. -/
def FrameScrubbed : Prop :=
  ∀ (c n : Nat) (s : State), (s.owner (c * 32768 + n)).init = true → Gives (.scrubComplete c n) s fun t =>
      (t.owner (c * 32768 + n)).init = false ∧
        ∀ a : Nat, Mem.get t.mem a = if a / 65536 = c * 32768 + n then 0 else Mem.get s.mem a

/-- A byte of a kernel image as the device reads it (13 R308): at a home of this package or in host memory, in a page of class 0, of a sound
sector. -/
def ImageByte (s : State) (v a : Nat) (x : Byte) : Prop :=
  a < 2 ^ 56 ∧ ∃ g hm c e, s.homeOf v a 0 = .ok (g, hm) ∧ (hm = .core c ∨ hm = .host ∧ c = 0) ∧ Entry s v a c g e ∧ e.cls = 0 ∧
    (e.host = true ∧ x = Mem.get s.hostMem (e.offset a) ∨ e.host = false ∧ let p := physAddr c (e.offset a)
      ((s.owner (frameOf p)).init = true ∨ s.poisoned p = false) ∧ x.toNat = devNat s p 1)

/-- 13 R305 to R308: an image whose header, sections, roles and safe points keep their rules is registered under the lowest free handle, with
what it holds. -/
def KernelRegistered : Prop :=
  ∀ v (s : State) (im : Nat → Byte) rs n, v < 1024 →
    let img := (s.vf v).kimg.toNat
    let num := fun (off k : Nat) => ((List.range k).map fun i => (im (off + i)).toNat * 256 ^ i).sum
    let h := Header.ofNat (num 0 128)
    let safe := (List.range h.nsafe).map fun i => SafePt.ofNat (num (h.safeOff + 32 * i) 32)
    (∀ i, i < 128 ∨ h.codeOff ≤ i ∧ i < h.codeOff + 2 * h.codeLen ∨ h.dictOff ≤ i ∧ i < h.dictOff + 12 * h.dictLen ∨
      h.safeOff ≤ i ∧ i < h.safeOff + 32 * h.nsafe → ImageByte s v (img + i) (im i)) →
    h.magic = 0x58425751 → h.version = 1 → h.limitsOk = true → h.inside img = true → h.rolesOk = some rs → ascending safe = true →
    0 < n → n < 65536 → s.handleFree v n = true → (∀ m, 0 < m → m < n → s.handleFree v m = false) →
    Gives (.kernelRegister v) s fun t => let k := t.kernel v n
      (t.vf v).kreg = BitVec.ofNat 32 (n * 65536) ∧ (∀ (c : Nat) (e : Core), (c, e) ∈ t.cores → (v, n) ∉ e.khere) ∧
        k.live = true ∧ k.image = BitVec.ofNat 56 img ∧ k.data = (s.vf v).kdata ∧ k.widths = BitVec.ofNat 4 h.widths ∧
        k.princ = h.princ ∧ k.migratory = h.modes.testBit 0 ∧ k.scratch = h.scratch ∧ k.acc = h.acc ∧ k.reserve = h.reserve ∧
        k.roles = rs ∧ k.safe = safe ∧
        k.code = ((List.range h.codeLen).map fun i => BitVec.ofNat 16 (num (h.codeOff + 2 * i) 2)) ∧
        k.dict = (List.range h.dictLen).map fun i => BitVec.ofNat 96 (num (h.dictOff + 12 * i) 12)

/-- 13 R308, 19 R406, R411 to R413: keys, the map cache, the placement table and kernels of a VF. -/
def DeviceConfigured : Prop :=
  ∀ (v : Nat) (s : State), v < 1024 →
      Gives (.keyGenerate v) s (fun t => t.keySlot (v + 1) = ⟨true, (s.keySlot (v + 1)).gen + 1⟩ ∧ t.mem = s.mem) ∧
      Gives (.keyDestroy v) s (fun t => (t.keySlot (v + 1)).present = false ∧ t.mem = s.mem ∧
        ∀ (c : Nat) (e : Core), (c, e) ∈ t.cores → ∀ k ∈ e.ro, k.vf ≠ v) ∧
      Gives (.pcinv v) s (fun t => ∀ (c : Nat) (e : Core), (c, e) ∈ t.cores → ∀ m ∈ e.maps, m.1 / 8 / 4096 ≠ v) ∧
      Gives (.regionTableLoad v) s (fun t => ∀ i : Nat, i < 64 → let d := s.descAt (s.vf v).regTab.toNat i
        (d.1 = true → d.2.func ≠ 0 → Tbl.has (t.vf v).regs i = true ∧ Tbl.get default (t.vf v).regs i = d.2) ∧
        (d.1 = false ∨ d.2.func = 0 → Tbl.has (t.vf v).regs i = false) ∧
        (d.1 = false → (t.vf v).regLoad ≠ 0)) ∧
      (∀ r : Nat, s.readKernel v = .error r → Gives (.kernelRegister v) s fun t =>
        (t.vf v).kreg = BitVec.ofNat 32 (r * 256 + 2) ∧ (t.vf v).kernels = (s.vf v).kernels) ∧
      ∀ h : BitVec 16, Gives (.kernelUnregister v h) s fun t => (t.kernel v h.toNat).live = false ∧
        (t.vf v).kreg = BitVec.ofNat 32 (h.toNat * 65536)

/-- 21 R446, R450: PWRCAP and FABNUM. -/
def CapAndNumber : Prop :=
  ∀ (sel : Sel) (v : DWord) (s : State), s.power.stage = .running → (1500 ≤ v.toNat % 8192 → v.toNat % 8192 ≤ 4200 →
        exec (.privilegedRegisterWrite sel 0x80F0 v) s = .next { s with power := { s.power with cap := v.toNat % 8192 } }) ∧
      (v.toNat % 8192 < 1500 ∨ 4200 < v.toNat % 8192 → exec (.privilegedRegisterWrite sel 0x80F0 v) s = .next s) ∧
      exec (.privilegedRegisterWrite sel 0x80E1 v) s = .next { s with fabnum := v.setWidth 16 }

/-- 12 R300: a firmware thread wakes. -/
def FirmwareWakes : Prop :=
  ∀ (c x : Nat) (s : State), (s.thread c x).st = .waiting .firmware → Gives (.firmwareWake c x) s fun t =>
    (t.thread c x).st = .ready ∧ (t.thread c x).pc = (s.thread c x).pc

/-- 21 R445: power-on. -/
def PowersOn : Prop :=
  ∀ (s : State), s.power.stage = .off → Gives .powerOn s fun t => t.power.stage = .dies ∧ t.power.dies = 1 ∧ t.mem = s.mem

/-- 21 R445: the dies leave reset 2 ms apart. -/
def DieReleased : Prop :=
  ∀ (s : State), s.power.stage = .dies → s.power.nextDie.toNat ≤ s.clk.toNat → Gives .dieResetRelease s fun t =>
      t.power.dies = s.power.dies + 1 ∧ t.power.nextDie = s.clk + 1880000 ∧ (s.power.dies = 7 → t.power.stage = .boot)

/-- 21 R445: a firmware image is verified or not; the last one ends the sequence. Which signatures verify is left open (log 20). -/
def ImageVerified : Prop :=
  ∀ (s : State) die image sig, s.power.stage = .boot → die < 8 → die ∉ s.power.verified →
      Gives (.firmwareImageLoad die image sig) s fun t =>
        (Config.verifyImage image.flatten sig = false → t = s) ∧
        (Config.verifyImage image.flatten sig = true → die ∈ t.power.verified ∧
          (s.power.verified.length = 7 → t.power.stage = .running ∧ t.power.cap = 1500 ∧ (t.keySlot 0).present = true ∧
            t.retList = hostList ∧ (∀ f, f ∈ t.retired ↔ f ∈ hostList ∨ f ∈ s.retired) ∧
            ∀ a, a % 2 ^ 31 < 30720 * 65536 → a / 65536 ∉ t.retired → Mem.get t.mem a = 0))

/-- 21 R446: the control step of the power cap. -/
def PowerControlled : Prop :=
  ∀ (s : State) w, let p := s.power
    (s.clk.toNat < p.nextInterval.toNat → exec (.powerInterval w) s = .next s) ∧
    (p.nextInterval.toNat ≤ s.clk.toNat → Gives (.powerInterval w) s fun t => t.power.now = w ∧ t.power.nextInterval = s.clk + 9400 ∧
        (p.therm = false → p.temp < 800 → t.power.g = if p.cap < w then min (p.g + 4) 56 else if w + 100 < p.cap then p.g - 1 else p.g) ∧
        (p.cap < w → p.g = 56 → t.power.overCap = true) ∧ (w < p.cap → t.power.overCap = false))

/-- 21 R447: the thermal limits; 110 °C stops the package when it has been held for 1 ms. -/
def ThermalLimits : Prop :=
  ∀ (s : State) temp, Gives (.thermalThrottle temp) s (fun t => t.power.temp = temp ∧
        (s.power.therm = false → 800 ≤ temp → t.power.g = max s.power.g 32)) ∧
      (∀ since, s.power.hotSince = some since → 880 ≤ temp → since.toNat + 940000 ≤ s.clk.toNat →
        Gives (.thermalStop temp) s fun t => t.power.g = 64 ∧ t.power.therm = true) ∧
      (s.power.therm = true → temp < 760 → Gives (.thermalResume temp) s fun t => t.power.g = 56 ∧ t.power.therm = false)

/-- 20 R433 to R437: a detected error. -/
def ErrorHandled : Prop :=
  ∀ s c u loc (o : BitVec 4) syn, c < 512 → o.toNat ≤ 2 → Gives (.errorDetected c u loc o syn) s fun t =>
      (t.core c).errIdx = (s.core c).errIdx + 1 ∧ (∃ x ∈ t.tests, x.core = c ∧ x.unit = u) ∧
        (u = .hbm → o = 1 → loc.toNat % 2 ^ 31 < 30720 * 65536 → (c * 2 ^ 31 + loc.toNat % 2 ^ 31) / 256 ∈ t.poison)

/-- 20 R435, R436: the trials of a self-test. -/
def TrialsCounted : Prop :=
  ∀ (s : State) n x, s.tests[n]? = some x →
      (x.bad = 0 → x.good < 2 → Gives (.selfTestTrial n true) s fun t => t.tests = s.tests.set n { x with bad := 1 }) ∧
      (x.good = 0 → x.bad < 2 → Gives (.selfTestTrial n false) s fun t => t.tests = s.tests.set n { x with good := 1 }) ∧
      (x.good = 1 → x.bad < 2 → Gives (.selfTestTrial n false) s fun t => t.tests = s.tests.eraseIdx n ∧ t.retired = s.retired) ∧
      (x.bad = 1 → x.unit = .hbm → Gives (.selfTestTrial n true) s fun t => t.tests = s.tests.eraseIdx n ∧
        (x.core * 2 ^ 31 + x.loc.toNat % 2 ^ 31) / 65536 ∈ t.retired)

/-- 21 R448: the attestation report. -/
def Attested : Prop :=
  ∀ (s : State) nonce, nonce.length = 32 → s.power.stage = .running → Gives (.attestationRequest nonce) s fun t =>
    ∃ r, t.hostOut = s.hostOut ++ [.report r] ∧ r.length = 8048 ∧ (r.drop 16).take 32 = nonce ∧
      r.take 8 = leBytes 8 (0x54524D38 + 1 * 2 ^ 32 + s.fabnum.toNat * 2 ^ 48)

/-! ## Frames, issuing and chains, clause by clause -/

/-- The record of a chain lies in this package, where the device may use each field of it (18 R379, R386). -/
def RecordHere (s : State) (v k p : Nat) : Prop := ∀ off < 64, DevReaches s v (s.chainAt v k + off) true (p + off)

/-- The scheduler may go on in a chain (18 R382, R386): its VF is enabled and not being reset, it has not stopped, its record holds no
CHAINERR, and every team of its last block is placed. -/
structure ChainFree (s : State) (v k p : Nat) : Prop where
  enabled : (s.vf v).enable = true ∧ (s.vf v).rst = false
  goes : (Tbl.get (default : Chain) (s.vf v).chains k).stopped = false
  noError : devNat s (p + 0x38) 8 < 2 ^ 48
  placed : ∀ g ∈ s.grids, g.vf = v → g.chain = k → g.teams ≤ g.next
  still : s.devWaits v (s.chainAt v k) = false

/-- Numbers of a size that the device reads one after another from an address of a VF. -/
def Listed (s : State) (v a size : Nat) (l : List Nat) : Prop :=
  ∀ i x, l[i]? = some x → ∃ q, DevReaches s v (a + size * i) false q ∧ x = devNat s q size

/-- A core could grant the team of a block all it needs (13 R317, STATUS 5; 01 R8, R16). -/
structure RoomFor (s : State) (c : Nat) (k : Kernel) (w : Nat) (rs : List Role) : Prop where
  contexts : w * groupCount rs ≤ 4096 - 64
  rows : ((rs.map fun r => r.groups * w * r.budget * 4).sum + k.reserve + 2047) / 2048 ≤ 352 - 2
  acc : k.acc ≤ 32
  sp : k.scratch ≤ 16 * ((s.partOf c).map fun p => (s.part p).s).getD 0

/-- A block passes the checks of 13 R317: its kernel and width, its roles, its principals, its size, the room of a core, its reserved fields, and
the cores of its affinity addresses. -/
structure BlockFits (s : State) (v : Nat) (b : LBlock) (rs : List Role) (ps affs : List Nat) : Prop where
  kernel : (s.kernel v b.khandle).live = true ∧ (s.kernel v b.khandle).widths.getLsbD b.wcode = true
  roles : b.roletab = 0 ∧ rs = (s.kernel v b.khandle).roles ∨
    b.roletab ≠ 0 ∧ ∃ es, es.length = 4 ∧ Listed s v b.roletab 8 es ∧ let n := (s.kernel v b.khandle).roles.length
      rs = (es.take n).map Role.ofNat ∧ (∀ e ∈ es.drop n, e = 0) ∧ groupCount rs ≤ 16 ∧ widthOfCode b.wcode * groupCount rs ≤ 1024 ∧
        ∀ e ∈ es.take n, e / 2 ^ 48 % 2 ^ 16 = 0 ∧ 1 ≤ e / 2 ^ 40 % 256 ∧ e / 2 ^ 40 % 256 ≤ 16 ∧ 8 ≤ e / 2 ^ 32 % 256 ∧
          e / 2 ^ 32 % 256 ≤ 64 ∧ e / 2 ^ 32 % 8 = 0 ∧ e % 2 ^ 32 < (s.kernel v b.khandle).code.length
  mode : b.pmode = 0 ∨ (s.kernel v b.khandle).princ = 0 ∨ (s.kernel v b.khandle).princ = b.pmode
  princs : ps.length = b.principals (groupCount rs) ∧ Listed s v b.parray 2 ps ∧ ∀ p ∈ ps, p < 2 ^ 12
  size : b.gx * b.gy * b.gz ≠ 0 ∧ b.gx * b.gy * b.gz % groupCount rs = 0 ∧ b.gx * b.gy * b.gz ≤ 2 ^ 32
  affinity : affs.length = (if b.affinity then b.gx * b.gy * b.gz / groupCount rs else 0) ∧ Listed s v b.afftab 8 affs
  room : b.affinity = false → ∃ c < 512, s.mayRun v (s.partOf c) = true ∧ RoomFor s c (s.kernel v b.khandle) (widthOfCode b.wcode) rs
  fields : b.reservedOk = true ∧ (b.swz = 0 ∨ b.order = 0) ∧ b.nwait ≤ 4
  cores : ∀ a ∈ affs, ∃ g c, s.homeOf v (a % 2 ^ 56) 0 = .ok (g, .core c) ∧ g.win = false ∧ g.func ≠ 4 ∧ g.func ≠ 5 ∧
    s.mayRun v (s.partOf c) = true ∧ RoomFor s c (s.kernel v b.khandle) (widthOfCode b.wcode) rs

/-- 18 R379, R380: a doorbell; where a block is linked already, the last one's NEXT takes the new one's address. -/
def Doorbell : Prop :=
  ∀ v k (b : DWord) s, v < 1024 → k < 4 →
      (s.power.stage ≠ .running ∨ b.toNat = 0 ∨ b.toNat % 256 ≠ 0 ∨ 2 ^ 56 ≤ b.toNat ∨ (s.vf v).rst = true → exec (.doorbellAppend v k b) s = .next s) ∧
      (s.power.stage = .running → b.toNat ≠ 0 → b.toNat % 256 = 0 → b.toNat < 2 ^ 56 → (s.vf v).rst = false → ∀ pb p,
        let s1 := s.devPut pb (leBytes 8 0)
        let n := (devNat s1 (p + 0x10) 8 + 1) % 2 ^ 64
        DevReaches s v b.toNat true pb → DevReaches s1 v (s1.chainAt v k) true p → p % 64 = 0 →
        s.appendWaits v k b.toNat = false → (∀ i ∈ s.waitIn, heldDoorbell v k i = false) →
        (devNat s1 p 8 % 2 ^ 56 = 0 → Gives (.doorbellAppend v k b) s fun t =>
          Mem.readNat t.mem p 8 = b.toNat ∧ Mem.readNat t.mem (p + 8) 8 = b.toNat ∧ Mem.readNat t.mem (p + 0x10) 8 = n) ∧
        ∀ q, devNat s1 p 8 % 2 ^ 56 ≠ 0 →
          let s2 := (s1.devPut (p + 0x10) (leBytes 8 (devNat s1 (p + 0x10) 8 + 1))).devPut (p + 8) (leBytes 8 b.toNat)
          DevReaches s2 v (devNat s1 (p + 8) 8 % 2 ^ 56) true q →
          exec (.doorbellAppend v k b) s = .next (s2.devPut q (leBytes 8 b.toNat)))

/-- 18 R378: the control page: an access that is no aligned 8-byte one of it is an Unsupported Request; an aligned write that is not one of
APPEND, which is a doorbell, is discarded; an aligned read returns its register. -/
def ControlPage : Prop :=
  ∀ v off size w (s : State),
    (s.power.stage = .running → v < 1024 → ¬(size = 8 ∧ off % 8 = 0 ∧ off < 4096) →
      exec (.unsupportedRequest v off size w) s = .next { s with hostOut := s.hostOut ++ [.unsupported v off] }) ∧
    (1024 ≤ v ∨ s.power.stage ≠ .running → exec (.unsupportedRequest v off size w) s = .next s) ∧
    (s.power.stage = .running → v < 1024 → off % 8 = 0 → off < 4096 →
      ((∀ k < 4, off ≠ 0x100 + 0x40 * k) → exec (.unsupportedRequest v off 8 true) s = .next s) ∧
      let reads := fun (x : DWord) => exec (.unsupportedRequest v off 8 false) s = .next { s with hostOut := s.hostOut ++ [.pageData v off x] }
      (off = 0 → reads (BitVec.ofNat 64 v)) ∧ (off = 8 → reads (s.vf v).chainBase) ∧ (off = 0x10 → reads (s.vf v).irqLost) ∧
      (0x18 ≤ off → off < 0x100 ∨ 0x200 ≤ off → reads 0) ∧
      ∀ k f p, k < 4 → RecordHere s v k p →
        (off = 0x100 + 0x40 * k + 0x08 ∧ f = 0x10 ∨ off = 0x100 + 0x40 * k + 0x10 ∧ f = 0x20 ∨ off = 0x100 + 0x40 * k + 0x18 ∧ f = 0x28 ∨
          off = 0x100 + 0x40 * k + 0x20 ∧ f = 0x30 ∨ off = 0x100 + 0x40 * k + 0x28 ∧ f = 0x38) →
        reads (BitVec.ofNat 64 (devNat s (p + f) 8)))

/-- 18 R382, R383: the block at HEAD starts when its waits hold and its checks pass: STARTED counts it, STATUS and GRIDTAG are written, and its
grid is entered. -/
def BlockStarts : Prop :=
  ∀ v k (s : State) p px py rs ps affs, (Tbl.get (default : Chain) (s.vf v).chains k).cur = none → ChainFree s v k p → RecordHere s v k p →
      let x := devNat s p 8 % 2 ^ 56
      let b := LBlock.ofBytes (s.stillBytes px 256)
      x ≠ 0 → s.devWaits v x = false → DevReaches s v x false px →
      (∀ w ∈ b.waits.take b.nwait, ∃ q, DevReaches s v w.1 false q ∧ w.2 ≤ devNat s q 8) →
      let n := devNat s (p + 0x18) 8 + 1
      let s1 := s.devPut (p + 0x18) (leBytes 8 n)
      BlockFits s1 v b rs ps affs → DevReaches s1 v (x + 0x90) true py →
      let s2 := (s1.devPut py (leBytes 8 0)).devPut (py + 8) (leBytes 4 s.nextTag.toNat)
      Gives (.blockStart v k) s fun t => t.mem = s2.mem ∧
        t.nextTag = (if s.nextTag = 0xFFFFFFFF then 1 else s.nextTag + 1) ∧
          (Tbl.get (default : Chain) (t.vf v).chains k).cur = some (BitVec.ofNat 56 x) ∧
          ∃ g, t.grids = s.grids ++ [g] ∧ g.vf = v ∧ g.tag = s.nextTag ∧ g.chain = k ∧ g.s = BitVec.ofNat 64 n ∧ g.gx = b.gx ∧ g.gy = b.gy ∧
            g.gz = b.gz ∧ g.roles = rs ∧ g.next = 0 ∧ g.live = 0 ∧ g.ftcap = b.ftcap ∧
            g.teams = b.gx * b.gy * b.gz / groupCount rs

/-- 18 R382: the scheduler follows NEXT, or finds the chain's end. -/
def ChainAdvances : Prop :=
  ∀ v k (s : State) x p px, (Tbl.get (default : Chain) (s.vf v).chains k).cur = some x → ChainFree s v k p → RecordHere s v k p →
    DevReaches s v x.toNat false px → let next := devNat s px 8 % 2 ^ 56
    (next = 0 → devNat s (p + 8) 8 % 2 ^ 56 = x.toNat) → Gives (.chainAdvance v k) s fun t =>
      (Tbl.get (default : Chain) (t.vf v).chains k).cur = none ∧ t.mem = (s.devPut p (leBytes 8 next)).mem

/-- 01 R26: the 96 bytes of a frame, field by field. -/
def FrameLayout : Prop :=
  ∀ f : Frame, let b := Frame.bytes f
    b.length = 96 ∧ fieldAt b 0 4 = f.pc.toNat ∧ fieldAt b 4 2 = f.pred.toNat / 2 * 2 ∧
      fieldAt b 6 2 = f.depth.toNat * 2 ^ 12 + f.principal.toNat ∧ fieldAt b 8 2 = f.kind.toNat * 2 ^ 12 + f.vf.toNat ∧
      fieldAt b 0xA 2 = f.khandle.toNat ∧ fieldAt b 0xC 4 = f.grid.toNat ∧ fieldAt b 0x10 8 = f.target.toNat ∧
      fieldAt b 0x18 2 = f.srcPkg.toNat ∧
      fieldAt b 0x1A 2 = (if f.bounce then 2 ^ 15 else 0) + (if f.poison then 2 ^ 14 else 0) + f.srcCore.toNat ∧
      fieldAt b 0x1C 4 = f.vfPkg.toNat ∧ ∀ n < 16, fieldAt b (0x20 + 4 * n) 4 = (f.gregs.getD n 0).toNat

/-- A frame carries a free thread to an address (01 R24, R26). -/
structure Carries (f : Frame) (h : Thread) (va : DWord) : Prop where
  pc : f.pc = h.pc
  who : f.principal = h.principal ∧ f.vf = h.vf ∧ f.khandle = h.khandle ∧ f.grid = h.grid ∧ f.depth = h.depth
  target : f.target = va.setWidth 56
  preds : ∀ n < 16, 0 < n → f.pred.getLsbD n = h.preds.getLsbD n
  regs : ∀ n < 16, f.gregs[n]? = some (h.reg n).val

/-- 01 R25, R26, R31: the first hop accepts a departing thread where it has link credit; 21 R439: the frame for another package becomes a packet
of class 2 at the port of the thread's die, where no firewall of this package is met on the way there. 03 R83: no engine operation of the
thread still writes global memory, by the model's choice (log 99). -/
def HopAccepted : Prop :=
  ∀ c x va d (s : State), s.engineOpen .fab c x = false →
    ((s.thread c x).st = .departing va (.core d) → (∀ f ∈ s.flights, f.core = d → f.refused = false) →
      Gives (.firstHopAccept c x) s fun t => (t.thread c x).st = .none ∧ t.mem = s.mem ∧ ∃ f, t.flights = s.flights ++ [f] ∧
        f.core = d ∧ Carries f.frame (s.thread c x) va) ∧
    ∀ pkg, (s.thread c x).st = .departing va (.far pkg d) → s.isAway c pkg = false →
      s.migWall (s.mkFrame c (s.thread c x) va.toNat) (crossOut c (outPort c pkg) pkg d) = none →
      Gives (.firstHopAccept c x) s fun t => (t.thread c x).st = .none ∧ t.mem = s.mem ∧ t.flights = s.flights ∧ ∃ k f,
        (t.port (2 * dieOf c + pkg % 2)).queue = (s.port (2 * dieOf c + pkg % 2)).queue ++ [(k, none)] ∧
        k.body = .frame f (BitVec.ofNat 9 d) ∧ k.cls = 2 ∧ k.dstPkg = BitVec.ofNat 16 pkg ∧ Carries f (s.thread c x) va

/-- No earlier frame of the same source and destination is still on its way (01 R25: in order). -/
def InOrder (s : State) (n : Nat) (f : Flight) : Prop :=
  ∀ g ∈ s.flights.take n, g.core ≠ f.core ∨ g.frame.srcCore ≠ f.frame.srcCore ∨ g.frame.srcPkg ≠ f.frame.srcPkg ∨
    g.frame.bounce ≠ f.frame.bounce

/-- 19 R391: a frame of a VF that may not run beyond a firewall bounces there, and is counted. -/
def FrameBounced : Prop :=
  ∀ n (s : State) f p, s.flights[n]? = some f → InOrder s n f → s.frameWall f = some p →
      f.frame.srcPkg = s.fabnum → Gives (.firewallBounce n) s fun t =>
        t.flights = s.flights.eraseIdx n ++ [⟨{ f.frame with bounce := true }, s.fabnum.toNat, f.frame.srcCore.toNat, f.port, false⟩] ∧
        Tbl.get 0 t.fwbounce p = Tbl.get 0 s.fwbounce p + 1

/-- 01 R29, R30: a frame joins the arrival queue, with its port as the model numbers it (log 96). -/
def FrameJoins : Prop :=
  ∀ n (s : State) f, s.flights[n]? = some f → f.frame.kind.toNat ≤ 2 → (s.vf f.frame.vf.toNat).rst = false →
      s.frameWall f = none → InOrder s n f → (s.core f.core).overflow = [] → (s.core f.core).queue.length < 512 →
      Gives (.frameArrival n) s fun t => t.flights = s.flights.eraseIdx n ∧
        ∃ y, (t.core f.core).queue = (s.core f.core).queue ++ [y] ∧ y.frame = f.frame ∧ y.num = (s.core f.core).arrSeq ∧
          y.port = f.ingress ∧ (t.core f.core).arrSeq = y.num + 1

/-- 01 R30, R41: a frame becomes a thread, or parks. -/
def FrameAdmitted : Prop :=
  ∀ c x y (s : State), Admits s c x y → Gives (.admitCore c) s fun t =>
    let h := t.thread c x
    let f := y.frame
    (t.core c).queue = (s.core c).queue.filter (· ≠ y) ∧ h.pc = f.pc ∧ h.principal = f.principal ∧ h.vf = f.vf ∧
      h.khandle = f.khandle ∧ h.grid = f.grid ∧ h.depth = f.depth ∧ h.group = none ∧ h.slot = (s.core c).lowSlot ∧
      (∀ n w, f.gregs[n]? = some w → h.reg n = RegWord.ofVal w) ∧ (∀ n < 16, 0 < n → h.pred n = f.pred.getLsbD n) ∧
      (s.frameTrap c f = none → h.st = .ready) ∧
      ∀ e, s.frameTrap c f = some e → h.st = .parked ∧ ∃ u ∈ t.units, u.threads = [(0, x)] ∧ u.trap = e ∧ u.origin = 2

/-- 01 R34: a picker decides; with the last decision of the cycle the sets decided in it are issued. -/
def Picked : Prop :=
  ∀ c half (s : State) a, let rs := s.readyOf c half
      a ∈ rs → (∀ b ∈ rs, older a b = true ∧ b.2.kept = none) → (rs.map Prod.fst).Nodup → s.gapNow = false → half < 2 →
      (∀ d k es, s.events ≠ .pick d k :: es) →
      Gives (.pick c half) s fun t => (t.core c).count half = (s.core c).count half + 1 ∧
        ∃ iss, t.issues = s.issues ++ s.chosen ++ [iss] ∧ t.chosen = [] ∧ iss.core = c ∧ iss.pc = a.2.pc ∧ iss.lanes.head? = some a.1 ∧
          iss.lanes.length ≤ 64 ∧ iss.lanes.Nodup ∧
          (∀ x ∈ iss.lanes, ∃ b ∈ rs, b.1 = x ∧ s.classOf b.2 = s.classOf a.2) ∧
          (iss.lanes.length < 64 → ∀ b ∈ rs, s.classOf b.2 = s.classOf a.2 → b.1 ∈ iss.lanes)

/-- 08 R172, 13 R310: a short parcel. -/
def ShortParcels : Prop :=
  ∀ (n : BitVec 10) s iss rest x, s.issues = iss :: rest → iss.lanes.head? = some x →
      let k := s.kernelOf (s.thread iss.core x)
      let loaded := s.dictLoaded iss.core (s.thread iss.core x).vf.toNat (s.thread iss.core x).khandle.toNat
      (∀ w, k.dict[n.toNat]? = some w → loaded = true →
        exec (.shortParcel n) s = .next { s with issues := { iss with word := some w, len := 1 } :: rest }) ∧
      (∀ w, k.dict[n.toNat]? = some w → loaded = false → Gives (.shortParcel n) s fun t =>
        t.issues = rest ∧ ∀ x ∈ iss.lanes, (t.thread iss.core x).st = .waiting .dict) ∧
      (k.dict[n.toNat]? = none → Gives (.shortParcel n) s fun t =>
        t.issues = rest ∧ ∀ x ∈ iss.lanes, (t.thread iss.core x).st = .parked)

/-- 13 R310: a dictionary is loaded. -/
def DictionaryLoads : Prop :=
  ∀ c v h (s : State), s.dictLoaded c v h = false → let ds := (s.core c).dicts
    (ds.length < 4 → Gives (.dictionaryLoad c v h) s fun t =>
      ∃ d, (t.core c).dicts = ds ++ [d] ∧ d.vf = v ∧ d.handle = h ∧ d.used = false) ∧
    (4 ≤ ds.length → (∃ d ∈ ds, d.used = true) → Gives (.dictionaryLoad c v h) s fun t =>
      ∃ d, ∃ old ∈ ds, old.used = true ∧ (∀ e ∈ ds, e.used = true → old.last ≤ e.last) ∧
        (t.core c).dicts = ds.filter (· ≠ old) ++ [d] ∧ d.vf = v ∧ d.handle = h)

end Sys2Proof.Claims

open Sys2Proof Sys2Proof.Machine Sys2Proof.Safety Sys2Proof.Claims

/-- 09 R199, R200, R206: every instruction of the table of R199, and its XI form, writes its result, computed exactly and reduced modulo
2^n, in every active lane; `addc` and `subb` chain carries through a predicate that is both read and written. -/
def Obligations.IntegerResults : Prop :=
  ((∀ k f, IntBin k f → ∀ h t d a b, Completes2 (k h t d a b) h d a b (f t)) ∧
    (∀ k f, IntImm k f → ∀ h t d a i, Completes1 (k h t d a i) h d a fun x => f t x (immediate t i)) ∧
    (∀ k f, IntUn k f → ∀ h t d a, Completes1 (k h t d a) h d a (f t)) ∧
    ∀ k f, IntTern k f → ∀ h t d a b c, Completes3 (k h t d a b c) h d a b c (f t)) ∧
  (∀ h t d a b p,
    Completes (.addc h t d a b p) h (Src.refs a ++ Src.refs b ++ [.p p.toNat]) (Reg.refs d)
        (fun s l =>
          let r := value t (s.srcVal l a) + value t (s.srcVal l b) + carryIn l p
          destWrites d (result t r) ++ [(.p p.toNat, boolWord (r ≥ 2 ^ width t))]) ∧
      Completes (.subb h t d a b p) h (Src.refs a ++ Src.refs b ++ [.p p.toNat]) (Reg.refs d)
        fun s l =>
          let r := value t (s.srcVal l a) - value t (s.srcVal l b) - carryIn l p
          destWrites d (result t r) ++ [(.p p.toNat, boolWord (r < 0))])

/-- 09 R201, R202: the quotient is truncated toward zero, the remainder has the sign of a, with the values of R201 for division by zero and for
the quotient that does not fit; shifts and rotates. -/
def Obligations.DivisionsAndShifts : Prop :=
  (∀ h t d a b, Completes2 (.div h t d a b) h d a b (fun x y => result t (quotient t (value t x) (value t y))) ∧
    Completes2 (.rem h t d a b) h d a b fun x y => result t (remainder t (value t x) (value t y))) ∧
  (∀ k f, Shift k f → ∀ h t d a b, Completes2 (k h t d a b) h d a b (f t))

/-- 09 R203: bit fields and counts, bit by bit. -/
def Obligations.BitFieldResults : Prop :=
  (∀ h t d a f, Completes2 (.bfe h t d a f) h d a f (extracted t)) ∧
    (∀ h t d a b f, Completes3 (.bfi h t d a b f) h d a b f (inserted t)) ∧
    ∀ k f, BitUn k f → ∀ h t d a, Completes1 (k h t d a) h d a (f t)

/-- 09 R204, R205: `lea`, `mov`, `movi`, and `sel`, which reads the selected source alone. -/
def Obligations.MoveResults : Prop :=
  (∀ h t d a b c, Completes3 (.lea h t d a b c) h d a b c fun x y z =>
      BitVec.ofInt 64 (x.toNat + value t y * 2 ^ (count z % 64))) ∧
    (∀ h d a, Completes1 (.mov h d a) h d a fun x => x) ∧
    (∀ h d i, Completes (.movi h d i) h [] (Reg.refs d) fun _ _ => destWrites d (i.signExtend 64)) ∧
    ∀ h d a b p (s : State) iss rest, WellFormed (.sel h d a b p) = true → AtIssue s (.sel h d a b p) h iss rest →
      (∀ l ∈ active s iss rest h, l.t.predEmpty p.toNat = false ∧
        Readable (left s rest) l (Src.refs (if l.t.pred p.toNat then a else b)) ∧ Writable (left s rest) l (Reg.refs d)) →
      exec (.sel h d a b p) s = .next (written s iss rest h
        (fun l => destWrites d ((left s rest).srcVal l (if l.t.pred p.toNat then a else b))) fun _ => none)

/-- 06 R145: Round delivers the magnitude that its procedure chooses, or the overflow result where that exceeds the largest finite
value. -/
def Obligations.RoundingRule : Prop :=
  ∀ (f : FForm) (sat : Bool) (m : Rnd) (neg : Bool) (num den : Nat) (e : Int), 0 < num → 0 < den →
    let v : ℚ := chosen f m neg (num / den * 2 ^ e)
    if v > magnitude f f.maxCode then roundRat f sat m neg num den e = f.overflow sat m neg
    else ∃ c ≤ f.maxCode, roundRat f sat m neg num den e = f.signed neg c ∧ magnitude f c = v

/-- 09 R206 to R209, 06 R149 to R153: every floating-point instruction but those of R210 and R211 writes its exact result, rounded
once, in every active lane. The minima and maxima are those of the table; `fdiv`, `fsqrt`, `frcp` and `frsq` are the exact value rounded by the
procedure of 06 R145; `fex2`, `flg2`, `fsin`, `fcos` and `ftanh` take the exact values of 06 R153, and what they round elsewhere is the model's
own enclosure (log 9). -/
def Obligations.FloatResults : Prop :=
  (∀ k g, FloatBin k g → ∀ h t m d a b,
      Completes2 (k h t m d a b) h d a b fun x y => onHalves t (fun x y _ => g (fformOf t) m x y) x y 0) ∧
    (∀ k g, FloatMin k g → ∀ h t d a b,
      Completes2 (k h t d a b) h d a b fun x y => onHalves t (fun x y _ => g (fformOf t) x y) x y 0) ∧
    (∀ k g, FloatBinXi k g → ∀ h t m d a i,
      Completes1 (k h t m d a i) h d a fun x => onHalves t (fun x y _ => g (fformOf t) m x y) x (i.setWidth 64) 0) ∧
    (∀ k g, FloatMinXi k g → ∀ h t d a i,
      Completes1 (k h t d a i) h d a fun x => onHalves t (fun x y _ => g (fformOf t) x y) x (i.setWidth 64) 0) ∧
    (∀ k g, FloatUn k g → (∀ h m d a, Completes1 (k h m d a) h d a (onWord (g m))) ∧
      ∀ p, FloatValue k p → ∀ m x, p m x (g m x)) ∧
    (∀ m x y, Divides m x y (BitVec.ofNat 32 (fdivRound .f32 m (f32v x) (f32v y)))) ∧
    (∀ h m d a b, Completes2 (.fsub h m d a b) h d a b
      (onWord2 fun x y => toF32 m (fsum m [f32v x, (f32v y).neg]))) ∧
    (∀ h m d a b, Completes2 (.fdiv h m d a b) h d a b
      (onWord2 fun x y => BitVec.ofNat 32 (fdivRound .f32 m (f32v x) (f32v y)))) ∧
    (∀ h t m d a b c, Completes3 (.ffma h t m d a b c) h d a b c (onHalves t fun x y z =>
      let f := fformOf t
      rounded f m (fsum m [(f.decode x).mul (f.decode y), f.decode z]))) ∧
    ∀ h t m d a b c, Completes3 (.fdot2 h t m d a b c) h d a b c (onWord3 fun x y z =>
      let f := fformOf t
      toF32 m (fsum m [(f.decode (x.toNat % 65536)).mul (f.decode (y.toNat % 65536)),
        (f.decode (x.toNat / 65536)).mul (f.decode (y.toNat / 65536)), f32v z]))

/-- 09 R210, R211: `fabs`, `fneg` and `fsgn` change the sign bit alone; `frnd`, `ffrc` and `fscale`. -/
def Obligations.FloatSignsAndParts : Prop :=
  (∀ h t d a b, Completes1 (.fabs h t d a) h d a (onWord fun x => x &&& ~~~signMask t) ∧
    Completes1 (.fneg h t d a) h d a (onWord fun x => x ^^^ signMask t) ∧
    Completes2 (.fsgn h t d a b) h d a b (onWord2 fun x y => x &&& ~~~signMask t ||| y &&& signMask t)) ∧
  (∀ h m d a b, Completes1 (.frnd h m d a) h d a (onWord fun x =>
      match f32v x with
      | .nan => 0x7FC00000
      | .inf _ => x
      | .fin neg n e => if 2 ^ 23 ≤ magnitude .f32 (x.toNat % 2 ^ 31) then x
          else rounded .f32 m (.fin neg (roundInt m neg n e).natAbs 0)) ∧
    Completes1 (.ffrc h m d a) h d a (onWord fun x =>
      match f32v x with
      | .fin neg n e =>
        let v := fsum m [.fin neg n e, FVal.ofInt (-roundInt .rd neg n e)]
        if v.isZero then 0 else if toF32 m v = 0x3F800000 then 0x3F7FFFFF else toF32 m v
      | _ => 0x7FC00000) ∧
    Completes2 (.fscale h m d a b) h d a b (onWord2 fun x y =>
      match f32v x with
      | .nan => 0x7FC00000
      | .inf _ => x
      | .fin neg n e => toF32 m (.fin neg n (e + y.toInt))))

/-- 09 R212, R213: `cvt` and `cvt.pack`. -/
def Obligations.Conversions : Prop :=
  (∀ h t u m sat d a, Completes1 (.cvt h t u m sat d a) h d a (converted t u m sat)) ∧
    ∀ h t m d a b c, Completes (.cvtPack h t m d a b c) h
      (Src.refs a ++ Src.refs b ++ if t = .f16x2 ∨ t = .bf16x2 then [] else Src.refs c) (Reg.refs d) fun s l =>
        destWrites d (onWord3 (packedFloats t m) (s.srcVal l a) (s.srcVal l b) (s.srcVal l c))

/-- 09 R214 to R217: `qpack` and `qunpack` complete where the tag of every active lane has FMT 0; `bsel`, `pack` and `unpack`. -/
def Obligations.Packing : Prop :=
  ((∀ h d a b c (s : State) iss rest, WellFormed (.qpack h d a b c) = true → AtIssue s (.qpack h d a b c) h iss rest →
      Able s iss rest h (eightRefs a ++ Src.refs b) (Reg.refs d ++ Reg.refs c) →
      (∀ l ∈ active s iss rest h, tagFmt (((left s rest).srcVal l b).toNat % 2 ^ 16) = 0) →
      exec (.qpack h d a b c) s = .next (written s iss rest h
        (fun l =>
          let tag := ((left s rest).srcVal l b).toNat % 2 ^ 16
          destWrites d (q4Codes tag (eight (left s rest) l a)) ++ destWrites c (q4Tag tag (eight (left s rest) l a)))
        fun _ => none)) ∧
    ∀ h m d a b (s : State) iss rest, WellFormed (.qunpack h m d a b) = true → AtIssue s (.qunpack h m d a b) h iss rest →
      Able s iss rest h (Src.refs a ++ Src.refs b) (eightRefs d) →
      (∀ l ∈ active s iss rest h, tagFmt (((left s rest).srcVal l b).toNat % 2 ^ 16) = 0) →
      exec (.qunpack h m d a b) s = .next (written s iss rest h
        (fun l => (eightRefs d).zipIdx.map fun e =>
          (e.1, q4Element m (((left s rest).srcVal l b).toNat % 2 ^ 16) ((left s rest).srcVal l a) e.2))
        fun _ => none)) ∧
  ((∀ h d a b c, Completes3 (.bsel h d a b c) h d a b c (onWord3 fun x y z =>
      (((List.range 4).map fun i => selected x y z i * 256 ^ i).sum : Nat))) ∧
    (∀ h t sat d a b c, Completes (.pack h t sat d a b c) h
      (Src.refs a ++ Src.refs b ++ if width t = 8 then Src.refs c else []) (Reg.refs d) fun s l =>
        destWrites d (onWord3 (packed t sat) (s.srcVal l a) (s.srcVal l b) (s.srcVal l c))) ∧
    ∀ h t d a b, Completes2 (.unpack h t d a b) h d a b fun x y =>
      result t (count x / 2 ^ (count y % (32 / width t) * width t) : Nat))

/-- 09 R218 to R221: comparisons and classes set their predicate; predicate logic; moves between predicates and registers. -/
def Obligations.Predicates : Prop :=
  ((∀ h c t p a b, Completes (.setp h c t p a b) h (Src.refs a ++ Src.refs b) [.p p.toNat] fun s l =>
      [(.p p.toNat, boolWord (compares c (value t (s.srcVal l a)) (value t (s.srcVal l b))))]) ∧
    (∀ h mask p a b, Completes (.fsetp h mask p a b) h (Src.refs a ++ Src.refs b) [.p p.toNat] fun s l =>
      [(.p p.toNat, boolWord (mask.getLsbD (outcome ((s.srcVal l a).setWidth 32) ((s.srcVal l b).setWidth 32))))]) ∧
    ∀ h p a b, Completes (.fclass h p a b) h (Src.refs a ++ Src.refs b) [.p p.toNat] fun s l =>
      [(.p p.toNat, boolWord ((s.srcVal l b).getLsbD (classOf ((s.srcVal l a).setWidth 32))))]) ∧
  ((∀ k f, PredBin k f → ∀ h p a b na nb, Completes (k h p a b na nb) h [.p a.toNat, .p b.toNat] [.p p.toNat] fun _ l =>
      [(.p p.toNat, boolWord (f (l.t.pred a.toNat != na) (l.t.pred b.toNat != nb)))]) ∧
    (∀ h p a, Completes (.pnot h p a) h [.p a.toNat] [.p p.toNat] fun _ l => [(.p p.toNat, boolWord (!l.t.pred a.toNat))]) ∧
    (∀ h p a, Completes (.pmov h p a) h [.p a.toNat] [.p p.toNat] fun _ l => [(.p p.toNat, boolWord (l.t.pred a.toNat))]) ∧
    (∀ h d, Completes (.pmovGet h d) h ((List.range 16).map WRef.p) (Reg.refs d) fun _ l =>
      destWrites d (ofBits 16 fun n => l.t.pred n : Nat)) ∧
    ∀ h d a (s : State) iss rest, WellFormed (.pmovPut h d a) = true → AtIssue s (.pmovPut h d a) h iss rest →
      (∀ l ∈ active s iss rest h, Readable (left s rest) l (Src.refs a ++ Reg.refs d) ∧
        Writable (left s rest) l ((putMask ((left s rest).srcVal l a)).map WRef.p)) →
      exec (.pmovPut h d a) s = .next (written s iss rest h
        (fun l => (putMask ((left s rest).srcVal l a)).map fun n => (.p n, boolWord (((left s rest).regVal l d).getLsbD n)))
        fun _ => none))

/-- 09 R223, R225: the branches move the PCs of active lanes to their targets; a call writes g15, the PC after it; `nop` changes
nothing. -/
def Obligations.Branches : Prop :=
  ∀ h off a,
    Completes (.bra h off) h [] [] (fun _ _ => []) (fun _ l => some (l.t.pc + off)) ∧
      Completes (.braInd h a) h (Src.refs a) [] (fun _ _ => []) (fun s l => some ((s.srcVal l a).setWidth 32)) ∧
      Completes (.call h off) h [] [.g 15] (fun _ l => [(.g 15, l.t.pc + BitVec.ofNat 32 l.len)])
        (fun _ l => some (l.t.pc + off)) ∧
      Completes (.callInd h a) h (Src.refs a) [.g 15] (fun _ l => [(.g 15, l.t.pc + BitVec.ofNat 32 l.len)])
        (fun s l => some ((s.srcVal l a).setWidth 32)) ∧
      Completes (.ret h) h [.g 15] [] (fun _ _ => []) (fun _ l => some (l.t.reg 15).val) ∧
      Completes (.nop h) h [] [] fun _ _ => []

/-- 09 R224, 02 R68, 01 R21, R40, R43: `exit` completes where every register word and predicate of its active lanes is FULL and no request of
theirs is outstanding; an exit releases the context and reports one thread to the scheduler of the grid, with a unit of its VF's cap where
the thread is free; a group treats its member as exited. -/
def Obligations.Exits : Prop :=
  (∀ h (s : State) iss rest, AtIssue s (.exit h) h iss rest → OneUnit (lanesOf s iss rest h) →
    (∀ l ∈ active s iss rest h,
      Writable (left s rest) l ((List.range ((left s rest).budget l.core l.t)).map WRef.g ++ (List.range 16).map WRef.p) ∧
        (left s rest).drained l.core l.ctx = true) →
    exec (.exit h) s = .next (acted s iss rest h fun l s => s.exitThread l.core l.ctx)) ∧
  (∀ (s : State) (c x : Nat), (s.thread c x).st ≠ .none →
    let t := s.thread c x
    let u := s.exitThread c x
    (u.thread c x).st = .none ∧ (u.mem = s.mem ∧ u.hostMem = s.hostMem) ∧
      (t.vfPkg = s.fabnum → ∃ more, u.decs = s.decs ++ ⟨t.vf.toNat, t.grid, true, t.group.isNone⟩ :: more) ∧
      ∀ g n, t.group = some (g, n) → (u.group c g).live = true → n ∈ (u.group c g).exited)

/-- 09 R225, 01 R34: `yield` gives its active lanes the age stamp D + 64 and moves them on. -/
def Obligations.YieldStamp : Prop :=
  ∀ h (s : State) iss rest, AtIssue s (.yield h) h iss rest → OneUnit (lanesOf s iss rest h) →
    exec (.yield h) s = .next (acted s iss rest h fun l s => s.modThread l.core l.ctx fun t =>
      { t.moveTo (l.t.pc + BitVec.ofNat 32 l.len) with st := .ready, stamp := (s.core l.core).count (l.ctx % 2) + 64 })

/-- 09 R194, R197, R222: an instruction of classes 0 to 3 other than `exit`, or `srd`, changes PC, readiness and destinations of its
lanes and nothing else, unless a lane traps. -/
def Obligations.ValueFrame : Prop :=
  ∀ i h dst, Writes i h dst → ∀ (s : State) iss rest t, s.issues = iss :: rest → exec i s = .next t → t.nextUnit = s.nextUnit →
    LaneFrame s t iss dst

/-- 08 R175, 09 R194, R197: of an issue that completes, every active lane holds what it wrote and goes on; a lane whose guard is
false goes on at the next instruction with its registers and predicates as they were. -/
def Obligations.CompletedLanes : Prop :=
  ∀ (s : State) iss rest h ws pc, Together (lanesOf s iss rest h) → iss.lanes.Nodup →
    (∀ l ∈ lanesOf s iss rest h, l.t.st ≠ .none) →
    (∀ l ∈ active s iss rest h,
      let t := (written s iss rest h ws pc).thread iss.core l.ctx
      t.pc = (pc l).getD l.nextPc ∧ t.st = .ready ∧
        (∀ n w, WritesOnly (ws l) (.g n) w → t.reg n = RegWord.ofVal w) ∧
        ∀ n w, 0 < n → n < 16 → WritesOnly (ws l) (.p n) w → t.pred n = w.getLsbD 0 ∧ t.predEmpty n = false) ∧
    ∀ l ∈ lanesOf s iss rest h, guardEmpty h l.t = false → guardVal h l.t = false →
      let t := (written s iss rest h ws pc).thread iss.core l.ctx
      t.pc = l.nextPc ∧ t.st = .ready ∧ t.regs = l.t.regs ∧ t.preds = l.t.preds ∧ t.pempty = l.t.pempty

/-- 08 R187: of several active lanes that write one uniform register the highest-numbered one decides; with no active lane it is not
written; a write to p0 is discarded. -/
def Obligations.UniformWrites : Prop :=
  ∀ (s : State) iss rest h ws pc g, (∀ l ∈ lanesOf s iss rest h, l.t.group.map Prod.fst = some g ∧ l.t.st ≠ .none) →
    (lanesOf s iss rest h).Pairwise (fun a b => a.lane < b.lane) →
    let t := written s iss rest h ws pc
    (∀ l n w, (active s iss rest h).getLast? = some l → WritesOnly (ws l) (.s n) w →
      (t.group iss.core g).sreg n = RegWord.ofVal w) ∧
    (active s iss rest h = [] → ∀ n, (t.group iss.core g).sreg n = (s.group iss.core g).sreg n) ∧
    ∀ x, (t.thread iss.core x).pred 0 = true ∧ (t.thread iss.core x).predEmpty 0 = false

/-- 10 R229 to R235, R238: a load, store, atomic or reduction of global memory issues one request for each active lane and goes on; the
destination and the data are those of the instruction. -/
def Obligations.AccessesIssued : Prop :=
  ∀ h t tf d v base disp op scope,
    Accesses (.ldG h t tf d base disp) h (Reg.refs base) (Reg.refs d)
        (fun s l => { accessOf .load (address s l base disp) t tf with dst := some d }) ∧
      Accesses (.ldAcq h t tf d base disp) h (Reg.refs base) (Reg.refs d)
        (fun s l => { accessOf .load (address s l base disp) t tf with dst := some d, acq := true }) ∧
      Accesses (.stG h t tf v base disp) h (Reg.refs base ++ Src.refs v) []
        (fun s l => { accessOf .store (address s l base disp) t tf with data := stored t (s.srcVal l v) }) ∧
      Accesses (.atomG h op t tf d base disp v) h (Reg.refs base ++ casRefs op d ++ Src.refs v) (Reg.refs d)
        (fun s l => { accessOf .atomic (address s l base disp) t tf with
          op := op, data := stored t (s.srcVal l v), expected := if op = .cas then s.regVal l d else 0, dst := some d }) ∧
      Accesses (.redG h op t tf v base disp) h (Reg.refs base ++ Src.refs v) []
        (fun s l => { accessOf .red (address s l base disp) t tf with op := op, data := stored t (s.srcVal l v) }) ∧
      ∀ s iss rest (g : Lane → Region) (hm : Lane → Home), AtIssue s (.stRel h scope t tf v base disp) h iss rest →
        WellFormed (.stRel h scope t tf v base disp) = true → OneUnit (lanesOf s iss rest h) →
        (∀ l ∈ active s iss rest h, let u := passed s iss rest h
          u.fenceOpen scope l.core l.ctx = false ∧ (scope = .fab → u.flushPkgs l.t = []) ∧
            Readable u l (Reg.refs base ++ Src.refs v) ∧ noAcquire u l ∧
            Reaches u l { accessOf .store (address u l base disp) t tf with data := stored t (u.srcVal l v) } (g l) (hm l)) →
        exec (.stRel h scope t tf v base disp) s = .next (acted s iss rest h fun l u =>
          u.issueAccess l { accessOf .store (address (passed s iss rest h) l base disp) t tf with
            data := stored t ((passed s iss rest h).srcVal l v) } (g l) (hm l))

/-- 10 R233, R236, 02 R56, R57: `ld.ro` delivers a hit of its slice and sends a request for a miss; `pf.ro` sends a request for a sector
that its slice lacks; `mcst` sends one to the primary replica. -/
def Obligations.CachedAndReplicated : Prop :=
  ∀ h t tf d v base disp s iss rest (g : Lane → Region) (hm : Lane → Home), OneUnit (lanesOf s iss rest h) →
    let u := passed s iss rest h
    let ro := fun (l : Lane) => { accessOf .ro (address u l base disp) t tf with dst := some d : Access }
    let pf := fun (l : Lane) => { accessOf .prefetch (address u l base disp / 256 * 256) .b32 false with dst := none : Access }
    let mc := fun (l : Lane) => { accessOf .mcst (address u l base disp) t false with data := stored t (u.srcVal l v) : Access }
    (WellFormed (.ldRo h t tf d base disp) = true → AtIssue s (.ldRo h t tf d base disp) h iss rest →
      (∀ l ∈ active s iss rest h, Readable u l (Reg.refs base) ∧ noAcquire u l ∧ Writable u l (Reg.refs d) ∧ (ro l).a < 2 ^ 56 ∧
        u.homeOf l.t.vf.toNat (ro l).a l.core = .ok (g l, hm l) ∧ (ro l).a % bytesOf t = 0) →
      ((∀ l ∈ active s iss rest h, u.roFind l.t.vf.toNat (ro l).a l.core = none ∧ (hm l = .core l.core →
          (∀ e, u.homeCheck l.t.vf.toNat l.t.principal.toNat (ro l).a .ro tf l.core (g l) ≠ .trap e) ∧
          u.homeCheck l.t.vf.toNat l.t.principal.toNat (ro l).a .ro tf l.core (g l) ≠ .wait)) →
        exec (.ldRo h t tf d base disp) s = .next (acted s iss rest h fun l w => w.issueAccess l (ro l) (g l) (hm l))) ∧
      ∀ (k : Lane → RoLine) (bs : Lane → List Byte), (∀ l ∈ active s iss rest h, u.roFind l.t.vf.toNat (ro l).a l.core = some (k l, bs l) ∧
          u.heldNow l false (some (ro l).a) = false ∧ u.lineHeld (sliceOf (ro l).a l.core) (ro l).a = false) →
        exec (.ldRo h t tf d base disp) s = .next (acted s iss rest h fun l w => w.roHit l (ro l) d (g l).isHost (k l) (bs l))) ∧
    (WellFormed (.pfRo h base disp) = true → AtIssue s (.pfRo h base disp) h iss rest →
      (∀ l ∈ active s iss rest h, Readable u l (Reg.refs base) ∧ noAcquire u l ∧ address u l base disp < 2 ^ 56 ∧
        u.homeOf l.t.vf.toNat (address u l base disp) l.core = .ok (g l, hm l) ∧ (g l).win = false ∧ (g l).func ≠ 4 ∧
        u.sliceLive (sliceOf (address u l base disp) l.core) = true ∧
        u.roFind l.t.vf.toNat (address u l base disp) l.core = none) →
      exec (.pfRo h base disp) s = .next (acted s iss rest h fun l w => w.issueAccess l (pf l) (g l) (hm l))) ∧
    (WellFormed (.mcst h t v base disp) = true → AtIssue s (.mcst h t v base disp) h iss rest →
      (∀ l ∈ active s iss rest h, Readable u l (Reg.refs base ++ Src.refs v) ∧ noAcquire u l ∧ (mc l).a < 2 ^ 56 ∧
        u.homeOf l.t.vf.toNat (mc l).a l.core = .ok (g l, hm l) ∧ (mc l).a % bytesOf t = 0 ∧ (g l).func = 4 ∧
        (u.primaryOf (g l) (mc l).a = .core l.core →
          (∀ e, u.homeCheck l.t.vf.toNat l.t.principal.toNat (mc l).a .mcst false l.core (g l) ≠ .trap e) ∧
          u.homeCheck l.t.vf.toNat l.t.principal.toNat (mc l).a .mcst false l.core (g l) ≠ .wait)) →
      exec (.mcst h t v base disp) s = .next (acted s iss rest h fun l w =>
        w.issueAccess l (mc l) (g l) (u.primaryOf (g l) (mc l).a)))

/-- 10 R229, R231, 02 R52, R66: issuing an access adds one request with the access's address, size and data, makes every word of its
destination EMPTY, moves the thread past the instruction, and changes no memory. -/
def Obligations.RequestIssued : Prop :=
  ∀ (s : State) (l : Lane) (x : Access) (g : Region) (hm : Home), (s.thread l.core l.ctx).st ≠ .none →
    let t := s.issueAccess l x g hm
    (∃ r ∈ t.reqs, r.id = s.nextReq ∧ r.kind = x.kind ∧ r.va = BitVec.ofNat 64 x.a ∧ r.size = x.size ∧ r.data = x.data ∧
        r.dst = x.dst ∧ r.home = hm ∧ r.core = l.core ∧ r.ctx = l.ctx ∧ r.principal = l.t.principal ∧ r.vf = l.t.vf) ∧
      t.reqs.length = s.reqs.length + 1 ∧ t.nextReq = s.nextReq + 1 ∧ t.mem = s.mem ∧ t.hostMem = s.hostMem ∧
      (t.thread l.core l.ctx).pc = l.nextPc ∧
      ∀ d r, x.dst = some d → r ∈ Reg.refs d → (∀ n, r = .s n → (s.thread l.core l.ctx).group ≠ none) →
        t.isEmpty l.core (t.thread l.core l.ctx) r = true

/-- 10 R232 to R235, 02 R60, R61, 00 R4: scratchpad accesses complete at once: a load writes the bytes' value, a store writes the low bytes of
its source, an atomic reads, writes its new value and returns the old one. A store changes the bytes at its offset alone, the least
significant first; all of memory stays where no `wait.ctr` traps on the update (12 R296). -/
def Obligations.ScratchpadAccesses : Prop :=
  (∀ h op t d v base disp (s : State) iss rest,
    let u := passed s iss rest h
    let a := fun (l : Lane) => spOffset u l base disp
    let sp := fun (l : Lane) => u.team l.core (u.teamOf l)
    (WellFormed (.ldS h t d base disp) = true → AtIssue s (.ldS h t d base disp) h iss rest →
      (∀ l ∈ active s iss rest h, Readable u l (Reg.refs base) ∧ noAcquire u l ∧ Writable u l (Reg.refs d) ∧
        SpReaches u l false (a l) (bytesOf t) ∧ (sp l).spBad (a l) (bytesOf t) = false) →
      exec (.ldS h t d base disp) s = .next (acted s iss rest h fun l w =>
        w.complete l (destWrites d (loaded t (Mem.readNat (sp l).sp (a l) (bytesOf t)))) none)) ∧
    (WellFormed (.stS h t v base disp) = true → AtIssue s (.stS h t v base disp) h iss rest →
      (∀ l ∈ active s iss rest h, Readable u l (Reg.refs base ++ Src.refs v) ∧ noAcquire u l ∧
        SpReaches u l true (a l) (bytesOf t)) →
      exec (.stS h t v base disp) s = .next (acted s iss rest h fun l w =>
        (w.spUpdate l (a l) (leBytes (bytesOf t) (stored t (u.srcVal l v)).toNat)).complete l [] none)) ∧
    (WellFormed (.atomS h op t d base disp v) = true → AtIssue s (.atomS h op t d base disp v) h iss rest →
      (∀ l ∈ active s iss rest h, Readable u l (Reg.refs base ++ casRefs op d ++ Src.refs v) ∧ noAcquire u l ∧
        Writable u l (Reg.refs d) ∧ SpReaches u l true (a l) (bytesOf t) ∧ (sp l).spBad (a l) (bytesOf t) = false) →
      exec (.atomS h op t d base disp v) s = .next (acted s iss rest h fun l w =>
        let old : DWord := (Mem.readNat (w.team l.core (w.teamOf l)).sp (a l) (bytesOf t) : Nat)
        let w' := match atomicValue op t old (u.srcVal l v) (u.regVal l d) with
          | some x => w.spUpdate l (a l) (leBytes (bytesOf t) x)
          | none => w
        w'.complete l (destWrites d old) none))) ∧
  (∀ (s : State) (l : Lane) (a n v : Nat),
    let t := s.spUpdate l a (leBytes n v)
    let tm := fun (s : State) => s.team l.core (s.teamOf l)
    (t.team l.core (s.teamOf l)).sp = Mem.write (tm s).sp a (leBytes n v) ∧
      (∀ k, k < n → Mem.get (t.team l.core (s.teamOf l)).sp (a + k) = BitVec.ofNat 8 (v / 256 ^ k)) ∧
      (∀ b, b < a ∨ a + n ≤ b → Mem.get (t.team l.core (s.teamOf l)).sp b = Mem.get (tm s).sp b) ∧
      (∀ c k, c ≠ l.core ∨ k ≠ s.teamOf l → t.team c k = s.team c k) ∧
      (t.nextUnit = s.nextUnit → (∀ b, Mem.get t.mem b = Mem.get s.mem b) ∧ ∀ b, Mem.get t.hostMem b = Mem.get s.hostMem b))

/-- 10 R237, 03 R83: a fence completes where every earlier access of its active lanes in its scope is performed and, for `.fab`, no other
package was written to since the last one; it changes nothing. -/
def Obligations.FenceCompletes : Prop :=
  ∀ h scope (s : State) iss rest, AtIssue s (.fence h scope) h iss rest → OneUnit (lanesOf s iss rest h) →
    (∀ l ∈ active s iss rest h, (passed s iss rest h).fenceOpen scope l.core l.ctx = false ∧
      (scope = .fab → (passed s iss rest h).flushPkgs l.t = [])) →
    exec (.fence h scope) s = .next (acted s iss rest h fun l u => u.complete l [] none)

/-- 11 R259, R260, R262 to R266: the cross-lane instructions. -/
def Obligations.CrossLane : Prop :=
  (∀ h mode t d a b c n, ∀ (s : State) iss rest, WellFormed (.shfl h mode t d a b c) = true →
      Released s (.shfl h mode t d a b c) h iss rest →
      (∀ l ∈ active s iss rest h, widthPower (left s rest) l n ∧ Readable (left s rest) l (Src.refs a ++ Src.refs b ++ Src.refs c) ∧
        Writable (left s rest) l (Reg.refs d)) →
      exec (.shfl h mode t d a b c) s = .next (acted s iss rest h fun l u =>
        let v := fun x => (left s rest).srcVal l x
        u.complete l (destWrites d (match shuffleFrom mode n l.lane (count (v b)) (count (v c)) with
          | some j => laneValue (left s rest) (active s iss rest h) a (v a) j
          | none => v a)) none)) ∧
    (∀ h op d p, SetCompletes (.lpred h op d p) h [.p p.toNat] (VDst.refs d) fun _ ls _ => VDst.writes d (vote op ls p)) ∧
    (∀ h op t d a, SetCompletes (.peers h op t d a) h (Src.refs a) (Reg.refs d) fun s ls l =>
      destWrites d (peersValue s op t a ls l)) ∧
    (∀ h t d a b c, SetCompletes (.lcompress h t d a b c) h (Src.refs a ++ [.p b.toNat]) (Reg.refs d ++ Reg.refs c) fun s ls l =>
      let ks := chosenLanes ls b
      destWrites d ((ks[below ls l]?.map fun k => s.srcVal k a).getD 0) ++ destWrites c (ks.length : Nat)) ∧
    (∀ h t d a b c, SetCompletes (.lexpand h t d a b c) h (Src.refs a ++ Src.refs c ++ [.p b.toNat]) (Reg.refs d) fun s ls l =>
      destWrites d (if l.t.pred b.toNat then (ls[below (chosenLanes ls b) l]?.map fun k => s.srcVal k a).getD 0
        else s.srcVal l c)) ∧
    ∀ h, SetCompletes (.gwait h) h [] [] fun _ _ _ => []

/-- 11 R261 to R263: reductions and scans, in the orders that the rules give. -/
def Obligations.Reductions : Prop :=
  (∀ h op t m d a n (s : State) iss rest, WellFormed (.redux h op t m d a) = true → Released s (.redux h op t m d a) h iss rest →
      (∀ l ∈ active s iss rest h, widthPower (left s rest) l n ∧ Readable (left s rest) l (Src.refs a) ∧
        Writable (left s rest) l (Reg.refs d)) →
      exec (.redux h op t m d a) s = .next (acted s iss rest h fun l u => u.complete l (destWrites d
        (balanced (RedOp.combine op t m)
          (laneValue (left s rest) (active s iss rest h) a (RedOp.ident op t)) n 0)) none)) ∧
    (∀ h op ex t m d a, SetCompletes (.scan h op ex t m d a) h (Src.refs a) (Reg.refs d) fun s ls l =>
      destWrites d (leftToRight (RedOp.combine op t m) (RedOp.ident op t)
        (laneValue s ls a (RedOp.ident op t)) 0 (if ex then l.lane else l.lane + 1))) ∧
    ∀ h ex t d a b c op (s : State) iss rest,
      let ls := active s iss rest h
      let v := laneValue (left s rest) ls a (RedOp.ident op t)
      let total := fun lo hi => leftToRight (RedOp.combine op t .rn) (RedOp.ident op t) v lo hi
      (∀ l ∈ ls, Readable (left s rest) l (Src.refs c ++ Src.refs a ++ [.p b.toNat]) ∧ Writable (left s rest) l (Reg.refs d)) →
      segmentOp ls (left s rest) c = some op → RedOp.tyOk t op = true →
      (WellFormed (.segscan h ex t d a b c) = true → Released s (.segscan h ex t d a b c) h iss rest →
        exec (.segscan h ex t d a b c) s = .next (acted s iss rest h fun l u => u.complete l
          (destWrites d (total (segmentStart ls b l.lane) (if ex then l.lane else l.lane + 1))) none)) ∧
      (WellFormed (.segred h t d a b c) = true → Released s (.segred h t d a b c) h iss rest →
        exec (.segred h t d a b c) s = .next (acted s iss rest h fun l u => u.complete l
          (destWrites d (total (segmentStart ls b l.lane) (segmentEnd ls b l.lane + 1))) none))

/-- 11 R267, R268, R272 to R274, 04 R110, 02 R66: a matrix instruction whose operands are readable, whose checks pass and for which the queue
has room joins the queue of its core's engine, LOCKs every register that it reads there (the A words, the metadata words and the tag words),
makes its token, or the 2k list words of `mtopk`, EMPTY; its threads go on. With a row count of 0 nothing is queued and the token is written 0.
Memory does not change. -/
def Obligations.MatrixQueued : Prop :=
  (∀ i h grp lane counted mk, Queues i h grp lane counted mk → ∀ (s : State) iss rest, WellFormed i = true → Released s i h iss rest →
    let u := left s rest
    let ls := active s iss rest h
    let o := mk u ls
    let regs := fun (l : Lane) => o.emptyRegs (((o.lanes.find? fun m => m.lane == l.lane).map MLane.k).getD 0)
    (∀ l, ls.head? = some l → Readable u l (grp.flatMap Src.refs)) →
    (∀ l ∈ ls, Readable u l (lane.flatMap Src.refs) ∧ Readable u l (o.srcRegs.flatMap fun e => gRefs e.1 e.2) ∧
      Writable u l (regs l) ∧ (o.kind = .mtopk → Readable u l (regs l))) →
    (u.core iss.core).mq.length < 8 → MatFits o ls (u.team iss.core o.team) →
    exec i s = .next ((passed s iss rest h).matQueue o ls counted)) ∧
  (∀ (s : State) (o : MatOp) (ls : List Lane) (counted : Bool) (c : Nat), ls ≠ [] → (∀ l ∈ ls, l.core = c) →
    (∀ l ∈ ls, (s.thread c l.ctx).st ≠ .none) → (ls.map Lane.ctx).Nodup →
    let t := s.matQueue o ls counted
    ((t.core c).mq = if counted && o.n = 0 then (s.core c).mq else (s.core c).mq ++ [o]) ∧
      t.mem = s.mem ∧ t.hostMem = s.hostMem ∧ (∀ d k, (t.team d k).acc = (s.team d k).acc ∧ (t.team d k).sp = (s.team d k).sp) ∧
      ∀ l ∈ ls, (t.thread c l.ctx).pc = l.nextPc ∧
        (o.kind = .acld ∨ o.kind = .acst →
          if counted && o.n = 0 then (t.thread c l.ctx).reg o.tok = RegWord.ofVal 0 else ((t.thread c l.ctx).reg o.tok).st = .empty) ∧
        ((counted && o.n = 0) = false → ∀ r ∈ sourceWords o, ((s.thread c l.ctx).reg r).st = .full →
          ((t.thread c l.ctx).reg r).st = .locked ((sourceWords o).count r)) ∧
        (o.kind = .mtopk → counted = false → (o.lanes.map MLane.lane).Nodup → ∀ m ∈ o.lanes, m.lane = l.lane → ∀ i < m.k,
          ((t.thread c l.ctx).reg (8 * o.tile + i)).st = .empty ∧ ((t.thread c l.ctx).reg (8 * o.tile + 16 + i)).st = .empty))

/-- 11 R271: `sprune` writes the kept elements of each row and their metadata. Where the metadata tile overlaps the destination tiles, that the
metadata is written last is the model's choice (log 97): R271 gives no order. -/
def Obligations.SparsePrune : Prop :=
  ∀ h t (d a c : Tile), SetCompletes (.sprune h t d a c) h (gRefs (8 * a.toNat) 32) (gRefs (8 * d.toNat) 16 ++ gRefs (8 * c.toNat) 8)
    fun _ _ l =>
      let r := pruneRow t (wordsNat (l.t.vals (8 * a.toNat) 32))
      ((List.range 16).map fun k => (WRef.g (8 * d.toNat + k), BitVec.ofNat 32 (r.1 / 2 ^ (32 * k)))) ++
        (List.range 8).map fun k => (WRef.g (8 * c.toNat + k), BitVec.ofNat 32 (r.2 / 2 ^ (32 * k)))

/-- 10 R239, 01 R24: `mig` does nothing in a bound thread and at a home that a free thread may read from where it is; elsewhere the free
thread departs for the home of its address. -/
def Obligations.Migration : Prop :=
  ∀ h base disp (s : State) iss rest, AtIssue s (.mig h base disp) h iss rest → OneUnit (lanesOf s iss rest h) →
    let u := passed s iss rest h
    (∀ l ∈ active s iss rest h, u.mayMigrate l = true ∧ Readable u l (Reg.refs base)) →
    ((∀ l ∈ active s iss rest h, l.t.group ≠ none ∨ ∃ g hm, u.addrCheck l (address u l base disp) 0 = .ok (g, hm) ∧
        (g.func = 4 ∨ g.win = true ∨ g.func = 5 ∨ hm = .core l.core)) →
      exec (.mig h base disp) s = .next (acted s iss rest h fun l w => w.complete l [] none)) ∧
    ∀ (g : Lane → Region) (hm : Lane → Home),
      (∀ l ∈ active s iss rest h, l.t.group = none ∧ u.addrCheck l (address u l base disp) 0 = .ok (g l, hm l) ∧
        (g l).func ≠ 4 ∧ (g l).win = false ∧ (g l).func ≠ 5 ∧ hm l ≠ .core l.core ∧
        u.mayRunAt l.t.vf.toNat (hm l) = true ∧ u.allFull l.core l.t true = true ∧ u.drained l.core l.ctx = true) →
      exec (.mig h base disp) s = .next (acted s iss rest h fun l w =>
        w.modThread l.core l.ctx fun t => { t with st := .departing (BitVec.ofNat 64 (address u l base disp)) (hm l) })

/-- 10 R241, R242: `spawn` and `spawn.at` send the child's frame to its home and give up the reservation. 10 R242: the frame of a child carries the parent's identity and its registers g0 to gn, with depth one more. -/
def Obligations.Spawning : Prop :=
  (∀ h off (a : Reg) (n : BitVec 4) tf s iss rest l d,
    let u := passed s iss rest h
    let ok := u.mayMigrate l = true ∧ l.t.depth ≠ 15 ∧ l.t.resv = true ∧ u.localOpen l.core l.ctx = false ∧
      Writable u l (gRefs 0 (n.toNat + 1)) ∧ Readable u l (gRefs 0 (n.toNat + 1))
    let hops := fun (d : Nat) => ∀ f ∈ u.flights, f.core = d → f.refused = false
    (Lone s (.spawn h off n tf) h iss rest l → ok → hops l.core →
      ∃ t, exec (.spawn h off n tf) s = .next t ∧ Passed t l ∧ (t.thread l.core l.ctx).resv = false ∧
        t.flights = u.flights ++ [⟨u.childFrame l off n.toNat none, s.fabnum.toNat, l.core, 16, false⟩]) ∧
    (Lone s (.spawnAt h off a n tf) h iss rest l → ok → Readable u l (Reg.refs a) →
      (∃ g, (u.regVal l a).toNat < 2 ^ 56 ∧ u.homeOf l.t.vf.toNat (u.regVal l a).toNat l.core = .ok (g, .core d) ∧ g.win = false ∧ g.func ≠ 5) →
      u.mayRunAt l.t.vf.toNat (.core d) = true → hops d →
      ∃ t, exec (.spawnAt h off a n tf) s = .next t ∧ Passed t l ∧ (t.thread l.core l.ctx).resv = false ∧
        t.flights = u.flights ++ [⟨u.childFrame l off n.toNat (some (u.regVal l a).toNat), s.fabnum.toNat, d, 16, false⟩])) ∧
  (∀ (s : State) (l : Lane) off n target,
    let f := s.childFrame l off n target
    f.pc = l.t.pc + off ∧ f.depth = l.t.depth + 1 ∧ f.principal = l.t.principal ∧ f.vf = l.t.vf ∧ f.grid = l.t.grid ∧
      f.khandle = l.t.khandle ∧ f.pred = 0 ∧ f.gregs.length = 16 ∧
      ∀ i, i < 16 → f.gregs.getD i 0 = if i ≤ n then (l.t.reg i).val else 0)

/-- 10 R240: `detach` leaves a free thread of depth 1 with the registers g0 to g15 of its budget; its exit from the group is reported to the
grid's scheduler; a free thread passes. -/
def Obligations.Detaching : Prop :=
  ∀ h tf (s : State) iss rest l,
    let u := passed s iss rest h
    Lone s (.detach h tf) h iss rest l → u.mayMigrate l = true →
    (l.t.group = none → exec (.detach h tf) s = .next (acted s iss rest h fun l w => w.complete l [] none)) ∧
    ∀ g, l.t.group = some g → l.t.resv = true → Writable u l (gRefs 0 (u.budget l.core l.t)) → u.drained l.core l.ctx = true →
      u.slotFree l.core = true → l.t.vfPkg = s.fabnum →
      ∃ t, exec (.detach h tf) s = .next t ∧ Passed t l ∧
        (t.thread l.core l.ctx).group = none ∧ (t.thread l.core l.ctx).depth = 1 ∧ (t.thread l.core l.ctx).resv = false ∧
        (∀ n, n < 16 → n < u.budget l.core l.t → (t.thread l.core l.ctx).reg n = l.t.reg n) ∧
        t.decs = u.decs ++ [⟨l.t.vf.toNat, l.t.grid, true, false⟩]

/-- 10 R244, 18 R380: `launch` appends its block to a chain of its VF, whose home package is this one, and writes the block's sequence
number to D: the record's APPENDED and TAIL, and HEAD where no block was linked. -/
def Obligations.Launching : Prop :=
  ∀ h (d : Reg) a b s iss rest l pb p,
    let u := passed s iss rest h
    let v := l.t.vf.toNat
    let x := (u.srcVal l a).toNat
    let k := count (u.srcVal l b) % 4
    let s1 := u.devPut pb (leBytes 8 0)
    let n := (devNat s1 (p + 0x10) 8 + 1) % 2 ^ 64
    Lone s (.launch h d a b) h iss rest l → Readable u l (Src.refs a ++ Src.refs b) → Writable u l (Reg.refs d) →
    x % 256 = 0 → (∃ g hm, u.homeOf v x l.core = .ok (g, hm) ∧ g.win = false ∧ g.func ≠ 4 ∧ g.func ≠ 5) →
    noAcquire u l → u.localOpen l.core l.ctx = false → u.appendWaits v k x = false → l.t.vfPkg = s.fabnum →
    DevReaches u v x true pb → DevReaches s1 v (s1.chainAt v k) true p → p % 64 = 0 →
      ∃ t, exec (.launch h d a b) s = .next t ∧ Passed t l ∧
        (∀ q w, WritesOnly (destWrites d (BitVec.ofNat 64 n)) (.g q) w → (t.thread l.core l.ctx).reg q = RegWord.ofVal w) ∧
        (devNat s1 p 8 % 2 ^ 56 = 0 →
          Mem.readNat t.mem p 8 = x ∧ Mem.readNat t.mem (p + 8) 8 = x ∧ Mem.readNat t.mem (p + 0x10) 8 = n)

/-- 12 R283, R284, 04 R97: `tcopy` and `gather` hand a descriptor that passes its checks to the copy engine; the token is EMPTY, or zero for
an operation that counts its arrivals, whose bytes are then posted to the counter's PENDING (04 R104).
12 R290, 04 R109: `spill` and `fill` join the tile mover of their core; the token, and the registers of a fill, are EMPTY. -/
def Obligations.EnginesIssued : Prop :=
  (∀ h (tok : GReg) off s iss rest l,
    let u := passed s iss rest h
    let o := offsetOf u l off
    let ok := fun n => Readable u l (Src.refs off) ∧ noAcquire u l ∧ Writable u l [.g tok.toNat] ∧
      (u.core l.core).copies.length < 64 ∧ SpReaches u l true o n ∧ (scratch u l).spBad o n = false ∧ l.t.read = []
    let b := fun n => Mem.read (scratch u l).sp o n
    let issued := fun i (isGather : Bool) n left bytes (ctr : Option Nat) => ∃ t op, exec i s = .next t ∧ Passed t l ∧
      op = u.newCopy l isGather (b n) (BitVec.ofNat 32 o) left bytes (if ctr.isSome then none else some tok.toNat) ∧
      (t.core l.core).copies = (u.core l.core).copies ++ [op] ∧
      match ctr with
      | none => ((t.thread l.core l.ctx).reg tok.toNat).st = .empty
      | some at_ => (t.thread l.core l.ctx).reg tok.toNat = RegWord.ofVal 0 ∧
          t.counterWord l.core (u.teamOf l) at_ = u.counterWord l.core (u.teamOf l) at_ + bytes * 2 ^ 32
    (Lone s (.tcopy h tok off) h iss rest l → ok 128 →
      let d := CopyDesc.ofBytes (b 128)
      CopyFits d (scratch u l) → (d.done = true → PendingRoom u l d.ctroff d.total) →
      issued (.tcopy h tok off) false 128 d.steps d.total (if d.done then some d.ctroff else none)) ∧
    (Lone s (.gather h tok off) h iss rest l → ok 64 →
      let d := GatherDesc.ofBytes (b 64)
      GatherFits d (scratch u l) → (d.done = true → PendingRoom u l d.ctroff (d.count * d.rowSize)) →
      issued (.gather h tok off) true 64 (List.range d.count) (d.count * d.rowSize) (if d.done then some d.ctroff else none))) ∧
  (∀ h sp (tok : GReg) (a : Tile) b n s iss rest l,
    let u := passed s iss rest h
    let k := count (u.srcVal l n)
    let addr := if sp then count (u.srcVal l b) else (u.srcVal l b).toNat
    let regs := gRefs (8 * a.toNat) (8 * k)
    let ok := fun fill => Readable u l (Src.refs b ++ Src.refs n) ∧ noAcquire u l ∧
      SpillFits u l fill sp tok.toNat a.toNat k addr ∧ (u.core l.core).spills.length < 32
    (Lone s (.spill h sp tok a b n) h iss rest l → ok false → Writable u l [.g tok.toNat] →
      (∀ r ∈ regs, u.isEmpty l.core l.t r = false ∧ (u.word l.core l.t r).token = none) →
      ∃ t, exec (.spill h sp tok a b n) s = .next t ∧ Passed t l ∧
        (t.core l.core).spills = (u.core l.core).spills ++ [u.newSpill l false sp tok.toNat a.toNat k addr] ∧
        ((t.thread l.core l.ctx).reg tok.toNat).st = .empty) ∧
    (Lone s (.fill h sp tok a b n) h iss rest l → ok true → Writable u l (.g tok.toNat :: regs) →
      ∃ t, exec (.fill h sp tok a b n) s = .next t ∧ Passed t l ∧
        (t.core l.core).spills = (u.core l.core).spills ++ [u.newSpill l true sp tok.toNat a.toNat k addr] ∧
        ∀ r ∈ WRef.g tok.toNat :: regs, t.isEmpty l.core (t.thread l.core l.ctx) r = true))

/-- 12 R288, 05 R131: `crd.save` stores the 64 bytes of a cursor's record, at once to the scratchpad or as four stores of 16 bytes; `crd.load`
makes a cursor of a record in the scratchpad, or of one in memory homed at its own core. -/
def Obligations.CursorRecords : Prop :=
  ∀ h c (b : Reg) s iss rest l a slot,
    let u := passed s iss rest h
    let num := count (u.srcVal l c)
    let bs := (u.cursor l.core slot).record
    let ok := fun sp => Readable u l (Src.refs c ++ Reg.refs b) ∧ noAcquire u l ∧ RecordAt u l sp b a
    (Lone s (.crdSave h true c b) h iss rest l → ok true → OpenIn u l num slot → u.spHeld l true a 64 = false →
      ∃ t, exec (.crdSave h true c b) s = .next t ∧ Passed t l ∧ (scratch t l).sp = Mem.write (scratch u l).sp a bs) ∧
    (Lone s (.crdSave h false c b) h iss rest l → ok false → OpenIn u l num slot →
      ∀ g hm, u.homeOf l.t.vf.toNat a l.core = .ok (g, hm) → g.win = false →
      (hm = .core l.core → ∀ e, u.homeCheck l.t.vf.toNat l.t.principal.toNat a .store false l.core g ≠ .trap e) →
      ∃ t, exec (.crdSave h false c b) s = .next t ∧ Passed t l ∧
        (t.reqs.drop u.reqs.length).map (fun r => (r.va, r.size, r.data)) = (List.range 4).map fun k =>
          (BitVec.ofNat 64 (a + 16 * k), 16, BitVec.ofNat 128 (fieldAt bs (16 * k) 16))) ∧
    (Lone s (.crdLoad h true c b) h iss rest l → ok true → num ≤ 3 → u.spHeld l true a 64 = false →
      (scratch u l).spBad a 64 = false → l.t.read = [] → RecordFits (Mem.read (scratch u l).sp a 64) → SlotLeft u l num →
      ∃ t slot', exec (.crdLoad h true c b) s = .next t ∧ Passed t l ∧ t.slotOf l.core (groupOf l) num = some slot' ∧
        CursorOf (Mem.read (scratch u l).sp a 64) (t.cursor l.core slot') ∧ (t.cursor l.core slot').principal = l.t.principal) ∧
    (Lone s (.crdLoad h false c b) h iss rest l → ok false → num ≤ 3 → l.t.read = [] → u.openReqs l.core l.ctx = [] →
      ∀ g e, (∀ k < 4, u.homeOf l.t.vf.toNat (a + 16 * k) l.core = .ok (g, .core l.core) ∧
        Passes u l.t.vf.toNat l.t.principal.toNat (a + 16 * k) .load false l.core g e) →
      let bytes := (List.range 4).flatMap fun k => Mem.read (if e.host then u.hostMem else u.mem) (placeOf e (a + 16 * k) l.core) 16
      RecordFits bytes → SlotLeft u l num →
      ∃ t slot', exec (.crdLoad h false c b) s = .next t ∧ Passed t l ∧ t.slotOf l.core (groupOf l) num = some slot' ∧
        CursorOf bytes (t.cursor l.core slot') ∧ (t.cursor l.core slot').principal = l.t.principal) ∧
    ∀ k : Cursor, k.cur.a.idx < 256 → k.cur.a.left < 2 ^ 32 → k.cur.b.idx < 256 → k.cur.b.left < 2 ^ 32 → RecordSays k k.record

/-- 12 R285 to R287, R289: the cursor instructions of a set: `crd.open` opens a cursor, `crd.close` closes it, `crd.split` and `crd.next` hand
an operation to Harvest and wait for it, `crd.next` with its seven destinations EMPTY. The empty second stream of a cursor with one, and the
closing of a number whose operation is in progress, are the model's choice (log 98). -/
def Obligations.CursorOperations : Prop :=
  ∀ h op c x y (d : GReg) (p : PReg) s iss rest l,
    let u := left s rest
    let ls := active s iss rest h
    let num := count (u.srcVal l c)
    let pairs := ls.map fun k => (k.lane, k.ctx)
    let waits := fun (t : State) => ∀ k ∈ ls, (t.thread iss.core k.ctx).st = .waiting .harvest
    ls.head? = some l →
    (Released s (.crdOpen h op c x y) h iss rest → Readable u l (Src.refs c ++ Src.refs x ++ Src.refs y) → num ≤ 3 →
      StreamAt u l (offsetOf u l x) → (CrdOp.two op = true → StreamAt u l (offsetOf u l y)) →
      (∀ k ∈ ls, noAcquire u k) → (∀ m ∈ (u.group l.core (groupOf l)).present, u.localOpen l.core m = false) → l.t.read = [] →
      SlotLeft u l num →
      ∃ t slot, exec (.crdOpen h op c x y) s = .next t ∧ (∀ k ∈ ls, Passed t k) ∧
        t.slotOf l.core (groupOf l) num = some slot ∧
        let k := t.cursor l.core slot
        k.live = true ∧ k.principal = l.t.principal ∧ k.cur.op = op ∧ k.cur.a = streamAt u l (offsetOf u l x) ∧
          k.cur.b = (if CrdOp.two op then streamAt u l (offsetOf u l y) else noStream) ∧ k.cur.endAll = true ∧ k.look = none ∧
          k.busy = .none ∧ k.emitted = 0) ∧
    (Released s (.crdClose h c) h iss rest → Readable u l (Src.refs c) → num ≤ 3 →
      ∃ t, exec (.crdClose h c) s = .next t ∧ (∀ k ∈ ls, Passed t k) ∧ t.slotOf l.core (groupOf l) num = none) ∧
    ∀ slot, OpenIn u l num slot → (∀ k ∈ ls, noAcquire u k) →
    (Released s (.crdSplit h c x y) h iss rest → Readable u l (Src.refs c ++ Src.refs x ++ Src.refs y) →
      let n := count (u.srcVal l x)
      let i := count (u.srcVal l y)
      0 < n → n ≤ 65536 → i < n →
      ∃ t, exec (.crdSplit h c x y) s = .next t ∧ waits t ∧
        (t.cursor l.core slot).busy = .split l.num pairs (BitVec.ofNat 32 n) (BitVec.ofNat 32 i) l.t.pc l.len) ∧
    (Released s (.crdNext h d c p) h iss rest → Readable u l (Src.refs c) →
      (∀ k ∈ ls, k.t.st ≠ .none ∧ Writable u k (crdRefs d.toNat p.toNat)) → 0 < p.toNat → p.toNat + 3 < 16 →
      ∃ t, exec (.crdNext h d c p) s = .next t ∧ waits t ∧
        (∀ k ∈ ls, ∀ r ∈ crdRefs d.toNat p.toNat, t.isEmpty iss.core (t.thread iss.core k.ctx) r = true) ∧
        (t.cursor l.core slot).busy = .next l.num pairs d.toNat p.toNat l.t.pc l.len)

/-- 12 R291, 01 R17, R18: `rclaim` puts the group's claim into its pool's queue and waits; `rgive` lowers the budget; a count of 0 does
nothing. -/
def Obligations.RegisterClaims : Prop :=
  ∀ h k (s : State) iss rest l g,
    let u := left s rest
    let ls := active s iss rest h
    let r := registers (count (u.srcVal l k))
    let tm := (u.group iss.core g).team
    ls.head? = some l → l.t.group.map Prod.fst = some g → Readable u l (Src.refs k) →
    (Released s (.rclaim h k) h iss rest →
      (r = 0 → exec (.rclaim h k) s = .next (acted s iss rest h fun l w => w.complete l [] none)) ∧
      (0 < r → (u.group iss.core g).budget + r ≤ 64 → ∃ t, exec (.rclaim h k) s = .next t ∧
        (t.team iss.core tm).claims = (u.team iss.core tm).claims ++ [(g, r)] ∧
        (t.group iss.core g).claim = some r ∧ ∀ k ∈ ls, (t.thread iss.core k.ctx).st = .waiting (.claim k.nextPc))) ∧
    (Released s (.rgive h k) h iss rest →
      (r = 0 → exec (.rgive h k) s = .next (acted s iss rest h fun l w => w.complete l [] none)) ∧
      (0 < r → 8 + r ≤ (u.group iss.core g).budget → ∃ t, exec (.rgive h k) s = .next t ∧ (∀ k ∈ ls, Passed t k) ∧
        (t.group iss.core g).budget = (u.group iss.core g).budget - r))

/-- 12 R293, R294, 01 R36, R37: a group's arrival at a barrier of its team or role releases every group where it is the last, and waits
otherwise; at a tree barrier it is counted at the route tag, and the group waits. That a lane which waited stands after its barrier is the
model's reading (log 48). -/
def Obligations.Barriers : Prop :=
  ∀ h tag (s : State) iss rest l g,
    let u := left s rest
    let ls := active s iss rest h
    let tm := (u.group iss.core g).team
    let role := (u.group iss.core g).role
    ls.head? = some l → l.t.group.map Prod.fst = some g → u.groupLocal iss.core g = false → Members u ls →
    (∀ k ∈ ls, k.t.st ≠ .none) → (u.team iss.core tm).groups.Nodup →
    let others := fun (f : Group → Bool) => ∀ q ∈ u.liveGroups iss.core tm, q ≠ g → f (u.group iss.core q) = true
    let others' := fun (f : Group → Bool) => ∃ q ∈ u.liveGroups iss.core tm, q ≠ g ∧ f (u.group iss.core q) = false
    (Released s (.barTeam h) h iss rest → ∃ t, exec (.barTeam h) s = .next t ∧ (∀ k ∈ ls, Passed t k) ∧
      (others Group.arrTeam → ∀ k ∈ ls, (t.thread iss.core k.ctx).st = .ready) ∧
      (others' Group.arrTeam → (t.group iss.core g).arrTeam = true ∧
        ∀ k ∈ ls, (t.thread iss.core k.ctx).st = .waiting .barTeam)) ∧
    (Released s (.barRole h) h iss rest → ∃ t, exec (.barRole h) s = .next t ∧ (∀ k ∈ ls, Passed t k) ∧
      (others (fun q => q.role != role || q.arrRole) → ∀ k ∈ ls, (t.thread iss.core k.ctx).st = .ready) ∧
      (others' (fun q => q.role != role || q.arrRole) → (t.group iss.core g).arrRole = true ∧
        ∀ k ∈ ls, (t.thread iss.core k.ctx).st = .waiting .barRole)) ∧
    (Released s (.barTree h tag) h iss rest → Readable u l (Src.refs tag) →
      let n := count (u.srcVal l tag)
      ∀ part, u.partOf iss.core = some part → n ≤ 7 → (u.tree part n).serves iss.core = true →
      ∃ t, exec (.barTree h tag) s = .next t ∧ (∀ k ∈ ls, Passed t k ∧ (t.thread iss.core k.ctx).st = .waiting (.barTree n)) ∧
        t.tree part n = (u.tree part n).arrive iss.core g s.clk)

/-- 12 R295, R296, 03 R91: `arrive` adds its count to an arrival counter; `wait.ctr` goes on where the counter has no pending bytes and has
reached its target, and waits where bytes are pending or it is below its target. That neither is held by a queued matrix operation is the model's
reading (log 46). -/
def Obligations.ArrivalCounters : Prop :=
  (∀ h off n (s : State) iss rest,
    let u := passed s iss rest h
    let ok := fun (l : Lane) => Readable u l (Src.refs off ++ Src.refs n) ∧ noAcquire u l ∧ u.spCheck l (offsetOf u l off) 8 = none ∧
      (scratch u l).spBad (offsetOf u l off) 8 = false
    let word := fun (l : Lane) => u.counterWord l.core (u.teamOf l) (offsetOf u l off)
    (AtIssue s (.arrive h off n) h iss rest → (∀ l ∈ active s iss rest h, ok l ∧ u.localOpen l.core l.ctx = false) →
      exec (.arrive h off n) s = .next (acted s iss rest h fun l w =>
        (w.arriveAt l (offsetOf u l off) ((u.srcVal l n).setWidth 32)).goesOn l.core l.ctx l.nextPc l.yields)) ∧
    (AtIssue s (.waitCtr h off n) h iss rest → (∀ l ∈ active s iss rest h, ok l ∧ word l < 2 ^ 32 ∧ count (u.srcVal l n) ≤ word l) →
      exec (.waitCtr h off n) s = .next (acted s iss rest h fun l w => w.complete l [] none)) ∧
    (AtIssue s (.waitCtr h off n) h iss rest → (∀ l ∈ active s iss rest h, ok l ∧ word l < 2 ^ 59 ∧
        (2 ^ 32 ≤ word l ∨ word l < count (u.srcVal l n))) →
      exec (.waitCtr h off n) s = .next (acted s iss rest h fun l w => w.waits l.core l.ctx
        (.counter (BitVec.ofNat 32 (offsetOf u l off)) ((u.srcVal l n).setWidth 32) l.nextPc)))) ∧
  ∀ (s : State) (l : Lane) (off : Nat) (n : Word), s.counterWord l.core (s.teamOf l) off < 2 ^ 32 →
    (s.arriveAt l off n).counterWord l.core (s.teamOf l) off = (s.counterWord l.core (s.teamOf l) off + n.toNat) % 2 ^ 32

/-- 12 R297: `trap` and `brk` park their unit after the instruction, with the low 16 bits of a code, or BREAKPOINT. That the code is the lowest
lane's, and that INFO is 0 for `brk`, is the model's choice (log 102). -/
def Obligations.TrapInstructions : Prop :=
  ∀ h code (s : State) iss rest,
    let u := passed s iss rest h
    let ls := active s iss rest h
    let past := ls.foldl (fun w l => w.modThread l.core l.ctx fun t => t.moveTo l.nextPc) u
    ∀ l, ls.head? = some l →
    (AtIssue s (.trap h code) h iss rest → OneUnit (lanesOf s iss rest h) → (∀ k ∈ ls, Readable u k (Src.refs code)) →
      exec (.trap h code) s = .next (past.parkLanes ls ⟨.swTrap, 0, 0, BitVec.ofNat 32 ((u.srcVal l code).toNat % 65536)⟩
        (ls.map Lane.lane) l.nextPc .next)) ∧
    (AtIssue s (.brk h) h iss rest → OneUnit (lanesOf s iss rest h) →
      exec (.brk h) s = .next (past.parkLanes ls ⟨.breakpoint, 0, 0, 0⟩ (ls.map Lane.lane) l.nextPc .next))

/-- 08 R190, 12 R298 to R300: the privileged instructions in a thread that may execute them, and `srd` in any thread, with the value of
every register of the user view; FTCAP and FTLIVE of a VF of another package are the model's (logs 76 and 100).
12 R300: an invalidate leaves no translation of its VF at any core, and no line of it in any slice; how large the page of an unmapped address
is taken to be is the model's reading (log 49). -/
def Obligations.SystemInstructions : Prop :=
  (∀ h wide (d : Reg) num a v s iss rest, OneUnit (lanesOf s iss rest h) →
    let u := passed s iss rest h
    let ls := active s iss rest h
    let vf := fun l => count (u.srcVal l v)
    (AtIssue s (.srd h wide d num) h iss rest → ∀ x : Lane → DWord,
      (∀ l ∈ ls, u.sysValue l wide num.toNat = some (x l) ∧ Writable u l (Reg.refs d)) →
      exec (.srd h wide d num) s = .next (acted s iss rest h fun l w => w.complete l (destWrites d (x l)) none)) ∧
    (AtIssue s (.swr h wide num a) h iss rest → (∀ l ∈ ls, Readable u l (Src.refs a) ∧
        ∃ old, u.privView l.t.sel num.toNat = some (wide, old)) →
      exec (.swr h wide num a) s = .next (acted s iss rest h fun l w =>
        let x := if wide then u.srcVal l a else ((u.srcVal l a).setWidth 32).setWidth 64
        ((w.privWrite l.t.sel num.toNat x).modThread l.core l.ctx fun t =>
          { t with sel := Sel.put t.sel num.toNat x }).goesOn l.core l.ctx l.nextPc l.yields)) ∧
    (AtIssue s (.halt h) h iss rest → exec (.halt h) s = .next (acted s iss rest h fun l w =>
      w.modThread l.core l.ctx fun t => { t.moveTo l.nextPc with st := .waiting .firmware })) ∧
    ((∀ l ∈ ls, Readable u l (Src.refs v) ∧ vf l < 1024) →
      (AtIssue s (.tlbinvAll h v) h iss rest → exec (.tlbinvAll h v) s = .next (acted s iss rest h fun l w =>
        (w.tlbDrop (vf l) none).goesOn l.core l.ctx l.nextPc l.yields)) ∧
      (AtIssue s (.roinvAll h v) h iss rest → exec (.roinvAll h v) s = .next (acted s iss rest h fun l w =>
        (w.roDrop (vf l) none).goesOn l.core l.ctx l.nextPc l.yields)) ∧
      ((∀ l ∈ ls, Readable u l (Src.refs a)) →
        (AtIssue s (.tlbinvPage h v a) h iss rest → exec (.tlbinvPage h v a) s = .next (acted s iss rest h fun l w =>
          (w.tlbDrop (vf l) (some (u.srcVal l a).toNat)).goesOn l.core l.ctx l.nextPc l.yields)) ∧
        (AtIssue s (.roinvPage h v a) h iss rest → exec (.roinvPage h v a) s = .next (acted s iss rest h fun l w =>
          (w.roDrop (vf l) (some (w.pageOf (vf l) (u.srcVal l a).toNat))).goesOn l.core l.ctx l.nextPc l.yields))))) ∧
  (∀ (s : State) (l : Lane) wide n v, UserReg s l wide n v → s.sysValue l wide n = some (BitVec.ofNat 64 v)) ∧
  (∀ (s : State) (v : Nat), (∀ c (e : Core), (c, e) ∈ (s.tlbDrop v none).cores → ∀ x ∈ e.tlb, x.vf ≠ v) ∧
    (∀ c (e : Core), (c, e) ∈ (s.roDrop v none).cores → ∀ x ∈ e.ro, x.vf ≠ v) ∧ ∀ x ∈ (s.roDrop v none).fills, x.vf ≠ v)

/-- 02 R52, R54, 10 R234: PERFORM reads, writes, or reads and writes the bytes of a request in one step at its home where every check
passes; a trap is its outcome, and writes nothing; a denied read returns zeros. -/
def Obligations.Performing : Prop :=
  ∀ id (s : State) r g c, Due s id r g → (r.home = .core c ∨ r.home = .host ∧ c = r.core) → r.engine ≠ 2 →
    let check := s.homeCheck r.vf.toNat r.principal.toNat r.va.toNat r.kind r.tf c g
    (∀ e, Passes s r.vf.toNat r.principal.toNat r.va.toNat r.kind r.tf c g e → s.otherReps r g = [] → Gives (.perform id) s fun t =>
      let p := placeOf e r.va.toNat c
      let old := s.homeRead p e r.size
      (r.kind = .load ∨ r.kind = .ro ∨ r.kind = .prefetch →
        Stands t id (fun q => q.stat = .performed ∧ q.value = BitVec.ofNat 128 old) ∧ t.mem = s.mem ∧ t.hostMem = s.hostMem) ∧
      (r.kind = .store ∨ r.kind = .mcst →
        Stands t id (fun q => q.stat = .performed) ∧ Wrote s t p e (leBytes r.size r.data.toNat)) ∧
      ((r.kind = .atomic ∨ r.kind = .red) → (∀ x ∈ s.reqs, x.stat ≠ .merged id) → r.size = bytesOf r.ty →
        AtomOp.tyOk (r.kind == .red) r.ty r.op = true →
        Stands t id (fun q => q.stat = .performed ∧ q.value = BitVec.ofNat 128 old) ∧
        match atomicValue r.op r.ty (BitVec.ofNat 64 old) (r.data.setWidth 64) r.expected with
        | some w => Wrote s t p e (leBytes r.size w)
        | none => t.mem = s.mem ∧ t.hostMem = s.hostMem)) ∧
    (∀ e, check = .trap e → Gives (.perform id) s fun t =>
      Stands t id (fun q => q.stat = .faulted e) ∧ t.mem = s.mem ∧ t.hostMem = s.hostMem) ∧
    ∀ e, check = .denied e → r.engine = 0 → Gives (.perform id) s fun t => Stands t id fun q => q.stat = .performed ∧ q.value = 0

/-- 10 R231, R247, R248, 02 R56, R57, 03 R93, 19 R391, R396: what else becomes of a request: it is sent, dropped and counted by a firewall,
forwarded to the replicas, answered; the walk and the sector fill that it causes; and the unit that parks where a lane of it faulted. The fields
of a request's packet are the model's (log 18). -/
def Obligations.RequestEvents : Prop :=
  (∀ id (s : State) r, Named s id r → r.stat = .unsent → r.kind ≠ .red ∨ s.partner r = none → s.maySend r = true →
      (∀ x ∈ s.reqs, x.core = r.core → x.far = none → x.issue = r.issue → x.stat = .unsent → s.sendable x = true → id ≤ x.id) →
      Gives (.remoteRequestSend id) s fun t =>
        ((∀ p d, r.home ≠ .far p d) → Stands t id fun q => q = { r with stat := .sent }) ∧
        ∀ p d, r.home = .far p d → s.isAway r.core p = false →
          ∃ k w, (t.port (2 * dieOf r.core + p % 2)).queue = (s.port (2 * dieOf r.core + p % 2)).queue ++ [(k, none)] ∧
            k.dstPkg = BitVec.ofNat 16 p ∧ k.body = .request w ∧ w.id = id ∧ w.kind = r.kind ∧ w.va = r.va ∧ w.size = r.size ∧
            w.core = BitVec.ofNat 9 d ∧ w.hint = r.hint ∧ (r.kind ≠ .red → w.data = r.data)) ∧
  (∀ id (s : State) r q, Named s id r → r.stat = .sent → r.reps = [] → s.wallOf r = some q →
      Gives (.firewallDrop id) s fun t =>
        Stands t id (fun q => q.stat = .faulted ⟨.firewall, 0, r.va, 0⟩) ∧ t.mem = s.mem ∧ t.hostMem = s.hostMem ∧
        Tbl.get 0 t.fwdrop q = Tbl.get 0 s.fwdrop q + 1) ∧
  (∀ c v va (s : State) g p, s.regionOf v va.toNat = some g → s.tlbFind v va.toNat c = none → rootOf s v c ≠ 0 →
      Walks s c va.toNat g.isHost 4 (rootOf s v c) p → ((s.core c).tlb.filter fun x => x.vf != v).length < 2048 →
      Gives (.tableWalk c v va) s fun t => ∃ e, (t.core c).tlb.head? = some e ∧ e.vf = v ∧ e.pte = p.toBits ∧
        e.page = va.toNat / (65536 * p.frames) * p.frames) ∧
  (∀ n (s : State) f, s.fills[n]? = some f → s.sliceLive f.slice = true → s.sliceSets f.slice ≠ 0 → f.hint ≠ 3 →
      ((s.core f.slice).ro.filter fun k =>
        k.line / 64 % s.sliceSets f.slice == f.sector / 4 / 64 % s.sliceSets f.slice).length < 16 →
      Gives (.roSectorFill n) s fun t => t.fills = s.fills.eraseIdx n ∧
        ∃ k ∈ (t.core f.slice).ro, k.vf = f.vf ∧ k.line = f.sector / 4 ∧ k.cls = f.cls ∧
          Tbl.get [] k.sectors (f.sector % 4) = f.bytes) ∧
  (∀ id rep (s : State) r g e, Named s id r → r.stat = .sent → rep ∈ r.reps → r.reps.Nodup → rep / 8 = s.fabnum.toNat → rep < 2 ^ 19 →
      (∀ x ∈ s.reqs, x.id ≠ id → x.kind = .mcst → sameUnit x.va r.va = true → x.value.toNat < r.value.toNat →
        rep ∉ x.reps ∧ rep + 2 ^ 19 ∉ x.reps) →
      s.regionOf r.vf.toNat r.va.toNat = some g →
      let core := 64 * (rep % 8) + (r.va.toNat - g.base) / 65536 % 64
      s.walled { r with core := r.homeCore, home := .core core, far := none } = false →
      Passes s r.vf.toNat r.principal.toNat r.va.toNat .mcst false core g e →
      Gives (.mcstForward id rep) s fun t => Wrote s t (placeOf e r.va.toNat core) e (leBytes r.size r.data.toNat) ∧
        Stands t id fun q => q.reps = r.reps.filter (· ≠ rep) ∧ (q.reps = [] → q.stat = .performed)) ∧
  (∀ id (s : State) r, Named s id r → r.far = none → r.ctx ≠ 8192 → r.kind ≠ .prefetch → (s.thread r.core r.ctx).st ≠ .none →
      (r.stat = .performed →
        (∀ x ∈ s.reqs, x.id ≠ id → Req.inUnit x r.core r.issue r.key = true →
          x.stat = .performed ∧ x.known = true ∧ (x.ctx ≠ r.ctx ∨ x.dst = none)) → (∀ u ∈ s.units, u.busy = false) →
        Gives (.requestResponse id) s fun t => (∀ q ∈ t.reqs, Req.inUnit q r.core r.issue r.key = false) ∧ t.mem = s.mem ∧
          t.hostMem = s.hostMem ∧
          ∀ d n w, r.dst = some d → r.top = true → WritesOnly (destWrites d (loaded r.ty r.value.toNat)) (.g n) w →
            (t.thread r.core r.ctx).reg n = RegWord.ofVal w) ∧
      (r.stat = .performed → (∃ x ∈ s.reqs, x.id ≠ id ∧ Req.inUnit x r.core r.issue r.key = true ∧ (x.stat = .performed → x.known = false)) →
        Gives (.requestResponse id) s fun t => Stands t id fun q => q = { r with known := true }) ∧
      ∀ e, r.stat = .faulted e → Gives (.requestResponse id) s fun t => Stands t id fun q => q = { r with known := true }) ∧
  ∀ issue key (s : State) r low e rs, unitReqs s issue key = r :: rs → low ∈ r :: rs → low.stat = .faulted e →
    (∀ q ∈ r :: rs, q.fails = true → q = low ∨ low.lane < q.lane) →
    r.ctx ≠ 8192 → (∀ q ∈ r :: rs, q.core = r.core ∧ (q.fails = true → q.known = true) ∧
      ∀ w, (s.thread r.core q.ctx).st ≠ .halted w) →
    (∀ q ∈ s.reqs, q.core = r.core → q.far = none → q.kind ≠ .prefetch → (∃ x ∈ r :: rs, x.ctx = q.ctx) → q.underway = false) →
    Gives (.unitPark issue key) s fun t =>
      (∃ u ∈ t.units, u.id = s.nextUnit ∧ u.trap = e ∧ ∀ j < 64,
        let mine := (r :: rs).filter fun q => q.lane == j
        let done := mine.all fun q => q.stat == .performed
        u.active.getLsbD j = !mine.isEmpty ∧ u.faulting.getLsbD j = mine.any Req.fails ∧
          u.performed.getLsbD j = (!mine.isEmpty && done) ∧
          u.pending.getLsbD j = (!mine.isEmpty && !done && !mine.any Req.fails)) ∧
      ∀ q ∈ r :: rs, (t.thread r.core q.ctx).st = .parked

/-- 01 R24 to R30, R41, 19 R391: a departing thread leaves its context and its frame flies with what R26 carries; a frame bounces, joins the
arrival queue, and becomes a thread again, or parks; the layout of a frame. That a thread departs only when its engine operations have made
their global writes is the model's choice (log 99); the port that a frame joins is deduced (log 96). -/
def Obligations.Frames : Prop :=
  Claims.FrameLayout ∧ Claims.HopAccepted ∧ Claims.FrameBounced ∧ Claims.FrameJoins ∧ Claims.FrameAdmitted

/-- 01 R34, 08 R172, 13 R310: a picker issues the oldest ready threads of one class, at most 64; a short parcel takes its dictionary word;
a dictionary is loaded where one of the four places is free, or in the place of the least recently used one. That the issues of a cycle
stand in the order of its picks is the model's (log 1). -/
def Obligations.Issuing : Prop :=
  Claims.Picked ∧ Claims.ShortParcels ∧ Claims.DictionaryLoads

/-- 20 R427 to R429: a claimed unit of a VF that is not active goes to the save area; the units of a team, and a free thread, come back. The
numbers of contexts and cursor slots in the save area, and what a team and a group count as gone, are the model's bookkeeping (log 52). -/
def Obligations.Eviction : Prop :=
  ∀ c (s : State),
    (∀ u, s.claimable c u = true → Gives (.lazyEviction c u) s fun t =>
      match u with
      | .context n => ∃ y, 65536 ≤ y ∧ Moved s t c n y
      | .row r =>
        match s.rowTeam c r with
        | some n => r ∉ (t.team c n).rowNums ∧ (t.team c n).rowsOut = (s.team c n).rowsOut + 1
        | none => ∀ e ∈ (s.core c).slotsIn r, (t.thread c e.1).slot = some slotCount
      | .spBlock n b => b ∈ (t.team c n).spGone
      | .accBlock n b => b ∈ (t.team c n).accGone
      | .uniform r => ∀ g ∈ (s.core c).setsOf r, (t.group c g).setGone = true
      | .cursor n => (t.cursor c n).live = false ∧ ∃ y, 4096 ≤ y ∧ t.cursor c y = s.cursor c n
      | .buffer e => Tbl.get none (t.core c).rbuf e = none) ∧
    (∀ n, s.restoreTurn c n = true → s.lacks c (s.askRestore c n) = [] → Gives (.teamRestore c n) s fun t =>
      (t.team c n).rowsOut = 0 ∧ (t.team c n).spGone = [] ∧ (t.team c n).accGone = []) ∧
    ∀ x, (s.thread c x).still = true → (s.thread c x).group = none → s.vfActive (s.thread c x).vf.toNat c = true →
      ((s.thread c x).slotOut = true → s.slotFree c = true) →
      (∀ y, 4096 ≤ x → leastFree 4096 (fun n => !(s.core c).taken n) = some y → Gives (.freeThreadRestore c x) s fun t => Moved s t c x y ∧
        (t.thread c y).slot = if (s.thread c x).slotOut then (s.core c).lowSlot else (s.thread c x).slot) ∧
      (x < 4096 → (s.thread c x).slotOut = true → Gives (.freeThreadRestore c x) s fun t =>
        t.thread c x = { s.thread c x with slot := (s.core c).lowSlot })

/-- 01 R18 to R23, R37, R43, 18 R382 to R384, 20 R424: teams are placed, claims served, releases taken, deadlocked groups parked, tree rounds
released; free threads are reserved, granted, counted down; a grid that is over completes its block. -/
def Obligations.GridsAndTeams : Prop :=
  (∀ v (s : State) g gs c, (s.vf v).rst = false → s.toPlace v = g :: gs → s.placeTurn v g c = true → s.quotaOk v c (g.width * groupCount g.roles) = true →
      (g.affinity = true ∧ s.affinityCore v (g.affs.getD g.next 0).toNat = some c ∨
        g.affinity = false ∧ (s.core c).teamWait = [] ∧ s.lacks c ((s.kernel v g.khandle.toNat).askTeam g) = [] ∧
          ∃ pre post, s.scanOrder v = pre ++ c :: post ∧ ∀ d ∈ pre, s.roomAt g d = false) → Gives (.teamPlacement v) s fun t =>
      (t.core c).teamWait = (s.core c).teamWait ++ [(g.id, g.next)] ∧ (g.vf, g.khandle.toNat) ∈ (t.core c).khere ∧
        ∃ x ∈ t.grids, x.id = g.id ∧ x.next = g.next + 1 ∧ x.live = g.live + g.width * groupCount g.roles) ∧
  (∀ n (s : State) r, s.resvQ[n]? = some r → r.pkg = s.fabnum.toNat →
      (s.underCaps r.vf r.grid = true → Gives (.reservationRequest n) s fun t =>
        t.resvQ = s.resvQ.eraseIdx n ∧ t.grants = s.grants ++ [⟨r.core, r.ctx, true⟩] ∧
          (t.vf r.vf).ftLive = (s.vf r.vf).ftLive + 1 ∧
          ∀ g, s.gridBy r.vf r.grid = some g → ∃ x ∈ t.grids, x.id = g.id ∧ x.live = g.live + 1) ∧
      (s.underCaps r.vf r.grid = false → r.tf = true → Gives (.reservationRequest n) s fun t =>
        t.resvQ = s.resvQ.eraseIdx n ∧ t.grants = s.grants ++ [⟨r.core, r.ctx, false⟩])) ∧
  (∀ n (s : State) g, s.grants[n]? = some g → (s.thread g.core g.ctx).st = .waiting .reserve → Gives (.reservationGrant n) s fun t =>
      t.grants = s.grants.eraseIdx n ∧ (t.thread g.core g.ctx).st = .ready ∧
        (g.ok = true → (t.thread g.core g.ctx).resv = true) ∧ (g.ok = false → (t.thread g.core g.ctx).denied = true)) ∧
  (∀ n (s : State) d g, s.decs[n]? = some d → s.gridBy d.vf d.grid = some g → Gives (.gridCountDecrement n) s fun t =>
      t.decs = s.decs.eraseIdx n ∧ (t.vf d.vf).ftLive = (s.vf d.vf).ftLive - (if d.units then 1 else 0) ∧
        ∃ x ∈ t.grids, x.id = g.id ∧ x.live = g.live - if d.count then 1 else 0) ∧
  (∀ n (s : State) g, s.grids.find? (fun x => x.id == n) = some g → s.gridOver g = true →
      s.devWaits g.vf (s.chainAt g.vf g.chain) = false → Gives (.gridComplete n) s fun t =>
      (∀ x ∈ t.grids, x.id ≠ n) ∧
        ∀ b ∈ (Tbl.get (default : Chain) (t.vf g.vf).chains g.chain).blocks, b.s = g.s → b.done = true) ∧
  (∀ c n (s : State) e more, (s.team c n).claims = e :: more → (s.group c e.1).width * e.2 * 4 ≤ (s.team c n).free →
      (∀ r ∈ (s.team c n).releases, r.gset ≠ e.1) → (s.group c e.1).present.Nodup → Gives (.claimServed c n) s fun t =>
      (t.team c n).claims = (s.team c n).claims.drop 1 ∧
        (t.team c n).free = (s.team c n).free - (s.group c e.1).width * e.2 * 4 ∧
        (t.group c e.1).budget = (s.group c e.1).budget + e.2 ∧
        ∀ x ∈ (s.group c e.1).present, (∀ r, (s.group c e.1).budget ≤ r → (t.thread c x).reg r = ⟨0, .full, false, none⟩) ∧
          ∀ p, (s.thread c x).st = .waiting (.claim p) → (t.thread c x).st = .ready ∧ (t.thread c x).pc = p) ∧
  (∀ c n (s : State) r, (s.team c n).releases = [r] → (∀ x ∈ (s.group c r.gset).present, ∀ i < r.hi - r.lo,
      ((s.thread c x).reg (r.lo + i)).st = .full) → Gives (.releaseComplete c n) s fun t => (t.team c n).releases = [] ∧
        (t.team c n).free = (s.team c n).free + (s.group c r.gset).width * (r.hi - r.lo) * 4) ∧
  (∀ c n (s : State), s.deadlocked c n = true → (s.liveGroups c n).Nodup → Gives (.teamDeadlock c n) s fun t => (t.team c n).claims = [] ∧
      ∀ g ∈ s.liveGroups c n, ∃ u ∈ t.units, u.gset = some g ∧ u.trap.cause = .teamDeadlock ∧ u.origin = 4) ∧
  ∀ p n (s : State) r at_ rest, (s.tree p n).releases = (r, at_) :: rest → at_.toNat ≤ s.clk.toNat → Gives (.treeRelease p n) s fun t =>
    (t.tree p n).releases = rest ∧ ∀ c g x, (c, g, r) ∈ (s.tree p n).arrivals → x ∈ (s.group c g).present →
      (s.thread c x).st = .waiting (.barTree n) → (t.thread c x).st = .ready

/-- 04 R100 to R105, R107, R109, 12 R290, R295: elements, tags and rows move between memory and the scratchpad, and their bytes from pending to
counted; an operation that has ended writes its token, or the error of its counter; the parts of spills and fills move. -/
def Obligations.EngineMoves : Prop :=
  (∀ c op (s : State) o k p e, CopyAt s c op o → o.isGather = false →
      let d := CopyDesc.ofBytes o.desc
      let tm := fun (s : State) => s.team c o.team
      (2 * k ∈ o.left →
        (d.dir = 0 → d.inside k = true → ReadsAt s c o (d.gAt k) .load p e → Gives (.copyElement c op (2 * k)) s fun t =>
          (tm t).sp = counted (Mem.write (tm s).sp (d.sAt k) (leBytes d.es (d.convert (s.homeRead p e d.eg)))) o.counter d.es ∧
            StepDone t c op (2 * k) o) ∧
        (d.dir = 0 → d.inside k = false → Gives (.copyElement c op (2 * k)) s fun t =>
          (tm t).sp = counted (Mem.write (tm s).sp (d.sAt k) (leBytes d.es (if d.fill then d.fillv else 0))) o.counter d.es ∧
            StepDone t c op (2 * k) o) ∧
        (d.dir = 1 → d.inside k = true → ReadsAt s c o (d.gAt k) .store p e → (tm s).spBad (d.sAt k) d.es = false →
          (o.counter ≠ none → ∀ x, s.counterOut c x = none) → Gives (.copyElement c op (2 * k)) s fun t =>
            Wrote s t p e (leBytes d.eg (d.convert (Mem.readNat (tm s).sp (d.sAt k) d.es))) ∧
              (tm t).sp = counted (tm s).sp o.counter d.eg ∧ StepDone t c op (2 * k) o)) ∧
      (2 * k + 1 ∈ o.left →
        (d.dir = 0 → ReadsAt s c o (d.tagAt k) .load p e → s.homeRead p e 2 / 4096 % 16 < 4 →
          Gives (.copyElement c op (2 * k + 1)) s fun t =>
            (tm t).sp = counted (Mem.write (tm s).sp (d.tagsp + 2 * k) (leBytes 2 (s.homeRead p e 2))) o.counter 2 ∧
              StepDone t c op (2 * k + 1) o) ∧
        (d.dir = 1 → ReadsAt s c o (d.tagAt k) .store p e → (tm s).spBad (d.tagsp + 2 * k) 2 = false →
          Mem.readNat (tm s).sp (d.tagsp + 2 * k) 2 / 4096 % 16 < 4 → (o.counter ≠ none → ∀ x, s.counterOut c x = none) →
          Gives (.copyElement c op (2 * k + 1)) s fun t =>
            Wrote s t p e (leBytes 2 (Mem.readNat (tm s).sp (d.tagsp + 2 * k) 2)) ∧
              (tm t).sp = counted (tm s).sp o.counter 2 ∧ StepDone t c op (2 * k + 1) o))) ∧
  (∀ c op n (s : State) o, CopyAt s c op o → o.isGather = true → n ∈ o.left → (∀ e ∈ o.index, e.1 ≠ n) →
      let d := GatherDesc.ofBytes o.desc
      let tm := fun (s : State) => s.team c o.team
      let x := Mem.readNat (tm s).sp (d.idxoff + 4 * n) 4
      let a := d.table + x * d.stride
      let row := fun (t : State) (bs : List Byte) =>
        (tm t).sp = counted (Mem.write (tm s).sp (d.dst + n * d.dstStride) bs) o.counter d.rowSize ∧ StepDone t c op n o
      (tm s).spBad (d.idxoff + 4 * n) 4 = false →
      (d.rows ≤ x → (tm s).spBad d.defoff d.rowSize = false → Gives (.gatherRow c op n) s fun t =>
        row t (Mem.read (tm s).sp d.defoff d.rowSize)) ∧
      (x < d.rows → a % 65536 + d.rowSize ≤ 65536 → ∀ p e, (∀ u < d.rowSize / 16, ReadsAt s c o (a + 16 * u) .load (p + 16 * u) e) →
        Gives (.gatherRow c op n) s fun t =>
          row t ((List.range (d.rowSize / 16)).flatMap fun u => leBytes 16 (s.homeRead (p + 16 * u) e 16)))) ∧
  (∀ c op (s : State) o, o ∈ (s.core c).copies → o.id = op → ((s.core c).copies.map CopyOp.id).Nodup → o.left = [] → o.stuck = [] →
      s.writesOut c (2 ^ 20 + op) = false →
      let gone := fun (t : State) => ∀ q ∈ (t.core c).copies, q.id ≠ op
      (o.counter = none → (∀ u ∈ s.units, u.core = c → u.issue ≠ some o.issue) → ∀ r, o.tok = some r → (s.thread c o.ctx).st ≠ .none →
        Gives (.copyComplete c op) s fun t => gone t ∧ ((t.thread c o.ctx).reg r).st = .full ∧
          ((t.thread c o.ctx).reg r).val.toNat = (o.err.map Cause.code).getD 0 * 65536 + min o.denied 65535) ∧
      ∀ off, o.counter = some off → Gives (.copyComplete c op) s fun t => gone t ∧
        (o.err = none → (t.team c o.team).sp = (s.team c o.team).sp) ∧
        ∀ e, o.err = some e → (t.team c o.team).sp = errored (s.team c o.team).sp off o.bytesLeft (Cause.code e)) ∧
  ∀ c op (s : State) o, o ∈ (s.core c).spills → o.id = op → ((s.core c).spills.map SpillOp.id).Nodup →
    s.forkHeld c o.ctx o.seq = false → o.err = none → o.stuck = [] → s.writesOut c (2 ^ 20 + op) = false → (s.thread c o.ctx).st ≠ .none →
    (∀ w ∈ s.units, w.core = c → w.issue ≠ some o.issue) → o.lane < o.width →
    (o.isFill = true → ∀ u ∈ o.left, ∀ r, o.tok = some r → r < 8 * (o.tile + u) ∨ 8 * (o.tile + u) + 8 ≤ r) →
    let n := (o.gset.map fun g => (s.group c g).team).getD 0
    let at_ := fun (u : Nat) => o.addr.toNat + u * o.width * 32 + o.lane * 32
    let done := fun (t : State) => (∀ q ∈ (t.core c).spills, q.id ≠ op) ∧
      ∀ r, o.tok = some r → ((t.thread c o.ctx).reg r).st = .full ∧ ((t.thread c o.ctx).reg r).val = BitVec.ofNat 32 (min o.denied 65535)
    let filled := fun (t : State) (u : Nat) (v : Nat → Nat) => ∀ i < 8, ((t.thread c o.ctx).reg (8 * (o.tile + u) + i)).st = .full ∧
      ((t.thread c o.ctx).reg (8 * (o.tile + u) + i)).val = BitVec.ofNat 32 (v i)
    (o.toSp = true → o.isFill = false → Gives (.spillComplete c op) s fun t => done t ∧
      ∀ u ∈ o.left, ∀ i < 8, ∀ w, o.words[8 * u + i]? = some w → Mem.readNat (t.team c n).sp (at_ u + 4 * i) 4 = w.val.toNat) ∧
    (o.toSp = true → o.isFill = true → Gives (.spillComplete c op) s fun t => done t ∧
      ∀ u ∈ o.left, filled t u fun i => Mem.readNat (s.team c n).sp (at_ u + 4 * i) 4) ∧
    ∀ u p e, o.toSp = false → o.left = [u] → (∀ h ∈ o.halves, h.1 ≠ u) →
      (o.isFill = true → PartAt s c o (at_ u) .load p e → Gives (.spillComplete c op) s fun t => done t ∧
        filled t u fun i => s.homeRead (p + 4 * i) e 4) ∧
      (o.isFill = false → o.words.length = 8 * o.n → u < o.n → PartAt s c o (at_ u) .store p e →
        PartAt (s.homeWrite p e (((o.words.drop (8 * u)).take 4).flatMap fun w => leBytes 4 w.val.toNat)) c o (at_ u) .store p e →
        Gives (.spillComplete c op) s fun t => done t ∧
          let mem := fun (s : State) => if e.host then s.hostMem else s.mem
          (∀ i < 8, ∀ w, o.words[8 * u + i]? = some w → Mem.readNat (mem t) (p + 4 * i) 4 = w.val.toNat) ∧
          ∀ x, x < p ∨ p + 32 ≤ x → Mem.get (mem t) x = Mem.get (mem s) x)

/-- 04 R110 to R115, 06 R154, 11 R268 to R275: the head of the queue starts with its registers read and released; the engine reads or writes its
scratchpad unit by unit; an operation that ends writes its rows, its bytes, its lists or its tokens, and one that a poisoned operand ends parks
its group; R116: the watchdog drops the queue and parks the groups. -/
def Obligations.MatrixEngine : Prop :=
  (∀ c (s : State) o rest, (s.core c).mq = o :: rest → o.start = none → s.mayStart c = true → (o.lanes.map MLane.ctx).Nodup →
      Gives (.matrixOpStart c) s fun t =>
      ∃ o', (t.core c).mq = o' :: rest ∧ o'.start = some s.clk ∧ o'.kind = o.kind ∧
        (o.kind = .mma ∨ o.kind = .mmaSp ∨ o.kind = .mdist →
          o'.lanes.map (fun l => (l.lane, l.a)) = o.lanes.map fun l => (l.lane, (s.thread c l.ctx).vals (8 * o.tile) 16)) ∧
        (o.kind = .mma → o.ty = .q4 → o'.lanes.map MLane.md = o.lanes.map fun l => (s.thread c l.ctx).vals o.mdReg 2) ∧
        (o.kind = .mmaSp → o'.lanes.map MLane.md = o.lanes.map fun l => (s.thread c l.ctx).vals (8 * o.mdReg) 16) ∧
        (o'.bad = true ↔ ∃ l ∈ o.lanes, ∃ r ∈ sourceWords o, ((s.thread c l.ctx).reg r).poison = true) ∧
        ∀ l ∈ o.lanes, (s.thread c l.ctx).st ≠ .none → ∀ r ∈ sourceWords o, ∀ n, ((s.thread c l.ctx).reg r).st = .locked n →
          let mine := (sourceWords o).count r
          ((t.thread c l.ctx).reg r).st = if n ≤ mine then .full else .locked (n - mine)) ∧
  (∀ c (s : State) o rest, (s.core c).mq = o :: rest → o.start ≠ none → 1 < o.left.length → o.readsSp = true →
      Gives (.matrixOpComplete c) s fun t => (t.core c).mq.length = rest.length ∨ ∃ u ∈ o.left, let tm := s.team c o.team
        (t.core c).mq = { o with units := (u, Mem.read tm.sp (16 * u) 16, tm.spPoison.contains u) :: o.units } :: rest) ∧
  (∀ c (s : State) o rest, (s.core c).mq = o :: rest → o.start ≠ none → o.left.length ≤ 1 →
      let tm := o.asRead (s.team c o.team)
      let rows := (List.range o.n).map (o.row + ·)
      let ends := fun (post : State → Prop) => Gives (.matrixOpComplete c) s fun t => post t ∧ (t.core c).mq.length = rest.length
      let endsTeam := fun (post : Team → Prop) => ends fun t => post (t.team c o.team)
      let told := fun (t : State) => ∀ l ∈ o.lanes, (s.thread c l.ctx).st ≠ .none → (t.thread c l.ctx).reg o.tok = ⟨0, .full, false, none⟩
      let fresh := fun (a : Nat) => ∀ e ∈ o.units, e.1 ≠ a / 16
      let kept := fun (tm' : Team) => ∀ a, o.off + footprint o ≤ a ∨ a < o.off ∨ ¬fresh a → Mem.get tm'.sp a = Mem.get tm.sp a
      let parks := fun (e : Cause) => (∃ m ∈ s.membersOf c o.gset, (s.thread c m.2).st ≠ .none ∧ (s.thread c m.2).st ≠ .parked) →
        ends fun t => (t.team c o.team).acc = (s.team c o.team).acc ∧ (t.team c o.team).sp = (s.team c o.team).sp ∧
          ∃ u ∈ t.units, u.gset = some o.gset ∧ u.trap.cause = e ∧ u.origin = 3
      (o.kind = .mma ∧ o.ty ∈ [Ty.bf16, .f16, .e4m3, .e5m2, .i8, .q4] ∨ o.kind = .mmaSp ∧ o.ty ∈ [Ty.bf16, .f16, .e4m3, .e5m2, .i8, .q4] ∨
          o.kind = .mdist ∧ o.ty ∈ [Ty.bf16, .f16, .e4m3, .e5m2, .i8] →
        let bad := o.bad = true ∨ tm.spBad o.off (footprint o) = true ∨ o.flag = false ∧ ∃ l ∈ o.lanes, (tm.row (o.row + l.lane)).poison = true
        let tagged := ∀ l ∈ o.lanes, ∀ q < rowLen o.ty (o.kind == .mmaSp) / 32,
          tagOfA o l q / 4096 = 0 ∧ ∀ j < 64, tagOfB o tm.sp q j / 4096 = 0
        (¬bad → (o.ty = .q4 → tagged) → (o.lanes.map MLane.lane).Nodup → endsTeam fun tm' => tm'.sp = (s.team c o.team).sp ∧
          (∀ l ∈ o.lanes, (tm'.row (o.row + l.lane)).poison = false ∧ ∀ j < 64, (tm'.row (o.row + l.lane)).col j =
            matrixValue o l tm.sp j (if o.flag then 0 else (tm.row (o.row + l.lane)).col j)) ∧
          ∀ r, (∀ l ∈ o.lanes, r ≠ o.row + l.lane) → tm'.row r = tm.row r) ∧
        (bad → parks .poison) ∧ (¬bad → o.ty = .q4 → ¬tagged → parks .cvtTag)) ∧
      (o.kind = .mtopk → o.ty = .f32 ∨ o.ty = .i32 → (o.lanes.map MLane.ctx).Nodup →
        (∀ l ∈ o.lanes, l.a.length = l.k ∧ l.md.length = l.k ∧ l.k ≤ 16 ∧ (tm.row (o.row + l.lane)).poison = false) → ends fun t =>
          ∀ l ∈ o.lanes, (s.thread c l.ctx).st ≠ .none → ∃ es : List TopEntry, es.Perm (topEntries l (tm.row (o.row + l.lane))) ∧
            es.Pairwise (Precedes (o.ty == .f32) o.flag) ∧ ∀ i e, i < l.k → es[i]? = some e →
              (t.thread c l.ctx).reg (8 * o.tile + i) = RegWord.ofVal e.val ∧
                (t.thread c l.ctx).reg (8 * o.tile + 16 + i) = RegWord.ofVal e.idx) ∧
      (o.kind = .acz → endsTeam fun tm' => RowsBecome tm tm' rows fun _ _ => 0) ∧
      (o.kind = .acld → tm.spBad o.off (256 * o.n) = false → ends fun t => told t ∧
        RowsBecome tm (t.team c o.team) rows fun r j => BitVec.ofNat 32 (Mem.readNat tm.sp (o.off + 256 * (r - o.row) + 4 * j) 4)) ∧
      (o.kind = .acst → o.off % 64 = 0 → (∀ r ∈ rows, (tm.row r).poison = false) → ends fun t => told t ∧ let tm' := t.team c o.team
        tm'.acc = tm.acc ∧ kept tm' ∧ ∀ i < o.n, ∀ j < 64, let a := o.off + 256 * i + 4 * j
          fresh a → Mem.readNat tm'.sp a 4 = ((tm.row (o.row + i)).col j).toNat) ∧
      (o.kind = .accp → (∀ i < o.n, (tm.row (o.row + i)).poison = false ∧ (tm.row (o.row2 + i)).poison = false) →
        (o.row + o.n ≤ o.row2 ∨ o.row2 + o.n ≤ o.row) → endsTeam fun tm' =>
          RowsBecome tm tm' rows fun r j => let x := (tm.row r).col j; let y := (tm.row (o.row2 + (r - o.row))).col j
            if o.ty = .f32 then BitVec.ofNat 32 (rounded .f32 .rn (fsum .rn [f32v x, f32v y])) else x + y) ∧
      (o.kind = .acsc → o.ty ∈ [Ty.bf16, .f16, .e4m3, .e5m2, .q4] → o.var < 4 → o.off % 64 = 0 → (∀ r ∈ rows, (tm.row r).poison = false) →
        endsTeam fun tm' => tm'.acc = tm.acc ∧ kept tm' ∧ ∃ code tag : Nat → Nat → Nat, ∀ i < o.n,
          RowScaled o (tm.row (o.row + i)) (code i) (tag i) ∧
          (∀ j < 64, let b := codeBits o.ty
            fresh (o.off + (64 * i + j) * b / 8) → codeAt tm'.sp o.off b (64 * i + j) = code i j) ∧
          (o.ty = .q4 ∨ codeBits o.ty = 8 ∧ o.var = 1 → ∀ q < 2, let a := o.off + o.n * (8 * codeBits o.ty) + 4 * i + 2 * q
            fresh a → Mem.readNat tm'.sp a 2 = tag i q))) ∧
  ∀ c (s : State) o rest st, (s.core c).mq = o :: rest → o.start = some st → st.toNat + 94000 ≤ s.clk.toNat →
    (∀ q ∈ rest, q.gset = o.gset) → Gives (.engineReset c) s fun t => (t.core c).mq = [] ∧
      ((∃ m ∈ s.membersOf c o.gset, (s.thread c m.2).st ≠ .none ∧ (s.thread c m.2).st ≠ .parked) →
        ∃ u ∈ t.units, u.gset = some o.gset ∧ u.trap.cause = .engineReset ∧ u.trap.info = BitVec.ofNat 32 rest.length ∧ u.origin = 3)

/-- 05 R126 to R130, 12 R286, R287: a decode that finds its items writes every member's seven words, and a split leaves the share; the
members go on. Where the streams have ended nothing has to be read: there is no item but the look-ahead one, and the share is empty. -/
def Obligations.HarvestCompletes : Prop :=
  (∀ c slot (s : State) num lanes d p pc len, let k := s.cursor c slot
      k.busy = .next num lanes d p pc len → slot < 256 → HarvestGoes s c k lanes → d + 2 < 64 → 0 < p → p + 3 < 16 →
      let gets := fun (t : State) (m : Nat × Nat) (it : Option Item) => let h := t.thread c m.2
        h.st = .ready ∧ h.pc = pc + BitVec.ofNat 32 len ∧ (h.reg d).val = ((it.map Item.c).getD 0) ∧
          (h.reg (d + 1)).val = ((it.map Item.a).getD 0xFFFFFFFF) ∧ (h.reg (d + 2)).val = ((it.map Item.b).getD 0xFFFFFFFF) ∧
          h.pred p = it.isSome ∧ h.pred (p + 3) = true ∧ (it = none → h.pred (p + 1) = false ∧ h.pred (p + 2) = false) ∧
          ∀ x, it = some x → Segments k [x] none 0 x (h.pred (p + 1)) (h.pred (p + 2))
      (k.look = none → AtEnd k.cur → Gives (.crdNextComplete c slot) s fun t =>
        (t.cursor c slot).busy = .none ∧ (t.cursor c slot).cur = k.cur ∧ ∀ m ∈ lanes, gets t m none) ∧
      ∀ it st m ms, k.look = some (it, st) → AtEnd st → lanes = m :: ms → Gives (.crdNextComplete c slot) s fun t =>
        (t.cursor c slot).busy = .none ∧ (t.cursor c slot).cur = st ∧ (t.cursor c slot).look = none ∧ gets t m (some it) ∧
          ∀ m' ∈ ms, gets t m' none) ∧
  (∀ c slot (s : State) num lanes n i pc len, let k := s.cursor c slot
      k.busy = .split num lanes n i pc len → slot < 256 → HarvestGoes s c k lanes → AtEnd k.cur → Gives (.crdSplitComplete c slot) s fun t =>
        (t.cursor c slot).busy = .none ∧ (t.cursor c slot).cur.endAll = false ∧ (t.cursor c slot).cur.cEnd = 0 ∧
          (t.cursor c slot).look = none ∧ (t.cursor c slot).outNew = true ∧
          ∀ m ∈ lanes, (t.thread c m.2).st = .ready ∧ (t.thread c m.2).pc = pc + BitVec.ofNat 32 len) ∧
  (∀ c slot (s : State) num lanes d p pc len l st look ds, let k := s.cursor c slot
      k.busy = .next num lanes d p pc len → slot < 256 → HarvestGoes s c k lanes →
      (s.henv c k pc).deliver lanes.length k = .ok ((l, st, look), ds) → d + 2 < 64 → 0 < p → p + 3 < 16 →
      Gives (.crdNextComplete c slot) s fun t => (t.cursor c slot).busy = .none ∧ (t.cursor c slot).cur = st ∧
        (t.cursor c slot).look = look ∧ ∀ j m, lanes[j]? = some m →
          let h := t.thread c m.2
          h.st = .ready ∧ h.pc = pc + BitVec.ofNat 32 len ∧ (h.pred (p + 3) = look.isNone) ∧
          (∀ it, l[j]? = some it → (h.reg d).val = it.c ∧ (h.reg (d + 1)).val = it.a ∧ (h.reg (d + 2)).val = it.b ∧ h.pred p = true ∧
            Segments k l (look.map Prod.fst) j it (h.pred (p + 1)) (h.pred (p + 2))) ∧
          (l.length ≤ j → (h.reg d).val = 0 ∧ (h.reg (d + 1)).val = 0xFFFFFFFF ∧ (h.reg (d + 2)).val = 0xFFFFFFFF ∧ h.pred p = false ∧
            h.pred (p + 1) = false ∧ h.pred (p + 2) = false)) ∧
  ∀ c slot (s : State) num lanes n i pc len st ds, let k := s.cursor c slot
    let e := s.henv c k pc
    k.busy = .split num lanes n i pc len → slot < 256 → HarvestGoes s c k lanes →
    (if CrdOp.two k.cur.op then e.shareTwo n.toNat i.toNat k.cur else e.shareOne n.toNat i.toNat k.cur) = .ok (st, ds) →
    Gives (.crdSplitComplete c slot) s fun t => (t.cursor c slot).busy = .none ∧ (t.cursor c slot).cur = st ∧
      (t.cursor c slot).look = none ∧ (t.cursor c slot).outNew = true ∧
      ∀ m ∈ lanes, (t.thread c m.2).st = .ready ∧ (t.thread c m.2).pc = pc + BitVec.ofNat 32 len

/-- 10 R250, 20 R419 to R421: a replay lets the threads of a unit that parked at its instruction execute it again, a kill ends them, a
command that names no parked unit changes FQCMD's status alone; a held record is written when the queue has room. -/
def Obligations.ParkedUnits : Prop :=
  (∀ v seq (s : State) u, (s.vf v).rst = false → s.unitAt v seq = some u → u.resume = .reexec → u.reqs = [] → u.saved = false →
      (u.threads.map Prod.snd).Nodup →
      ((∀ e ∈ u.threads, let h := s.thread u.core e.2
          h.st = .parked ∧ h.units = [u.id] ∧ h.kept = none ∧ s.mayRunNow u.core e.2 = true ∧ ∀ r ∈ s.reqs, r.ofCtx u.core e.2 = false) →
        Gives (.replay v seq) s fun t => (t.vf v).fqStat = 0 ∧ (∀ w ∈ t.units, w.id ≠ u.id) ∧
          ∀ e ∈ u.threads, (t.thread u.core e.2).st = .ready ∧ (t.thread u.core e.2).pc = (s.thread u.core e.2).pc) ∧
      Gives (.kill v seq) s fun t => (t.vf v).fqStat = 0 ∧ (∀ w ∈ t.units, w.id ≠ u.id) ∧
        ∀ e ∈ u.threads, (t.thread u.core e.2).st = .none) ∧
  (∀ v seq (s : State), (s.vf v).rst = true ∨ s.unitAt v seq = none →
      exec (.replay v seq) s = .next (s.modVf v fun d => { d with fqStat := 2 }) ∧
        exec (.kill v seq) s = .next (s.modVf v fun d => { d with fqStat := 2 })) ∧
  ∀ n (s : State) h ph p, s.held[n]? = some h → h.retry.toNat ≤ s.clk.toNat → HasRoom s h.vf ph → SlotAt s h.vf ph p →
    Gives (.faultQueueRetry n) s fun t => t.held = s.held.eraseIdx n ∧
      ∀ u ∈ s.units, some u.id = h.unit → ∃ w ∈ t.units, w.id = u.id ∧ w.seq = some (BitVec.ofNat 64 (devNat s ph 8 + 1))

/-- 20 R422 to R425: writing CALCTL and the slot registers, the end of a slot, the forced halt 18,800 cycles after it. -/
def Obligations.Calendars : Prop :=
  ∀ p (s : State), p < 64 → let q := s.part p
    (∀ v, calctlOk v = true → v.getLsbD 0 = true →
      (q.run = false → ∀ j, q.usedFrom (v.toNat / 256 % 32) = some j → Gives (.calendarRun p v) s fun t =>
        (t.part p).run = true ∧ (t.part p).start = v.toNat / 256 % 32 ∧ InSlot t p j (q.slot j) s.clk) ∧
      (q.run = true → Gives (.calendarRun p v) s fun t => t.part p = { q with start := v.toNat / 256 % 32 })) ∧
    (∀ v, calctlOk v = true → v.getLsbD 0 = false → Gives (.calendarStop p v) s fun t =>
      (t.part p).run = false ∧ (t.part p).slotEnd = none ∧ (t.part p).start = v.toNat / 256 % 32) ∧
    (∀ e j, q.run = true → q.slotEnd = some e → e.toNat ≤ s.clk.toNat → q.usedFrom ((q.cur + 1) % 32) = some j →
      Gives (.slotEnd p) s fun t => (t.part p).run = true ∧ InSlot t p j (q.slot j) s.clk) ∧
    (Gives (.forcedHalt p) s fun t => (∀ e ∈ (t.part p).outgoing, s.clk.toNat < e.2.toNat) ∧
      ∀ v d c x, (v, d) ∈ q.outgoing → d.toNat ≤ s.clk.toNat → s.partOf c = some p → (s.thread c x).vf.toNat = v →
        (s.thread c x).priv = false → (s.thread c x).st = .ready → (t.thread c x).st = .halted (s.thread c x).kept) ∧
    ∀ n v, slotOk v = true → n < 32 → Gives (.calslotWrite p n v) s fun t => (t.part p).slot n = v ∧
      (q.run = true → q.idle = true → v.toNat / 2 ^ 30 ≠ 0 → InSlot t p n v s.clk)

/-- 20 R430, R431, 01 R42: the reset of a virtual device leaves no thread, request, grid or parked unit of it, and ends when no frame of it is
in flight. -/
def Obligations.VirtualDeviceReset : Prop :=
  ∀ v (s : State), (v < 1024 → (s.vf v).rst = false → Gives (.vfReset v) s fun t =>
      (t.vf v).rst = true ∧ (t.vf v).ftLive = 0 ∧ (∀ g ∈ t.grids, g.vf ≠ v) ∧ (∀ u ∈ t.units, u.vf ≠ v) ∧
        (∀ r ∈ t.reqs, r.far = none → r.vf.toNat ≠ v) ∧
        ∀ c x, (t.thread c x).vf.toNat = v → (t.thread c x).st = .none ∨ (t.thread c x).priv = true) ∧
    ((s.vf v).rst = true → (∀ f ∈ s.flights, f.frame.vf.toNat ≠ v) → s.frameOut v = false → Gives (.vfResetComplete v) s fun t => (t.vf v).rst = false)

/-- 18 R378 to R382, R385: a doorbell appends its block, the control page answers reads and turns other requests away; the scheduler starts the
block at HEAD when its waits hold and its checks pass, and follows NEXT. That requests of the host do nothing before the package runs (21 R445)
is deduced (log 80). -/
def Obligations.LaunchChains : Prop :=
  Claims.Doorbell ∧ Claims.ControlPage ∧ Claims.BlockStarts ∧ Claims.ChainAdvances

/-- 02 R451, 13 R308, 19 R388, R389, R397, R406, R411 to R415, 12 R300: what the driver and firmware configure: octants, partitions, owners and
scrubs, keys, placement tables, kernels, registers; a firmware thread wakes. That a rejected registration leaves handle 0 (log 60), that bits
outside the fields of FABNUM, PWRCAP and PARTCFG are ignored (log 64), and that the other regions of a table with a bad one load (log 66) is
deduced. -/
def Obligations.Configuration : Prop :=
  Claims.OctantsWritten ∧ Claims.PartitionSize ∧ Claims.OwnerWritten ∧ Claims.FrameScrubbed ∧ Claims.DeviceConfigured ∧ Claims.KernelRegistered ∧ Claims.CapAndNumber ∧ Claims.FirmwareWakes

/-- 19 R407 to R409: the page list of a closed window, its opening, its two ways of closing, and what a re-key leaves. -/
def Obligations.Windows : Prop :=
  ∀ w (s : State), 0 < w → w < 1024 → let k := s.window w
    (∀ v : DWord, let f := v.toNat % 2 ^ 24
      v.getLsbD 63 = true → k.state = .closed → (s.owner f).key = k.producer + 1 → f ∉ k.pages →
      Gives (.winpageAdd w v) s fun t => t.window w = { k with pages := k.pages ++ [f] }) ∧
    (k.state = .closed → Gives (.winpageClear w) s fun t => t.window w = { k with pages := [] }) ∧
    (∀ v, winctlOk v = true → v.toNat / 2 ^ 60 % 4 = 1 → k.state = .closed → Gives (.windowOpen w v) s fun t =>
      (t.window w).state = .opening ∧ (t.window w).producer = v.toNat % 1024 ∧ (t.keySlot (1024 + w)).present = true ∧
        PagesUnder t (t.window w).pages (1024 + w) true) ∧
    (∀ v, winctlOk v = true → k.state = .isOpen →
      (v.toNat / 2 ^ 60 % 4 = 2 → Gives (.windowCloseRekey w v) s fun t =>
        (t.window w).state = .closing ∧ (t.window w).cmd = 2 ∧ PagesUnder t k.pages (1024 + w) true) ∧
      (v.toNat / 2 ^ 60 % 4 = 3 → Gives (.windowCloseDestroy w v) s fun t =>
        (t.window w).state = .closing ∧ (t.window w).cmd = 3 ∧ PagesUnder t k.pages (1024 + w) true)) ∧
    (k.state = .opening → Gives (.rekeyComplete w) s fun t =>
      (t.window w).state = .isOpen ∧ PagesUnder t k.pages (1024 + w) false ∧ t.mem = s.mem) ∧
    (k.state = .closing → Gives (.rekeyComplete w) s fun t =>
      (t.window w).state = .closed ∧ PagesUnder t k.pages (k.producer + 1) false ∧
        (k.cmd ≠ 3 → t.mem = s.mem) ∧
        (k.cmd = 3 → (t.keySlot (1024 + w)).present = false ∧
          ∀ a, Mem.get t.mem a = if a / 65536 ∈ k.pages then 0 else Mem.get s.mem a))

/-- 18 R375, R376, 21 R439 to R443, R450, 20 R433, 03 R85: host accesses to memory, snoops, packets of the Ethernet ports, flush markers, link
retries and the service of low classes. What the host stores to a line that it snoops is left open (log 7); what the ports that lead to no other
package keep of the service of low classes is the model's choice (log 79), and so is the order of the flits there. -/
def Obligations.HostAndLinks : Prop :=
  (∀ a n (s : State), s.hdmOpen a n = true →
      (s.hdmOk a n = false → exec (.cxlMemRead a n) s = .next
        { s with hostDeny := s.hostDeny + 1, hostOut := s.hostOut ++ [.readData a (List.replicate n 0xFF)] }) ∧
      (s.hdmOk a n = true → s.hdmBusy a n = false → (∀ i < n, s.poisoned (hdmAt (a + i)) = false) →
        exec (.cxlMemRead a n) s = .next
          { s with hostOut := s.hostOut ++ [.readData a ((List.range n).map fun i => Mem.get s.mem (hdmAt (a + i)))] })) ∧
  (∀ a bs (s : State), s.hdmOpen a bs.length = true →
      (s.hdmOk a bs.length = false → exec (.cxlMemWrite a bs) s = .next { s with hostDeny := s.hostDeny + 1 }) ∧
      (s.hdmOk a bs.length = true → s.hdmBusy a bs.length = false → bs ≠ [] → a % 256 + bs.length ≤ 256 →
        s.poisoned (hdmAt a) = false → Gives (.cxlMemWrite a bs) s fun t =>
          t.mem = Mem.write s.mem (hdmAt a) bs ∧ t.hostOut = s.hostOut ++ [.writeDone a])) ∧
  (∀ a (s : State), Gives (.cxlCacheSnoop a) s fun t => ∀ c (e : Core), (c, e) ∈ t.cores → ∀ k ∈ e.ro, ∀ h, k.host = some h →
      h / 1024 = a / 1024 → k.sectors = []) ∧
  (∀ a (s : State), Gives (.cxlCacheSnoop a) s fun t =>
    (∀ i < 64, let p := a / 1024 * 1024 + 16 * i
      Mem.readNat t.hostMem p 16 = Mem.readNat s.hostMem p 16 ∨
        ∃ v, Config.hostStore s.tick (a / 1024 * 64 + i) = some v ∧ Mem.readNat t.hostMem p 16 = v.toNat) ∧
    ∀ x, x / 1024 ≠ a / 1024 → Mem.get t.hostMem x = Mem.get s.hostMem x) ∧
  (∀ p s (k : Packet) f core, s.takes p k = true → k.body = .frame f core → let seen := (Packet.source k, k.seq)
      (seen ∉ (s.port p).rxSeen → Gives (.packetReceive p k) s fun t =>
        t.flights = s.flights ++ [⟨f, s.fabnum.toNat, core.toNat, BitVec.ofNat 8 p, false⟩] ∧ seen ∈ (t.port p).rxSeen ∧
          (t.port p).rxPkt = (s.port p).rxPkt + 1 ∧ (seen ∉ (s.port p).rxMarkers → (t.port p).acks = (s.port p).acks ++ [seen])) ∧
      (seen ∈ (s.port p).rxSeen → Gives (.packetReceive p k) s fun t =>
        t.flights = s.flights ∧ (t.port p).rxPkt = (s.port p).rxPkt + 1 ∧
          (seen ∉ (s.port p).rxMarkers → (t.port p).acks = (s.port p).acks ++ [seen]))) ∧
  (∀ p n (s : State) k, (s.port p).unacked[n]? = some k →
      ((∀ c x, k.1.body ≠ .marker c x) → Gives (.packetAck p n) s fun t => (t.port p).unacked = (s.port p).unacked.eraseIdx n) ∧
      (k.2 < (s.port p).retryMax → Gives (.retransmit p n) s fun t =>
        (t.port p).unacked = (s.port p).unacked.set n (k.1, k.2 + 1) ∧ (t.port p).reTx = (s.port p).reTx + 1) ∧
      ((s.port p).retryMax ≤ k.2 → Gives (.retransmit p n) s fun t =>
        (t.port p).unacked = (s.port p).unacked.eraseIdx n ∧ k.1.dstPkg.toNat ∈ (t.port p).away)) ∧
  (∀ c x n k (s : State), (s.thread c x).flush.out = some k → s.named c x = x → 0 < n → n ≤ markers s c x → Gives (.flushMarkerAck c x n) s fun t =>
      (n < k → (t.thread c x).flush = { (s.thread c x).flush with out := some (k - n) }) ∧
      (k ≤ n → (t.thread c x).flush = ⟨[], false, none⟩ ∧
        ((s.thread c x).st = .waiting .flush → (t.thread c x).st = .ready))) ∧
  (∀ p v (s : State), p < 16 → ethOk v = true → Gives (.ethcfgWrite p v) s fun t => t.port p = { s.port p with cfg := v, away := [] }) ∧
  (∀ l ok (s : State), let n := Tbl.get 0 s.linkRetry l + 1
      Gives (.linkRetry l ok) s fun t => Tbl.get 0 t.linkRetry l = if ok then 0 else if n < 8 then n else 0) ∧
  ∀ p cls (s : State), 4 ≤ cls → cls < 8 → let r := s.router p
    ((∀ n < 16, ethRouter n ≠ p) →
      (Tbl.has r.since cls = false → Gives (.lowmaxService p cls) s fun t => Tbl.get 0 (t.router p).since cls = s.clk) ∧
      (Tbl.has r.since cls = true → (Tbl.get 0 r.since cls).toNat + r.lowMax ≤ s.clk.toNat → Gives (.lowmaxService p cls) s fun t =>
        Tbl.get 0 (t.router p).since cls = s.clk ∧ Tbl.get 0 (t.router p).served cls = Tbl.get 0 r.served cls + 1)) ∧
    ∀ n i e, n < 16 → p = ethRouter n → (s.port n).queue[i]? = some e → e.1.cls.toNat = cls →
      (∀ j < i, ∀ x, (s.port n).queue[j]? = some x → x.1.cls.toNat ≠ cls) →
      (Tbl.get 0 r.since cls).toNat + (r.rules 1).2 ≤ s.clk.toNat → s.isAway (64 * (n / 2)) e.1.dstPkg.toNat = false →
      Gives (.lowmaxService p cls) s fun t => (t.port n).queue = (s.port n).queue.eraseIdx i ∧
        (∃ k, (t.port n).unacked = (s.port n).unacked ++ [(k, 0)] ∧ k.body = e.1.body ∧ k.dstPkg = e.1.dstPkg ∧
          k.seq = Tbl.get 0 (s.port n).nextSeq (e.1.dstPkg.toNat * 16 + e.1.dstPort.toNat)) ∧
        Tbl.get 0 (t.router p).since cls = s.clk ∧ Tbl.get 0 (t.router p).served cls = Tbl.get 0 r.served cls + 1

/-- 20 R433 to R437, 21 R445 to R448: the power-on sequence, the power cap and thermal limits, detected errors and their tests, attestation. That die 0
leaves reset at POWER_ON (log 84), that THERM is cleared at the resume (log 88) and that the record of an error is written at its detection
(log 82) is deduced. -/
def Obligations.PowerAndHealth : Prop :=
  Claims.PowersOn ∧ Claims.DieReleased ∧ Claims.ImageVerified ∧ Claims.PowerControlled ∧ Claims.ThermalLimits ∧ Claims.ErrorHandled ∧ Claims.TrialsCounted ∧ Claims.Attested

/-- 08 R171, R172, R192 and 01 R34: a step fetches what stands at the issue's program counter, decodes it and executes it; with no
issue left it takes the next event of the cycle, and with none left it begins a new cycle. The order of issues, events and cycles is
the model's (log 1); that a cycle begins with the accesses that were held, and takes no command through the mailbox before the package runs, is
too (logs 7 and 80). -/
def Obligations.StepRunsDecoded : Prop :=
  (∀ (s : State) iss rest x xs i n, s.issues = iss :: rest → iss.word = none → iss.lanes = x :: xs →
    decodeParcels ((s.kernelOf (s.thread iss.core x)).parcels iss.pc.toNat) = .ok (i, n) →
      step s = exec i { s.ticked with issues := { iss with len := n } :: rest }) ∧
  (∀ (s : State) iss rest w i, s.issues = iss :: rest → iss.word = some w → decodeWord w = .ok i →
    step s = exec i { s.ticked with issues := iss :: rest }) ∧
  (∀ (s : State) iss rest e, s.issues = iss :: rest → s.fetch iss = .error e →
    ∃ t, step s = .next t ∧ t.issues = rest ∧ ∀ x ∈ iss.lanes, (t.thread iss.core x).st = .parked ∧
      ∃ u ∈ t.units, u.trap.cause = .illegalOp ∧ u.trap.kind = e.step ∧ u.parkPc = iss.pc ∧ x ∈ u.threads.map Prod.snd) ∧
  (∀ (s : State) e rest, s.issues = [] → s.events = e :: rest → step s = exec e { s.ticked with events := rest }) ∧
  ∀ (s : State), s.issues = [] → s.events = [] → ∃ t, step s = .next t ∧ t.clk = s.clk + 1 ∧ t.inputs = s.inputs.drop 1 ∧
    ∃ picks agenda, t.events = picks ++ (s.waitIn ++ (s.inputs.headD []).filter fun i => s.power.stage == .running || !byMailbox i) ++ agenda ∧ ∀ e ∈ picks, ∃ c half, e = .pick c half

/-- 08 R174 to R186 and the worked words of chapters 08 to 12: each of these words is the instruction that the manual writes beside
it, and words that fail step 2, 3, 4 or 5 of 08 R192 are refused there. -/
def Obligations.DecodeWords : Prop :=
  decodeWord 0x000000000600068000300000 = .ok (.add bare .n32 (gr 6) (sg 6) (.special .lane false)) ∧
  decodeWord 0x098000000700001234560078 = .ok (.movi bare (gr 7) 0x12345678) ∧
  decodeWord 0x10C000000400010002002C04 = .ok (.ffma bare .f32 .rn (gr 4) (sg 1) (sg 2) (sg 4)) ∧
  decodeWord 0x30000060010004A000280020 = .ok (.setp bare .lt .i32 1 (sg 4) (.imm 0)) ∧
  decodeWord 0x320400FFFFFFE40000000000 = .ok (.bra (guarded 2) (-28)) ∧
  decodeWord 0x400000000810040000480040 = .ok (.ldG bare .b32 false (gr 8) (gp 4) 0x40) ∧
  decodeWord 0x50000000050004A001A02700 = .ok (.shfl bare .xor .b32 (gr 5) (sg 4) (.imm 1) (.imm 0)) ∧
  decodeWord 0x580000C04040022004003400 = .ok (.mma bare false .bf16 64 2 (.reg (.s 4 false)) 0) ∧
  decodeWord 0x6100000014A0006004000000 = .ok (.crdNext bare 20 (.imm 0) 4) ∧
  decodeWord 0x71C000000300000000002413 = .ok (.srd bare false (gr 3) 0x13) ∧
  decodeWord 0xB3C000000000000000000000 = .error .bit95 ∧
  decodeWord 0x340000000000000000000000 = .error .opcode ∧
  decodeWord 0x33C000000000000000000001 = .error .code ∧
  decodeWord 0x000000000700068000300000 = .ok (.add bare .n32 (gr 7) (sg 6) (.special .lane false)) ∧
  decodeWord 0x000000700600068000300000 = .error .operand

/-- 08 R171 to R187, R192: decoding is the inverse of encoding. Every well-formed instruction is read back from its words with every
operand, and every word that decodes is the word of the well-formed instruction that it decodes to. -/
def Obligations.DecodeEncode : Prop :=
  (∀ i w, WellFormed i = true → encodeWord i = some w → decodeWord w = .ok i) ∧
  (∀ i ps rest, WellFormed i = true → encode i = some ps → decodeParcels (ps ++ rest) = .ok (i, ps.length)) ∧
  (∀ w i, decodeWord w = .ok i → WellFormed i = true ∧ encodeWord i = some w) ∧
  ∀ ps i n, decodeParcels ps = .ok (i, n) → WellFormed i = true ∧ n ≤ ps.length ∧ (∀ k, i ≠ .shortParcel k → n = 6) ∧ (ps.take n = (encode i).getD [])

/-- Every step keeps device memory and host memory in canonical form. -/
def Obligations.MemoryKept : Prop := ∀ (s : State) t, MemInv s → step s = .next t → MemInv t

/-- 21 R445, 18 R382, 01 R39, 19 R397, R406, R407: what reset leaves. Memory that nothing has written reads as zero (logs 6 and 7), the
other zeros are of log 5. -/
def Obligations.ResetState : Prop :=
  MemInv State.reset ∧ State.reset.power.stage = .off ∧ State.reset.power.cap = 1500 ∧ State.reset.nextTag = 1 ∧
  State.reset.issues = [] ∧ State.reset.grids = [] ∧ State.reset.units = [] ∧ State.reset.retired = [] ∧ State.reset.poison = [] ∧
  (∀ a, Mem.get State.reset.mem a = 0) ∧
  (∀ c x, (State.reset.thread c x).st = .none ∧ (∀ n, (State.reset.thread c x).reg n = RegWord.zero) ∧
    ∀ n, 0 < n → n < 16 → (State.reset.thread c x).pred n = false ∧ (State.reset.thread c x).predEmpty n = false) ∧
  (∀ c k w, (State.reset.core c).queue = [] ∧ (State.reset.core c).overflow = [] ∧ ((State.reset.team c k).sp = [] ∧ (State.reset.group c w).live = false)) ∧
  (∀ v h, (State.reset.vf v).enable = false ∧ (State.reset.vf v).dlog = 0 ∧ (State.reset.kernel v h).live = false) ∧
  (∀ f, f % 32768 < 30720 → State.reset.owner f = ⟨true, false, false, 0⟩) ∧
  (State.reset.keySlot 0).present = true ∧ (∀ k, k ≠ 0 → (State.reset.keySlot k).present = false) ∧
  (∀ w, (State.reset.window w).state = .closed) ∧ ∀ c, State.reset.partOf c = none

/-- 12 R302, 10 R247 to R249, 20 R418, R419: the layout of a fault record, what parking a unit leaves, and how a record reaches the
fault queue. -/
def Obligations.FaultRecords : Prop :=
  (∀ r, InFields r → let f := recField r.bytes
    r.bytes.length = 120 ∧ f 0x08 63 0 = r.time.toNat ∧ f 0x10 63 48 = r.cause ∧ f 0x10 47 40 = r.kind ∧ f 0x10 39 36 = r.origin ∧
      f 0x10 35 32 = 0 ∧ f 0x10 31 0 = r.pc.toNat ∧ f 0x18 63 32 = r.parkPc.toNat ∧ f 0x18 31 0 = r.grid.toNat ∧
      f 0x20 63 48 = r.khandle.toNat ∧ f 0x20 47 44 = r.depth.toNat ∧ f 0x20 43 32 = r.principal.toNat ∧ f 0x20 31 26 = 0 ∧
      f 0x20 25 16 = r.vf.toNat ∧ f 0x20 15 12 = 0 ∧ f 0x20 11 0 = r.ctx ∧ f 0x28 63 48 = r.pkg.toNat ∧ f 0x28 47 41 = 0 ∧
      f 0x28 40 32 = r.core ∧ f 0x28 31 31 = r.bound.toNat ∧ f 0x28 30 9 = 0 ∧ f 0x28 8 0 = r.gset ∧ f 0x30 63 56 = 0 ∧
      f 0x30 55 0 = r.addr.toNat % 2 ^ 56 ∧ f 0x38 63 32 = r.info.toNat ∧ f 0x38 31 16 = 0 ∧ f 0x38 15 8 = r.buf ∧ f 0x38 7 0 = 0 ∧
      f 0x40 63 0 = r.performed.toNat ∧ f 0x48 63 0 = r.faulting.toNat ∧ f 0x50 63 0 = r.pending.toNat ∧
      f 0x58 63 0 = r.active.toNat ∧ f 0x60 63 32 = r.team.toNat ∧ f 0x60 31 30 = r.role ∧ f 0x60 29 0 = 0 ∧
      f 0x68 63 0 = 0 ∧ f 0x70 63 0 = 0 ∧ f 0x78 63 0 = 0) ∧
  (∀ (s : State) u needBuf, let t := s.park u needBuf
    t.nextUnit = s.nextUnit + 1 ∧
    (∃ w ∈ t.units, Parked s u w ∧ (needBuf = false → w.buf = none) ∧
      ∀ e, needBuf = true → leastFree 64 (fun n => (Tbl.get none (s.core u.core).rbuf n).isNone) = some e → w.buf = some e) ∧
    (∀ e ∈ u.threads, let a := s.thread u.core e.2; let b := t.thread u.core e.2
      b.st = .parked ∧ s.nextUnit ∈ b.units ∧ b.pc = a.pc ∧ b.regs = a.regs ∧ b.preds = a.preds ∧ b.pempty = a.pempty) ∧
    ∀ c x, (c ≠ u.core ∨ ∀ e ∈ u.threads, e.2 ≠ x) → t.thread c x = s.thread c x) ∧
  (∀ (s : State) v unit core body ph p, HasRoom s v ph → SlotAt s v ph p →
      let t := s.postRecord v unit core body
      t.mem = ((headTaken s ph).devPut p (leBytes 8 (devNat s ph 8 + 1) ++ body)).mem ∧ t.held = s.held ∧
        t.irqs = s.irqs ++ (if devNat s ph 8 = devNat s (ph + 8) 8 then [⟨none, 1⟩] else [])) ∧
  ∀ (s : State) v unit core body ph, DevReaches s v (s.vf v).fqAddr true ph →
    (s.vf v).fqSize ≤ (BitVec.ofNat 64 (devNat s ph 8) - BitVec.ofNat 64 (devNat s (ph + 8) 8)).toNat →
      (s.postRecord v unit core body).held = s.held ++ [⟨unit, v, core, body, s.clk + 1024⟩]
end

