-- ==== Sys2Proof/Laws/State.lean ====
section
/-! SUPPORT. One lemma per field and update of the state and of a thread: every field but the one that an update names is as it was. -/

namespace Sys2Proof.Laws

open Sys2Proof.Machine

/-! ## `State.setCore` -/

@[simp] theorem setCore_clk (s : State) (c : Nat) (v : Core) : (s.setCore c v).clk = s.clk := rfl
@[simp] theorem setCore_tick (s : State) (c : Nat) (v : Core) : (s.setCore c v).tick = s.tick := rfl
@[simp] theorem setCore_issues (s : State) (c : Nat) (v : Core) : (s.setCore c v).issues = s.issues := rfl
@[simp] theorem setCore_chosen (s : State) (c : Nat) (v : Core) : (s.setCore c v).chosen = s.chosen := rfl
@[simp] theorem setCore_events (s : State) (c : Nat) (v : Core) : (s.setCore c v).events = s.events := rfl
@[simp] theorem setCore_inputs (s : State) (c : Nat) (v : Core) : (s.setCore c v).inputs = s.inputs := rfl
@[simp] theorem setCore_waitIn (s : State) (c : Nat) (v : Core) : (s.setCore c v).waitIn = s.waitIn := rfl
@[simp] theorem setCore_nextReq (s : State) (c : Nat) (v : Core) : (s.setCore c v).nextReq = s.nextReq := rfl
@[simp] theorem setCore_nextUnit (s : State) (c : Nat) (v : Core) : (s.setCore c v).nextUnit = s.nextUnit := rfl
@[simp] theorem setCore_nextIssue (s : State) (c : Nat) (v : Core) : (s.setCore c v).nextIssue = s.nextIssue := rfl
@[simp] theorem setCore_cores (s : State) (c : Nat) (v : Core) : (s.setCore c v).cores = Tbl.set s.cores c v := rfl
@[simp] theorem setCore_mem (s : State) (c : Nat) (v : Core) : (s.setCore c v).mem = s.mem := rfl
@[simp] theorem setCore_hostMem (s : State) (c : Nat) (v : Core) : (s.setCore c v).hostMem = s.hostMem := rfl
@[simp] theorem setCore_fabnum (s : State) (c : Nat) (v : Core) : (s.setCore c v).fabnum = s.fabnum := rfl
@[simp] theorem setCore_fabtab (s : State) (c : Nat) (v : Core) : (s.setCore c v).fabtab = s.fabtab := rfl
@[simp] theorem setCore_vfs (s : State) (c : Nat) (v : Core) : (s.setCore c v).vfs = s.vfs := rfl
@[simp] theorem setCore_parts (s : State) (c : Nat) (v : Core) : (s.setCore c v).parts = s.parts := rfl
@[simp] theorem setCore_octmap (s : State) (c : Nat) (v : Core) : (s.setCore c v).octmap = s.octmap := rfl
@[simp] theorem setCore_partpair (s : State) (c : Nat) (v : Core) : (s.setCore c v).partpair = s.partpair := rfl
@[simp] theorem setCore_fwctl (s : State) (c : Nat) (v : Core) : (s.setCore c v).fwctl = s.fwctl := rfl
@[simp] theorem setCore_fwdrop (s : State) (c : Nat) (v : Core) : (s.setCore c v).fwdrop = s.fwdrop := rfl
@[simp] theorem setCore_fwbounce (s : State) (c : Nat) (v : Core) : (s.setCore c v).fwbounce = s.fwbounce := rfl
@[simp] theorem setCore_owners (s : State) (c : Nat) (v : Core) : (s.setCore c v).owners = s.owners := rfl
@[simp] theorem setCore_enc (s : State) (c : Nat) (v : Core) : (s.setCore c v).enc = s.enc := rfl
@[simp] theorem setCore_keys (s : State) (c : Nat) (v : Core) : (s.setCore c v).keys = s.keys := rfl
@[simp] theorem setCore_ctrs (s : State) (c : Nat) (v : Core) : (s.setCore c v).ctrs = s.ctrs := rfl
@[simp] theorem setCore_poison (s : State) (c : Nat) (v : Core) : (s.setCore c v).poison = s.poison := rfl
@[simp] theorem setCore_retired (s : State) (c : Nat) (v : Core) : (s.setCore c v).retired = s.retired := rfl
@[simp] theorem setCore_retList (s : State) (c : Nat) (v : Core) : (s.setCore c v).retList = s.retList := rfl
@[simp] theorem setCore_worn (s : State) (c : Nat) (v : Core) : (s.setCore c v).worn = s.worn := rfl
@[simp] theorem setCore_failed (s : State) (c : Nat) (v : Core) : (s.setCore c v).failed = s.failed := rfl
@[simp] theorem setCore_windows (s : State) (c : Nat) (v : Core) : (s.setCore c v).windows = s.windows := rfl
@[simp] theorem setCore_reqs (s : State) (c : Nat) (v : Core) : (s.setCore c v).reqs = s.reqs := rfl
@[simp] theorem setCore_turned (s : State) (c : Nat) (v : Core) : (s.setCore c v).turned = s.turned := rfl
@[simp] theorem setCore_fills (s : State) (c : Nat) (v : Core) : (s.setCore c v).fills = s.fills := rfl
@[simp] theorem setCore_flights (s : State) (c : Nat) (v : Core) : (s.setCore c v).flights = s.flights := rfl
@[simp] theorem setCore_ports (s : State) (c : Nat) (v : Core) : (s.setCore c v).ports = s.ports := rfl
@[simp] theorem setCore_routers (s : State) (c : Nat) (v : Core) : (s.setCore c v).routers = s.routers := rfl
@[simp] theorem setCore_grids (s : State) (c : Nat) (v : Core) : (s.setCore c v).grids = s.grids := rfl
@[simp] theorem setCore_nextTag (s : State) (c : Nat) (v : Core) : (s.setCore c v).nextTag = s.nextTag := rfl
@[simp] theorem setCore_resvQ (s : State) (c : Nat) (v : Core) : (s.setCore c v).resvQ = s.resvQ := rfl
@[simp] theorem setCore_grants (s : State) (c : Nat) (v : Core) : (s.setCore c v).grants = s.grants := rfl
@[simp] theorem setCore_decs (s : State) (c : Nat) (v : Core) : (s.setCore c v).decs = s.decs := rfl
@[simp] theorem setCore_units (s : State) (c : Nat) (v : Core) : (s.setCore c v).units = s.units := rfl
@[simp] theorem setCore_held (s : State) (c : Nat) (v : Core) : (s.setCore c v).held = s.held := rfl
@[simp] theorem setCore_tests (s : State) (c : Nat) (v : Core) : (s.setCore c v).tests = s.tests := rfl
@[simp] theorem setCore_linkRetry (s : State) (c : Nat) (v : Core) : (s.setCore c v).linkRetry = s.linkRetry := rfl
@[simp] theorem setCore_power (s : State) (c : Nat) (v : Core) : (s.setCore c v).power = s.power := rfl
@[simp] theorem setCore_hostDeny (s : State) (c : Nat) (v : Core) : (s.setCore c v).hostDeny = s.hostDeny := rfl
@[simp] theorem setCore_irqs (s : State) (c : Nat) (v : Core) : (s.setCore c v).irqs = s.irqs := rfl
@[simp] theorem setCore_hostOut (s : State) (c : Nat) (v : Core) : (s.setCore c v).hostOut = s.hostOut := rfl

/-! ## `State.modCore` -/

@[simp] theorem modCore_clk (s : State) (c : Nat) (f : Core → Core) : (s.modCore c f).clk = s.clk := rfl
@[simp] theorem modCore_tick (s : State) (c : Nat) (f : Core → Core) : (s.modCore c f).tick = s.tick := rfl
@[simp] theorem modCore_issues (s : State) (c : Nat) (f : Core → Core) : (s.modCore c f).issues = s.issues := rfl
@[simp] theorem modCore_chosen (s : State) (c : Nat) (f : Core → Core) : (s.modCore c f).chosen = s.chosen := rfl
@[simp] theorem modCore_events (s : State) (c : Nat) (f : Core → Core) : (s.modCore c f).events = s.events := rfl
@[simp] theorem modCore_inputs (s : State) (c : Nat) (f : Core → Core) : (s.modCore c f).inputs = s.inputs := rfl
@[simp] theorem modCore_waitIn (s : State) (c : Nat) (f : Core → Core) : (s.modCore c f).waitIn = s.waitIn := rfl
@[simp] theorem modCore_nextReq (s : State) (c : Nat) (f : Core → Core) : (s.modCore c f).nextReq = s.nextReq := rfl
@[simp] theorem modCore_nextUnit (s : State) (c : Nat) (f : Core → Core) : (s.modCore c f).nextUnit = s.nextUnit := rfl
@[simp] theorem modCore_nextIssue (s : State) (c : Nat) (f : Core → Core) : (s.modCore c f).nextIssue = s.nextIssue := rfl
@[simp] theorem modCore_cores (s : State) (c : Nat) (f : Core → Core) : (s.modCore c f).cores = Tbl.set s.cores c (f (s.core c)) := rfl
@[simp] theorem modCore_mem (s : State) (c : Nat) (f : Core → Core) : (s.modCore c f).mem = s.mem := rfl
@[simp] theorem modCore_hostMem (s : State) (c : Nat) (f : Core → Core) : (s.modCore c f).hostMem = s.hostMem := rfl
@[simp] theorem modCore_fabnum (s : State) (c : Nat) (f : Core → Core) : (s.modCore c f).fabnum = s.fabnum := rfl
@[simp] theorem modCore_fabtab (s : State) (c : Nat) (f : Core → Core) : (s.modCore c f).fabtab = s.fabtab := rfl
@[simp] theorem modCore_vfs (s : State) (c : Nat) (f : Core → Core) : (s.modCore c f).vfs = s.vfs := rfl
@[simp] theorem modCore_parts (s : State) (c : Nat) (f : Core → Core) : (s.modCore c f).parts = s.parts := rfl
@[simp] theorem modCore_octmap (s : State) (c : Nat) (f : Core → Core) : (s.modCore c f).octmap = s.octmap := rfl
@[simp] theorem modCore_partpair (s : State) (c : Nat) (f : Core → Core) : (s.modCore c f).partpair = s.partpair := rfl
@[simp] theorem modCore_fwctl (s : State) (c : Nat) (f : Core → Core) : (s.modCore c f).fwctl = s.fwctl := rfl
@[simp] theorem modCore_fwdrop (s : State) (c : Nat) (f : Core → Core) : (s.modCore c f).fwdrop = s.fwdrop := rfl
@[simp] theorem modCore_fwbounce (s : State) (c : Nat) (f : Core → Core) : (s.modCore c f).fwbounce = s.fwbounce := rfl
@[simp] theorem modCore_owners (s : State) (c : Nat) (f : Core → Core) : (s.modCore c f).owners = s.owners := rfl
@[simp] theorem modCore_enc (s : State) (c : Nat) (f : Core → Core) : (s.modCore c f).enc = s.enc := rfl
@[simp] theorem modCore_keys (s : State) (c : Nat) (f : Core → Core) : (s.modCore c f).keys = s.keys := rfl
@[simp] theorem modCore_ctrs (s : State) (c : Nat) (f : Core → Core) : (s.modCore c f).ctrs = s.ctrs := rfl
@[simp] theorem modCore_poison (s : State) (c : Nat) (f : Core → Core) : (s.modCore c f).poison = s.poison := rfl
@[simp] theorem modCore_retired (s : State) (c : Nat) (f : Core → Core) : (s.modCore c f).retired = s.retired := rfl
@[simp] theorem modCore_retList (s : State) (c : Nat) (f : Core → Core) : (s.modCore c f).retList = s.retList := rfl
@[simp] theorem modCore_worn (s : State) (c : Nat) (f : Core → Core) : (s.modCore c f).worn = s.worn := rfl
@[simp] theorem modCore_failed (s : State) (c : Nat) (f : Core → Core) : (s.modCore c f).failed = s.failed := rfl
@[simp] theorem modCore_windows (s : State) (c : Nat) (f : Core → Core) : (s.modCore c f).windows = s.windows := rfl
@[simp] theorem modCore_reqs (s : State) (c : Nat) (f : Core → Core) : (s.modCore c f).reqs = s.reqs := rfl
@[simp] theorem modCore_turned (s : State) (c : Nat) (f : Core → Core) : (s.modCore c f).turned = s.turned := rfl
@[simp] theorem modCore_fills (s : State) (c : Nat) (f : Core → Core) : (s.modCore c f).fills = s.fills := rfl
@[simp] theorem modCore_flights (s : State) (c : Nat) (f : Core → Core) : (s.modCore c f).flights = s.flights := rfl
@[simp] theorem modCore_ports (s : State) (c : Nat) (f : Core → Core) : (s.modCore c f).ports = s.ports := rfl
@[simp] theorem modCore_routers (s : State) (c : Nat) (f : Core → Core) : (s.modCore c f).routers = s.routers := rfl
@[simp] theorem modCore_grids (s : State) (c : Nat) (f : Core → Core) : (s.modCore c f).grids = s.grids := rfl
@[simp] theorem modCore_nextTag (s : State) (c : Nat) (f : Core → Core) : (s.modCore c f).nextTag = s.nextTag := rfl
@[simp] theorem modCore_resvQ (s : State) (c : Nat) (f : Core → Core) : (s.modCore c f).resvQ = s.resvQ := rfl
@[simp] theorem modCore_grants (s : State) (c : Nat) (f : Core → Core) : (s.modCore c f).grants = s.grants := rfl
@[simp] theorem modCore_decs (s : State) (c : Nat) (f : Core → Core) : (s.modCore c f).decs = s.decs := rfl
@[simp] theorem modCore_units (s : State) (c : Nat) (f : Core → Core) : (s.modCore c f).units = s.units := rfl
@[simp] theorem modCore_held (s : State) (c : Nat) (f : Core → Core) : (s.modCore c f).held = s.held := rfl
@[simp] theorem modCore_tests (s : State) (c : Nat) (f : Core → Core) : (s.modCore c f).tests = s.tests := rfl
@[simp] theorem modCore_linkRetry (s : State) (c : Nat) (f : Core → Core) : (s.modCore c f).linkRetry = s.linkRetry := rfl
@[simp] theorem modCore_power (s : State) (c : Nat) (f : Core → Core) : (s.modCore c f).power = s.power := rfl
@[simp] theorem modCore_hostDeny (s : State) (c : Nat) (f : Core → Core) : (s.modCore c f).hostDeny = s.hostDeny := rfl
@[simp] theorem modCore_irqs (s : State) (c : Nat) (f : Core → Core) : (s.modCore c f).irqs = s.irqs := rfl
@[simp] theorem modCore_hostOut (s : State) (c : Nat) (f : Core → Core) : (s.modCore c f).hostOut = s.hostOut := rfl

/-! ## `State.modVf` -/

@[simp] theorem modVf_clk (s : State) (v : Nat) (f : Vf → Vf) : (s.modVf v f).clk = s.clk := rfl
@[simp] theorem modVf_tick (s : State) (v : Nat) (f : Vf → Vf) : (s.modVf v f).tick = s.tick := rfl
@[simp] theorem modVf_issues (s : State) (v : Nat) (f : Vf → Vf) : (s.modVf v f).issues = s.issues := rfl
@[simp] theorem modVf_chosen (s : State) (v : Nat) (f : Vf → Vf) : (s.modVf v f).chosen = s.chosen := rfl
@[simp] theorem modVf_events (s : State) (v : Nat) (f : Vf → Vf) : (s.modVf v f).events = s.events := rfl
@[simp] theorem modVf_inputs (s : State) (v : Nat) (f : Vf → Vf) : (s.modVf v f).inputs = s.inputs := rfl
@[simp] theorem modVf_waitIn (s : State) (v : Nat) (f : Vf → Vf) : (s.modVf v f).waitIn = s.waitIn := rfl
@[simp] theorem modVf_nextReq (s : State) (v : Nat) (f : Vf → Vf) : (s.modVf v f).nextReq = s.nextReq := rfl
@[simp] theorem modVf_nextUnit (s : State) (v : Nat) (f : Vf → Vf) : (s.modVf v f).nextUnit = s.nextUnit := rfl
@[simp] theorem modVf_nextIssue (s : State) (v : Nat) (f : Vf → Vf) : (s.modVf v f).nextIssue = s.nextIssue := rfl
@[simp] theorem modVf_cores (s : State) (v : Nat) (f : Vf → Vf) : (s.modVf v f).cores = s.cores := rfl
@[simp] theorem modVf_mem (s : State) (v : Nat) (f : Vf → Vf) : (s.modVf v f).mem = s.mem := rfl
@[simp] theorem modVf_hostMem (s : State) (v : Nat) (f : Vf → Vf) : (s.modVf v f).hostMem = s.hostMem := rfl
@[simp] theorem modVf_fabnum (s : State) (v : Nat) (f : Vf → Vf) : (s.modVf v f).fabnum = s.fabnum := rfl
@[simp] theorem modVf_fabtab (s : State) (v : Nat) (f : Vf → Vf) : (s.modVf v f).fabtab = s.fabtab := rfl
@[simp] theorem modVf_vfs (s : State) (v : Nat) (f : Vf → Vf) : (s.modVf v f).vfs = Tbl.set s.vfs v (f (s.vf v)) := rfl
@[simp] theorem modVf_parts (s : State) (v : Nat) (f : Vf → Vf) : (s.modVf v f).parts = s.parts := rfl
@[simp] theorem modVf_octmap (s : State) (v : Nat) (f : Vf → Vf) : (s.modVf v f).octmap = s.octmap := rfl
@[simp] theorem modVf_partpair (s : State) (v : Nat) (f : Vf → Vf) : (s.modVf v f).partpair = s.partpair := rfl
@[simp] theorem modVf_fwctl (s : State) (v : Nat) (f : Vf → Vf) : (s.modVf v f).fwctl = s.fwctl := rfl
@[simp] theorem modVf_fwdrop (s : State) (v : Nat) (f : Vf → Vf) : (s.modVf v f).fwdrop = s.fwdrop := rfl
@[simp] theorem modVf_fwbounce (s : State) (v : Nat) (f : Vf → Vf) : (s.modVf v f).fwbounce = s.fwbounce := rfl
@[simp] theorem modVf_owners (s : State) (v : Nat) (f : Vf → Vf) : (s.modVf v f).owners = s.owners := rfl
@[simp] theorem modVf_enc (s : State) (v : Nat) (f : Vf → Vf) : (s.modVf v f).enc = s.enc := rfl
@[simp] theorem modVf_keys (s : State) (v : Nat) (f : Vf → Vf) : (s.modVf v f).keys = s.keys := rfl
@[simp] theorem modVf_ctrs (s : State) (v : Nat) (f : Vf → Vf) : (s.modVf v f).ctrs = s.ctrs := rfl
@[simp] theorem modVf_poison (s : State) (v : Nat) (f : Vf → Vf) : (s.modVf v f).poison = s.poison := rfl
@[simp] theorem modVf_retired (s : State) (v : Nat) (f : Vf → Vf) : (s.modVf v f).retired = s.retired := rfl
@[simp] theorem modVf_retList (s : State) (v : Nat) (f : Vf → Vf) : (s.modVf v f).retList = s.retList := rfl
@[simp] theorem modVf_worn (s : State) (v : Nat) (f : Vf → Vf) : (s.modVf v f).worn = s.worn := rfl
@[simp] theorem modVf_failed (s : State) (v : Nat) (f : Vf → Vf) : (s.modVf v f).failed = s.failed := rfl
@[simp] theorem modVf_windows (s : State) (v : Nat) (f : Vf → Vf) : (s.modVf v f).windows = s.windows := rfl
@[simp] theorem modVf_reqs (s : State) (v : Nat) (f : Vf → Vf) : (s.modVf v f).reqs = s.reqs := rfl
@[simp] theorem modVf_turned (s : State) (v : Nat) (f : Vf → Vf) : (s.modVf v f).turned = s.turned := rfl
@[simp] theorem modVf_fills (s : State) (v : Nat) (f : Vf → Vf) : (s.modVf v f).fills = s.fills := rfl
@[simp] theorem modVf_flights (s : State) (v : Nat) (f : Vf → Vf) : (s.modVf v f).flights = s.flights := rfl
@[simp] theorem modVf_ports (s : State) (v : Nat) (f : Vf → Vf) : (s.modVf v f).ports = s.ports := rfl
@[simp] theorem modVf_routers (s : State) (v : Nat) (f : Vf → Vf) : (s.modVf v f).routers = s.routers := rfl
@[simp] theorem modVf_grids (s : State) (v : Nat) (f : Vf → Vf) : (s.modVf v f).grids = s.grids := rfl
@[simp] theorem modVf_nextTag (s : State) (v : Nat) (f : Vf → Vf) : (s.modVf v f).nextTag = s.nextTag := rfl
@[simp] theorem modVf_resvQ (s : State) (v : Nat) (f : Vf → Vf) : (s.modVf v f).resvQ = s.resvQ := rfl
@[simp] theorem modVf_grants (s : State) (v : Nat) (f : Vf → Vf) : (s.modVf v f).grants = s.grants := rfl
@[simp] theorem modVf_decs (s : State) (v : Nat) (f : Vf → Vf) : (s.modVf v f).decs = s.decs := rfl
@[simp] theorem modVf_units (s : State) (v : Nat) (f : Vf → Vf) : (s.modVf v f).units = s.units := rfl
@[simp] theorem modVf_held (s : State) (v : Nat) (f : Vf → Vf) : (s.modVf v f).held = s.held := rfl
@[simp] theorem modVf_tests (s : State) (v : Nat) (f : Vf → Vf) : (s.modVf v f).tests = s.tests := rfl
@[simp] theorem modVf_linkRetry (s : State) (v : Nat) (f : Vf → Vf) : (s.modVf v f).linkRetry = s.linkRetry := rfl
@[simp] theorem modVf_power (s : State) (v : Nat) (f : Vf → Vf) : (s.modVf v f).power = s.power := rfl
@[simp] theorem modVf_hostDeny (s : State) (v : Nat) (f : Vf → Vf) : (s.modVf v f).hostDeny = s.hostDeny := rfl
@[simp] theorem modVf_irqs (s : State) (v : Nat) (f : Vf → Vf) : (s.modVf v f).irqs = s.irqs := rfl
@[simp] theorem modVf_hostOut (s : State) (v : Nat) (f : Vf → Vf) : (s.modVf v f).hostOut = s.hostOut := rfl

/-! ## `State.modPart` -/

@[simp] theorem modPart_clk (s : State) (p : Nat) (f : Part → Part) : (s.modPart p f).clk = s.clk := rfl
@[simp] theorem modPart_tick (s : State) (p : Nat) (f : Part → Part) : (s.modPart p f).tick = s.tick := rfl
@[simp] theorem modPart_issues (s : State) (p : Nat) (f : Part → Part) : (s.modPart p f).issues = s.issues := rfl
@[simp] theorem modPart_chosen (s : State) (p : Nat) (f : Part → Part) : (s.modPart p f).chosen = s.chosen := rfl
@[simp] theorem modPart_events (s : State) (p : Nat) (f : Part → Part) : (s.modPart p f).events = s.events := rfl
@[simp] theorem modPart_inputs (s : State) (p : Nat) (f : Part → Part) : (s.modPart p f).inputs = s.inputs := rfl
@[simp] theorem modPart_waitIn (s : State) (p : Nat) (f : Part → Part) : (s.modPart p f).waitIn = s.waitIn := rfl
@[simp] theorem modPart_nextReq (s : State) (p : Nat) (f : Part → Part) : (s.modPart p f).nextReq = s.nextReq := rfl
@[simp] theorem modPart_nextUnit (s : State) (p : Nat) (f : Part → Part) : (s.modPart p f).nextUnit = s.nextUnit := rfl
@[simp] theorem modPart_nextIssue (s : State) (p : Nat) (f : Part → Part) : (s.modPart p f).nextIssue = s.nextIssue := rfl
@[simp] theorem modPart_cores (s : State) (p : Nat) (f : Part → Part) : (s.modPart p f).cores = s.cores := rfl
@[simp] theorem modPart_mem (s : State) (p : Nat) (f : Part → Part) : (s.modPart p f).mem = s.mem := rfl
@[simp] theorem modPart_hostMem (s : State) (p : Nat) (f : Part → Part) : (s.modPart p f).hostMem = s.hostMem := rfl
@[simp] theorem modPart_fabnum (s : State) (p : Nat) (f : Part → Part) : (s.modPart p f).fabnum = s.fabnum := rfl
@[simp] theorem modPart_fabtab (s : State) (p : Nat) (f : Part → Part) : (s.modPart p f).fabtab = s.fabtab := rfl
@[simp] theorem modPart_vfs (s : State) (p : Nat) (f : Part → Part) : (s.modPart p f).vfs = s.vfs := rfl
@[simp] theorem modPart_parts (s : State) (p : Nat) (f : Part → Part) : (s.modPart p f).parts = Tbl.set s.parts p (f (s.part p)) := rfl
@[simp] theorem modPart_octmap (s : State) (p : Nat) (f : Part → Part) : (s.modPart p f).octmap = s.octmap := rfl
@[simp] theorem modPart_partpair (s : State) (p : Nat) (f : Part → Part) : (s.modPart p f).partpair = s.partpair := rfl
@[simp] theorem modPart_fwctl (s : State) (p : Nat) (f : Part → Part) : (s.modPart p f).fwctl = s.fwctl := rfl
@[simp] theorem modPart_fwdrop (s : State) (p : Nat) (f : Part → Part) : (s.modPart p f).fwdrop = s.fwdrop := rfl
@[simp] theorem modPart_fwbounce (s : State) (p : Nat) (f : Part → Part) : (s.modPart p f).fwbounce = s.fwbounce := rfl
@[simp] theorem modPart_owners (s : State) (p : Nat) (f : Part → Part) : (s.modPart p f).owners = s.owners := rfl
@[simp] theorem modPart_enc (s : State) (p : Nat) (f : Part → Part) : (s.modPart p f).enc = s.enc := rfl
@[simp] theorem modPart_keys (s : State) (p : Nat) (f : Part → Part) : (s.modPart p f).keys = s.keys := rfl
@[simp] theorem modPart_ctrs (s : State) (p : Nat) (f : Part → Part) : (s.modPart p f).ctrs = s.ctrs := rfl
@[simp] theorem modPart_poison (s : State) (p : Nat) (f : Part → Part) : (s.modPart p f).poison = s.poison := rfl
@[simp] theorem modPart_retired (s : State) (p : Nat) (f : Part → Part) : (s.modPart p f).retired = s.retired := rfl
@[simp] theorem modPart_retList (s : State) (p : Nat) (f : Part → Part) : (s.modPart p f).retList = s.retList := rfl
@[simp] theorem modPart_worn (s : State) (p : Nat) (f : Part → Part) : (s.modPart p f).worn = s.worn := rfl
@[simp] theorem modPart_failed (s : State) (p : Nat) (f : Part → Part) : (s.modPart p f).failed = s.failed := rfl
@[simp] theorem modPart_windows (s : State) (p : Nat) (f : Part → Part) : (s.modPart p f).windows = s.windows := rfl
@[simp] theorem modPart_reqs (s : State) (p : Nat) (f : Part → Part) : (s.modPart p f).reqs = s.reqs := rfl
@[simp] theorem modPart_turned (s : State) (p : Nat) (f : Part → Part) : (s.modPart p f).turned = s.turned := rfl
@[simp] theorem modPart_fills (s : State) (p : Nat) (f : Part → Part) : (s.modPart p f).fills = s.fills := rfl
@[simp] theorem modPart_flights (s : State) (p : Nat) (f : Part → Part) : (s.modPart p f).flights = s.flights := rfl
@[simp] theorem modPart_ports (s : State) (p : Nat) (f : Part → Part) : (s.modPart p f).ports = s.ports := rfl
@[simp] theorem modPart_routers (s : State) (p : Nat) (f : Part → Part) : (s.modPart p f).routers = s.routers := rfl
@[simp] theorem modPart_grids (s : State) (p : Nat) (f : Part → Part) : (s.modPart p f).grids = s.grids := rfl
@[simp] theorem modPart_nextTag (s : State) (p : Nat) (f : Part → Part) : (s.modPart p f).nextTag = s.nextTag := rfl
@[simp] theorem modPart_resvQ (s : State) (p : Nat) (f : Part → Part) : (s.modPart p f).resvQ = s.resvQ := rfl
@[simp] theorem modPart_grants (s : State) (p : Nat) (f : Part → Part) : (s.modPart p f).grants = s.grants := rfl
@[simp] theorem modPart_decs (s : State) (p : Nat) (f : Part → Part) : (s.modPart p f).decs = s.decs := rfl
@[simp] theorem modPart_units (s : State) (p : Nat) (f : Part → Part) : (s.modPart p f).units = s.units := rfl
@[simp] theorem modPart_held (s : State) (p : Nat) (f : Part → Part) : (s.modPart p f).held = s.held := rfl
@[simp] theorem modPart_tests (s : State) (p : Nat) (f : Part → Part) : (s.modPart p f).tests = s.tests := rfl
@[simp] theorem modPart_linkRetry (s : State) (p : Nat) (f : Part → Part) : (s.modPart p f).linkRetry = s.linkRetry := rfl
@[simp] theorem modPart_power (s : State) (p : Nat) (f : Part → Part) : (s.modPart p f).power = s.power := rfl
@[simp] theorem modPart_hostDeny (s : State) (p : Nat) (f : Part → Part) : (s.modPart p f).hostDeny = s.hostDeny := rfl
@[simp] theorem modPart_irqs (s : State) (p : Nat) (f : Part → Part) : (s.modPart p f).irqs = s.irqs := rfl
@[simp] theorem modPart_hostOut (s : State) (p : Nat) (f : Part → Part) : (s.modPart p f).hostOut = s.hostOut := rfl

/-! ## `State.modWindow` -/

@[simp] theorem modWindow_clk (s : State) (w : Nat) (f : Window → Window) : (s.modWindow w f).clk = s.clk := rfl
@[simp] theorem modWindow_tick (s : State) (w : Nat) (f : Window → Window) : (s.modWindow w f).tick = s.tick := rfl
@[simp] theorem modWindow_issues (s : State) (w : Nat) (f : Window → Window) : (s.modWindow w f).issues = s.issues := rfl
@[simp] theorem modWindow_chosen (s : State) (w : Nat) (f : Window → Window) : (s.modWindow w f).chosen = s.chosen := rfl
@[simp] theorem modWindow_events (s : State) (w : Nat) (f : Window → Window) : (s.modWindow w f).events = s.events := rfl
@[simp] theorem modWindow_inputs (s : State) (w : Nat) (f : Window → Window) : (s.modWindow w f).inputs = s.inputs := rfl
@[simp] theorem modWindow_waitIn (s : State) (w : Nat) (f : Window → Window) : (s.modWindow w f).waitIn = s.waitIn := rfl
@[simp] theorem modWindow_nextReq (s : State) (w : Nat) (f : Window → Window) : (s.modWindow w f).nextReq = s.nextReq := rfl
@[simp] theorem modWindow_nextUnit (s : State) (w : Nat) (f : Window → Window) : (s.modWindow w f).nextUnit = s.nextUnit := rfl
@[simp] theorem modWindow_nextIssue (s : State) (w : Nat) (f : Window → Window) : (s.modWindow w f).nextIssue = s.nextIssue := rfl
@[simp] theorem modWindow_cores (s : State) (w : Nat) (f : Window → Window) : (s.modWindow w f).cores = s.cores := rfl
@[simp] theorem modWindow_mem (s : State) (w : Nat) (f : Window → Window) : (s.modWindow w f).mem = s.mem := rfl
@[simp] theorem modWindow_hostMem (s : State) (w : Nat) (f : Window → Window) : (s.modWindow w f).hostMem = s.hostMem := rfl
@[simp] theorem modWindow_fabnum (s : State) (w : Nat) (f : Window → Window) : (s.modWindow w f).fabnum = s.fabnum := rfl
@[simp] theorem modWindow_fabtab (s : State) (w : Nat) (f : Window → Window) : (s.modWindow w f).fabtab = s.fabtab := rfl
@[simp] theorem modWindow_vfs (s : State) (w : Nat) (f : Window → Window) : (s.modWindow w f).vfs = s.vfs := rfl
@[simp] theorem modWindow_parts (s : State) (w : Nat) (f : Window → Window) : (s.modWindow w f).parts = s.parts := rfl
@[simp] theorem modWindow_octmap (s : State) (w : Nat) (f : Window → Window) : (s.modWindow w f).octmap = s.octmap := rfl
@[simp] theorem modWindow_partpair (s : State) (w : Nat) (f : Window → Window) : (s.modWindow w f).partpair = s.partpair := rfl
@[simp] theorem modWindow_fwctl (s : State) (w : Nat) (f : Window → Window) : (s.modWindow w f).fwctl = s.fwctl := rfl
@[simp] theorem modWindow_fwdrop (s : State) (w : Nat) (f : Window → Window) : (s.modWindow w f).fwdrop = s.fwdrop := rfl
@[simp] theorem modWindow_fwbounce (s : State) (w : Nat) (f : Window → Window) : (s.modWindow w f).fwbounce = s.fwbounce := rfl
@[simp] theorem modWindow_owners (s : State) (w : Nat) (f : Window → Window) : (s.modWindow w f).owners = s.owners := rfl
@[simp] theorem modWindow_enc (s : State) (w : Nat) (f : Window → Window) : (s.modWindow w f).enc = s.enc := rfl
@[simp] theorem modWindow_keys (s : State) (w : Nat) (f : Window → Window) : (s.modWindow w f).keys = s.keys := rfl
@[simp] theorem modWindow_ctrs (s : State) (w : Nat) (f : Window → Window) : (s.modWindow w f).ctrs = s.ctrs := rfl
@[simp] theorem modWindow_poison (s : State) (w : Nat) (f : Window → Window) : (s.modWindow w f).poison = s.poison := rfl
@[simp] theorem modWindow_retired (s : State) (w : Nat) (f : Window → Window) : (s.modWindow w f).retired = s.retired := rfl
@[simp] theorem modWindow_retList (s : State) (w : Nat) (f : Window → Window) : (s.modWindow w f).retList = s.retList := rfl
@[simp] theorem modWindow_worn (s : State) (w : Nat) (f : Window → Window) : (s.modWindow w f).worn = s.worn := rfl
@[simp] theorem modWindow_failed (s : State) (w : Nat) (f : Window → Window) : (s.modWindow w f).failed = s.failed := rfl
@[simp] theorem modWindow_windows (s : State) (w : Nat) (f : Window → Window) : (s.modWindow w f).windows = Tbl.set s.windows w (f (s.window w)) := rfl
@[simp] theorem modWindow_reqs (s : State) (w : Nat) (f : Window → Window) : (s.modWindow w f).reqs = s.reqs := rfl
@[simp] theorem modWindow_turned (s : State) (w : Nat) (f : Window → Window) : (s.modWindow w f).turned = s.turned := rfl
@[simp] theorem modWindow_fills (s : State) (w : Nat) (f : Window → Window) : (s.modWindow w f).fills = s.fills := rfl
@[simp] theorem modWindow_flights (s : State) (w : Nat) (f : Window → Window) : (s.modWindow w f).flights = s.flights := rfl
@[simp] theorem modWindow_ports (s : State) (w : Nat) (f : Window → Window) : (s.modWindow w f).ports = s.ports := rfl
@[simp] theorem modWindow_routers (s : State) (w : Nat) (f : Window → Window) : (s.modWindow w f).routers = s.routers := rfl
@[simp] theorem modWindow_grids (s : State) (w : Nat) (f : Window → Window) : (s.modWindow w f).grids = s.grids := rfl
@[simp] theorem modWindow_nextTag (s : State) (w : Nat) (f : Window → Window) : (s.modWindow w f).nextTag = s.nextTag := rfl
@[simp] theorem modWindow_resvQ (s : State) (w : Nat) (f : Window → Window) : (s.modWindow w f).resvQ = s.resvQ := rfl
@[simp] theorem modWindow_grants (s : State) (w : Nat) (f : Window → Window) : (s.modWindow w f).grants = s.grants := rfl
@[simp] theorem modWindow_decs (s : State) (w : Nat) (f : Window → Window) : (s.modWindow w f).decs = s.decs := rfl
@[simp] theorem modWindow_units (s : State) (w : Nat) (f : Window → Window) : (s.modWindow w f).units = s.units := rfl
@[simp] theorem modWindow_held (s : State) (w : Nat) (f : Window → Window) : (s.modWindow w f).held = s.held := rfl
@[simp] theorem modWindow_tests (s : State) (w : Nat) (f : Window → Window) : (s.modWindow w f).tests = s.tests := rfl
@[simp] theorem modWindow_linkRetry (s : State) (w : Nat) (f : Window → Window) : (s.modWindow w f).linkRetry = s.linkRetry := rfl
@[simp] theorem modWindow_power (s : State) (w : Nat) (f : Window → Window) : (s.modWindow w f).power = s.power := rfl
@[simp] theorem modWindow_hostDeny (s : State) (w : Nat) (f : Window → Window) : (s.modWindow w f).hostDeny = s.hostDeny := rfl
@[simp] theorem modWindow_irqs (s : State) (w : Nat) (f : Window → Window) : (s.modWindow w f).irqs = s.irqs := rfl
@[simp] theorem modWindow_hostOut (s : State) (w : Nat) (f : Window → Window) : (s.modWindow w f).hostOut = s.hostOut := rfl

/-! ## `State.modPort` -/

@[simp] theorem modPort_clk (s : State) (p : Nat) (f : Port → Port) : (s.modPort p f).clk = s.clk := rfl
@[simp] theorem modPort_tick (s : State) (p : Nat) (f : Port → Port) : (s.modPort p f).tick = s.tick := rfl
@[simp] theorem modPort_issues (s : State) (p : Nat) (f : Port → Port) : (s.modPort p f).issues = s.issues := rfl
@[simp] theorem modPort_chosen (s : State) (p : Nat) (f : Port → Port) : (s.modPort p f).chosen = s.chosen := rfl
@[simp] theorem modPort_events (s : State) (p : Nat) (f : Port → Port) : (s.modPort p f).events = s.events := rfl
@[simp] theorem modPort_inputs (s : State) (p : Nat) (f : Port → Port) : (s.modPort p f).inputs = s.inputs := rfl
@[simp] theorem modPort_waitIn (s : State) (p : Nat) (f : Port → Port) : (s.modPort p f).waitIn = s.waitIn := rfl
@[simp] theorem modPort_nextReq (s : State) (p : Nat) (f : Port → Port) : (s.modPort p f).nextReq = s.nextReq := rfl
@[simp] theorem modPort_nextUnit (s : State) (p : Nat) (f : Port → Port) : (s.modPort p f).nextUnit = s.nextUnit := rfl
@[simp] theorem modPort_nextIssue (s : State) (p : Nat) (f : Port → Port) : (s.modPort p f).nextIssue = s.nextIssue := rfl
@[simp] theorem modPort_cores (s : State) (p : Nat) (f : Port → Port) : (s.modPort p f).cores = s.cores := rfl
@[simp] theorem modPort_mem (s : State) (p : Nat) (f : Port → Port) : (s.modPort p f).mem = s.mem := rfl
@[simp] theorem modPort_hostMem (s : State) (p : Nat) (f : Port → Port) : (s.modPort p f).hostMem = s.hostMem := rfl
@[simp] theorem modPort_fabnum (s : State) (p : Nat) (f : Port → Port) : (s.modPort p f).fabnum = s.fabnum := rfl
@[simp] theorem modPort_fabtab (s : State) (p : Nat) (f : Port → Port) : (s.modPort p f).fabtab = s.fabtab := rfl
@[simp] theorem modPort_vfs (s : State) (p : Nat) (f : Port → Port) : (s.modPort p f).vfs = s.vfs := rfl
@[simp] theorem modPort_parts (s : State) (p : Nat) (f : Port → Port) : (s.modPort p f).parts = s.parts := rfl
@[simp] theorem modPort_octmap (s : State) (p : Nat) (f : Port → Port) : (s.modPort p f).octmap = s.octmap := rfl
@[simp] theorem modPort_partpair (s : State) (p : Nat) (f : Port → Port) : (s.modPort p f).partpair = s.partpair := rfl
@[simp] theorem modPort_fwctl (s : State) (p : Nat) (f : Port → Port) : (s.modPort p f).fwctl = s.fwctl := rfl
@[simp] theorem modPort_fwdrop (s : State) (p : Nat) (f : Port → Port) : (s.modPort p f).fwdrop = s.fwdrop := rfl
@[simp] theorem modPort_fwbounce (s : State) (p : Nat) (f : Port → Port) : (s.modPort p f).fwbounce = s.fwbounce := rfl
@[simp] theorem modPort_owners (s : State) (p : Nat) (f : Port → Port) : (s.modPort p f).owners = s.owners := rfl
@[simp] theorem modPort_enc (s : State) (p : Nat) (f : Port → Port) : (s.modPort p f).enc = s.enc := rfl
@[simp] theorem modPort_keys (s : State) (p : Nat) (f : Port → Port) : (s.modPort p f).keys = s.keys := rfl
@[simp] theorem modPort_ctrs (s : State) (p : Nat) (f : Port → Port) : (s.modPort p f).ctrs = s.ctrs := rfl
@[simp] theorem modPort_poison (s : State) (p : Nat) (f : Port → Port) : (s.modPort p f).poison = s.poison := rfl
@[simp] theorem modPort_retired (s : State) (p : Nat) (f : Port → Port) : (s.modPort p f).retired = s.retired := rfl
@[simp] theorem modPort_retList (s : State) (p : Nat) (f : Port → Port) : (s.modPort p f).retList = s.retList := rfl
@[simp] theorem modPort_worn (s : State) (p : Nat) (f : Port → Port) : (s.modPort p f).worn = s.worn := rfl
@[simp] theorem modPort_failed (s : State) (p : Nat) (f : Port → Port) : (s.modPort p f).failed = s.failed := rfl
@[simp] theorem modPort_windows (s : State) (p : Nat) (f : Port → Port) : (s.modPort p f).windows = s.windows := rfl
@[simp] theorem modPort_reqs (s : State) (p : Nat) (f : Port → Port) : (s.modPort p f).reqs = s.reqs := rfl
@[simp] theorem modPort_turned (s : State) (p : Nat) (f : Port → Port) : (s.modPort p f).turned = s.turned := rfl
@[simp] theorem modPort_fills (s : State) (p : Nat) (f : Port → Port) : (s.modPort p f).fills = s.fills := rfl
@[simp] theorem modPort_flights (s : State) (p : Nat) (f : Port → Port) : (s.modPort p f).flights = s.flights := rfl
@[simp] theorem modPort_ports (s : State) (p : Nat) (f : Port → Port) : (s.modPort p f).ports = Tbl.set s.ports p (f (s.port p)) := rfl
@[simp] theorem modPort_routers (s : State) (p : Nat) (f : Port → Port) : (s.modPort p f).routers = s.routers := rfl
@[simp] theorem modPort_grids (s : State) (p : Nat) (f : Port → Port) : (s.modPort p f).grids = s.grids := rfl
@[simp] theorem modPort_nextTag (s : State) (p : Nat) (f : Port → Port) : (s.modPort p f).nextTag = s.nextTag := rfl
@[simp] theorem modPort_resvQ (s : State) (p : Nat) (f : Port → Port) : (s.modPort p f).resvQ = s.resvQ := rfl
@[simp] theorem modPort_grants (s : State) (p : Nat) (f : Port → Port) : (s.modPort p f).grants = s.grants := rfl
@[simp] theorem modPort_decs (s : State) (p : Nat) (f : Port → Port) : (s.modPort p f).decs = s.decs := rfl
@[simp] theorem modPort_units (s : State) (p : Nat) (f : Port → Port) : (s.modPort p f).units = s.units := rfl
@[simp] theorem modPort_held (s : State) (p : Nat) (f : Port → Port) : (s.modPort p f).held = s.held := rfl
@[simp] theorem modPort_tests (s : State) (p : Nat) (f : Port → Port) : (s.modPort p f).tests = s.tests := rfl
@[simp] theorem modPort_linkRetry (s : State) (p : Nat) (f : Port → Port) : (s.modPort p f).linkRetry = s.linkRetry := rfl
@[simp] theorem modPort_power (s : State) (p : Nat) (f : Port → Port) : (s.modPort p f).power = s.power := rfl
@[simp] theorem modPort_hostDeny (s : State) (p : Nat) (f : Port → Port) : (s.modPort p f).hostDeny = s.hostDeny := rfl
@[simp] theorem modPort_irqs (s : State) (p : Nat) (f : Port → Port) : (s.modPort p f).irqs = s.irqs := rfl
@[simp] theorem modPort_hostOut (s : State) (p : Nat) (f : Port → Port) : (s.modPort p f).hostOut = s.hostOut := rfl

/-! ## `State.modRouter` -/

@[simp] theorem modRouter_clk (s : State) (p : Nat) (f : Router → Router) : (s.modRouter p f).clk = s.clk := rfl
@[simp] theorem modRouter_tick (s : State) (p : Nat) (f : Router → Router) : (s.modRouter p f).tick = s.tick := rfl
@[simp] theorem modRouter_issues (s : State) (p : Nat) (f : Router → Router) : (s.modRouter p f).issues = s.issues := rfl
@[simp] theorem modRouter_chosen (s : State) (p : Nat) (f : Router → Router) : (s.modRouter p f).chosen = s.chosen := rfl
@[simp] theorem modRouter_events (s : State) (p : Nat) (f : Router → Router) : (s.modRouter p f).events = s.events := rfl
@[simp] theorem modRouter_inputs (s : State) (p : Nat) (f : Router → Router) : (s.modRouter p f).inputs = s.inputs := rfl
@[simp] theorem modRouter_waitIn (s : State) (p : Nat) (f : Router → Router) : (s.modRouter p f).waitIn = s.waitIn := rfl
@[simp] theorem modRouter_nextReq (s : State) (p : Nat) (f : Router → Router) : (s.modRouter p f).nextReq = s.nextReq := rfl
@[simp] theorem modRouter_nextUnit (s : State) (p : Nat) (f : Router → Router) : (s.modRouter p f).nextUnit = s.nextUnit := rfl
@[simp] theorem modRouter_nextIssue (s : State) (p : Nat) (f : Router → Router) : (s.modRouter p f).nextIssue = s.nextIssue := rfl
@[simp] theorem modRouter_cores (s : State) (p : Nat) (f : Router → Router) : (s.modRouter p f).cores = s.cores := rfl
@[simp] theorem modRouter_mem (s : State) (p : Nat) (f : Router → Router) : (s.modRouter p f).mem = s.mem := rfl
@[simp] theorem modRouter_hostMem (s : State) (p : Nat) (f : Router → Router) : (s.modRouter p f).hostMem = s.hostMem := rfl
@[simp] theorem modRouter_fabnum (s : State) (p : Nat) (f : Router → Router) : (s.modRouter p f).fabnum = s.fabnum := rfl
@[simp] theorem modRouter_fabtab (s : State) (p : Nat) (f : Router → Router) : (s.modRouter p f).fabtab = s.fabtab := rfl
@[simp] theorem modRouter_vfs (s : State) (p : Nat) (f : Router → Router) : (s.modRouter p f).vfs = s.vfs := rfl
@[simp] theorem modRouter_parts (s : State) (p : Nat) (f : Router → Router) : (s.modRouter p f).parts = s.parts := rfl
@[simp] theorem modRouter_octmap (s : State) (p : Nat) (f : Router → Router) : (s.modRouter p f).octmap = s.octmap := rfl
@[simp] theorem modRouter_partpair (s : State) (p : Nat) (f : Router → Router) : (s.modRouter p f).partpair = s.partpair := rfl
@[simp] theorem modRouter_fwctl (s : State) (p : Nat) (f : Router → Router) : (s.modRouter p f).fwctl = s.fwctl := rfl
@[simp] theorem modRouter_fwdrop (s : State) (p : Nat) (f : Router → Router) : (s.modRouter p f).fwdrop = s.fwdrop := rfl
@[simp] theorem modRouter_fwbounce (s : State) (p : Nat) (f : Router → Router) : (s.modRouter p f).fwbounce = s.fwbounce := rfl
@[simp] theorem modRouter_owners (s : State) (p : Nat) (f : Router → Router) : (s.modRouter p f).owners = s.owners := rfl
@[simp] theorem modRouter_enc (s : State) (p : Nat) (f : Router → Router) : (s.modRouter p f).enc = s.enc := rfl
@[simp] theorem modRouter_keys (s : State) (p : Nat) (f : Router → Router) : (s.modRouter p f).keys = s.keys := rfl
@[simp] theorem modRouter_ctrs (s : State) (p : Nat) (f : Router → Router) : (s.modRouter p f).ctrs = s.ctrs := rfl
@[simp] theorem modRouter_poison (s : State) (p : Nat) (f : Router → Router) : (s.modRouter p f).poison = s.poison := rfl
@[simp] theorem modRouter_retired (s : State) (p : Nat) (f : Router → Router) : (s.modRouter p f).retired = s.retired := rfl
@[simp] theorem modRouter_retList (s : State) (p : Nat) (f : Router → Router) : (s.modRouter p f).retList = s.retList := rfl
@[simp] theorem modRouter_worn (s : State) (p : Nat) (f : Router → Router) : (s.modRouter p f).worn = s.worn := rfl
@[simp] theorem modRouter_failed (s : State) (p : Nat) (f : Router → Router) : (s.modRouter p f).failed = s.failed := rfl
@[simp] theorem modRouter_windows (s : State) (p : Nat) (f : Router → Router) : (s.modRouter p f).windows = s.windows := rfl
@[simp] theorem modRouter_reqs (s : State) (p : Nat) (f : Router → Router) : (s.modRouter p f).reqs = s.reqs := rfl
@[simp] theorem modRouter_turned (s : State) (p : Nat) (f : Router → Router) : (s.modRouter p f).turned = s.turned := rfl
@[simp] theorem modRouter_fills (s : State) (p : Nat) (f : Router → Router) : (s.modRouter p f).fills = s.fills := rfl
@[simp] theorem modRouter_flights (s : State) (p : Nat) (f : Router → Router) : (s.modRouter p f).flights = s.flights := rfl
@[simp] theorem modRouter_ports (s : State) (p : Nat) (f : Router → Router) : (s.modRouter p f).ports = s.ports := rfl
@[simp] theorem modRouter_routers (s : State) (p : Nat) (f : Router → Router) : (s.modRouter p f).routers = Tbl.set s.routers p (f (s.router p)) := rfl
@[simp] theorem modRouter_grids (s : State) (p : Nat) (f : Router → Router) : (s.modRouter p f).grids = s.grids := rfl
@[simp] theorem modRouter_nextTag (s : State) (p : Nat) (f : Router → Router) : (s.modRouter p f).nextTag = s.nextTag := rfl
@[simp] theorem modRouter_resvQ (s : State) (p : Nat) (f : Router → Router) : (s.modRouter p f).resvQ = s.resvQ := rfl
@[simp] theorem modRouter_grants (s : State) (p : Nat) (f : Router → Router) : (s.modRouter p f).grants = s.grants := rfl
@[simp] theorem modRouter_decs (s : State) (p : Nat) (f : Router → Router) : (s.modRouter p f).decs = s.decs := rfl
@[simp] theorem modRouter_units (s : State) (p : Nat) (f : Router → Router) : (s.modRouter p f).units = s.units := rfl
@[simp] theorem modRouter_held (s : State) (p : Nat) (f : Router → Router) : (s.modRouter p f).held = s.held := rfl
@[simp] theorem modRouter_tests (s : State) (p : Nat) (f : Router → Router) : (s.modRouter p f).tests = s.tests := rfl
@[simp] theorem modRouter_linkRetry (s : State) (p : Nat) (f : Router → Router) : (s.modRouter p f).linkRetry = s.linkRetry := rfl
@[simp] theorem modRouter_power (s : State) (p : Nat) (f : Router → Router) : (s.modRouter p f).power = s.power := rfl
@[simp] theorem modRouter_hostDeny (s : State) (p : Nat) (f : Router → Router) : (s.modRouter p f).hostDeny = s.hostDeny := rfl
@[simp] theorem modRouter_irqs (s : State) (p : Nat) (f : Router → Router) : (s.modRouter p f).irqs = s.irqs := rfl
@[simp] theorem modRouter_hostOut (s : State) (p : Nat) (f : Router → Router) : (s.modRouter p f).hostOut = s.hostOut := rfl

/-! ## `State.ticked` -/

@[simp] theorem ticked_clk (s : State) : (s.ticked).clk = s.clk := rfl
@[simp] theorem ticked_tick (s : State) : (s.ticked).tick = s.tick + 1 := rfl
@[simp] theorem ticked_issues (s : State) : (s.ticked).issues = s.issues := rfl
@[simp] theorem ticked_chosen (s : State) : (s.ticked).chosen = s.chosen := rfl
@[simp] theorem ticked_events (s : State) : (s.ticked).events = s.events := rfl
@[simp] theorem ticked_inputs (s : State) : (s.ticked).inputs = s.inputs := rfl
@[simp] theorem ticked_waitIn (s : State) : (s.ticked).waitIn = s.waitIn := rfl
@[simp] theorem ticked_nextReq (s : State) : (s.ticked).nextReq = s.nextReq := rfl
@[simp] theorem ticked_nextUnit (s : State) : (s.ticked).nextUnit = s.nextUnit := rfl
@[simp] theorem ticked_nextIssue (s : State) : (s.ticked).nextIssue = s.nextIssue := rfl
@[simp] theorem ticked_cores (s : State) : (s.ticked).cores = s.cores := rfl
@[simp] theorem ticked_mem (s : State) : (s.ticked).mem = s.mem := rfl
@[simp] theorem ticked_hostMem (s : State) : (s.ticked).hostMem = s.hostMem := rfl
@[simp] theorem ticked_fabnum (s : State) : (s.ticked).fabnum = s.fabnum := rfl
@[simp] theorem ticked_fabtab (s : State) : (s.ticked).fabtab = s.fabtab := rfl
@[simp] theorem ticked_vfs (s : State) : (s.ticked).vfs = s.vfs := rfl
@[simp] theorem ticked_parts (s : State) : (s.ticked).parts = s.parts := rfl
@[simp] theorem ticked_octmap (s : State) : (s.ticked).octmap = s.octmap := rfl
@[simp] theorem ticked_partpair (s : State) : (s.ticked).partpair = s.partpair := rfl
@[simp] theorem ticked_fwctl (s : State) : (s.ticked).fwctl = s.fwctl := rfl
@[simp] theorem ticked_fwdrop (s : State) : (s.ticked).fwdrop = s.fwdrop := rfl
@[simp] theorem ticked_fwbounce (s : State) : (s.ticked).fwbounce = s.fwbounce := rfl
@[simp] theorem ticked_owners (s : State) : (s.ticked).owners = s.owners := rfl
@[simp] theorem ticked_enc (s : State) : (s.ticked).enc = s.enc := rfl
@[simp] theorem ticked_keys (s : State) : (s.ticked).keys = s.keys := rfl
@[simp] theorem ticked_ctrs (s : State) : (s.ticked).ctrs = s.ctrs := rfl
@[simp] theorem ticked_poison (s : State) : (s.ticked).poison = s.poison := rfl
@[simp] theorem ticked_retired (s : State) : (s.ticked).retired = s.retired := rfl
@[simp] theorem ticked_retList (s : State) : (s.ticked).retList = s.retList := rfl
@[simp] theorem ticked_worn (s : State) : (s.ticked).worn = s.worn := rfl
@[simp] theorem ticked_failed (s : State) : (s.ticked).failed = s.failed := rfl
@[simp] theorem ticked_windows (s : State) : (s.ticked).windows = s.windows := rfl
@[simp] theorem ticked_reqs (s : State) : (s.ticked).reqs = s.reqs := rfl
@[simp] theorem ticked_turned (s : State) : (s.ticked).turned = s.turned := rfl
@[simp] theorem ticked_fills (s : State) : (s.ticked).fills = s.fills := rfl
@[simp] theorem ticked_flights (s : State) : (s.ticked).flights = s.flights := rfl
@[simp] theorem ticked_ports (s : State) : (s.ticked).ports = s.ports := rfl
@[simp] theorem ticked_routers (s : State) : (s.ticked).routers = s.routers := rfl
@[simp] theorem ticked_grids (s : State) : (s.ticked).grids = s.grids := rfl
@[simp] theorem ticked_nextTag (s : State) : (s.ticked).nextTag = s.nextTag := rfl
@[simp] theorem ticked_resvQ (s : State) : (s.ticked).resvQ = s.resvQ := rfl
@[simp] theorem ticked_grants (s : State) : (s.ticked).grants = s.grants := rfl
@[simp] theorem ticked_decs (s : State) : (s.ticked).decs = s.decs := rfl
@[simp] theorem ticked_units (s : State) : (s.ticked).units = s.units := rfl
@[simp] theorem ticked_held (s : State) : (s.ticked).held = s.held := rfl
@[simp] theorem ticked_tests (s : State) : (s.ticked).tests = s.tests := rfl
@[simp] theorem ticked_linkRetry (s : State) : (s.ticked).linkRetry = s.linkRetry := rfl
@[simp] theorem ticked_power (s : State) : (s.ticked).power = s.power := rfl
@[simp] theorem ticked_hostDeny (s : State) : (s.ticked).hostDeny = s.hostDeny := rfl
@[simp] theorem ticked_irqs (s : State) : (s.ticked).irqs = s.irqs := rfl
@[simp] theorem ticked_hostOut (s : State) : (s.ticked).hostOut = s.hostOut := rfl

/-! ## Threads -/

@[simp] theorem setReg_st (t : Thread) (n : Nat) (w : RegWord) : (t.setReg n w).st = t.st := rfl
@[simp] theorem setReg_pc (t : Thread) (n : Nat) (w : RegWord) : (t.setReg n w).pc = t.pc := rfl
@[simp] theorem setReg_regs (t : Thread) (n : Nat) (w : RegWord) : (t.setReg n w).regs = Tbl.set t.regs n w := rfl
@[simp] theorem setReg_preds (t : Thread) (n : Nat) (w : RegWord) : (t.setReg n w).preds = t.preds := rfl
@[simp] theorem setReg_pempty (t : Thread) (n : Nat) (w : RegWord) : (t.setReg n w).pempty = t.pempty := rfl
@[simp] theorem setReg_principal (t : Thread) (n : Nat) (w : RegWord) : (t.setReg n w).principal = t.principal := rfl
@[simp] theorem setReg_vf (t : Thread) (n : Nat) (w : RegWord) : (t.setReg n w).vf = t.vf := rfl
@[simp] theorem setReg_khandle (t : Thread) (n : Nat) (w : RegWord) : (t.setReg n w).khandle = t.khandle := rfl
@[simp] theorem setReg_depth (t : Thread) (n : Nat) (w : RegWord) : (t.setReg n w).depth = t.depth := rfl
@[simp] theorem setReg_grid (t : Thread) (n : Nat) (w : RegWord) : (t.setReg n w).grid = t.grid := rfl
@[simp] theorem setReg_vfPkg (t : Thread) (n : Nat) (w : RegWord) : (t.setReg n w).vfPkg = t.vfPkg := rfl
@[simp] theorem setReg_priv (t : Thread) (n : Nat) (w : RegWord) : (t.setReg n w).priv = t.priv := rfl
@[simp] theorem setReg_sel (t : Thread) (n : Nat) (w : RegWord) : (t.setReg n w).sel = t.sel := rfl
@[simp] theorem setReg_group (t : Thread) (n : Nat) (w : RegWord) : (t.setReg n w).group = t.group := rfl
@[simp] theorem setReg_stamp (t : Thread) (n : Nat) (w : RegWord) : (t.setReg n w).stamp = t.stamp := rfl
@[simp] theorem setReg_srcCore (t : Thread) (n : Nat) (w : RegWord) : (t.setReg n w).srcCore = t.srcCore := rfl
@[simp] theorem setReg_srcPkg (t : Thread) (n : Nat) (w : RegWord) : (t.setReg n w).srcPkg = t.srcPkg := rfl
@[simp] theorem setReg_acq (t : Thread) (n : Nat) (w : RegWord) : (t.setReg n w).acq = t.acq := rfl
@[simp] theorem setReg_flush (t : Thread) (n : Nat) (w : RegWord) : (t.setReg n w).flush = t.flush := rfl
@[simp] theorem setReg_resv (t : Thread) (n : Nat) (w : RegWord) : (t.setReg n w).resv = t.resv := rfl
@[simp] theorem setReg_denied (t : Thread) (n : Nat) (w : RegWord) : (t.setReg n w).denied = t.denied := rfl
@[simp] theorem setReg_seq (t : Thread) (n : Nat) (w : RegWord) : (t.setReg n w).seq = t.seq := rfl
@[simp] theorem setReg_units (t : Thread) (n : Nat) (w : RegWord) : (t.setReg n w).units = t.units := rfl
@[simp] theorem setReg_kept (t : Thread) (n : Nat) (w : RegWord) : (t.setReg n w).kept = t.kept := rfl
@[simp] theorem setReg_haltBy (t : Thread) (n : Nat) (w : RegWord) : (t.setReg n w).haltBy = t.haltBy := rfl
@[simp] theorem setReg_atSafe (t : Thread) (n : Nat) (w : RegWord) : (t.setReg n w).atSafe = t.atSafe := rfl
@[simp] theorem setReg_fork (t : Thread) (n : Nat) (w : RegWord) : (t.setReg n w).fork = t.fork := rfl
@[simp] theorem setReg_slot (t : Thread) (n : Nat) (w : RegWord) : (t.setReg n w).slot = t.slot := rfl
@[simp] theorem setReg_yld (t : Thread) (n : Nat) (w : RegWord) : (t.setReg n w).yld = t.yld := rfl
@[simp] theorem setReg_round (t : Thread) (n : Nat) (w : RegWord) : (t.setReg n w).round = t.round := rfl
@[simp] theorem setReg_snap (t : Thread) (n : Nat) (w : RegWord) : (t.setReg n w).snap = t.snap := rfl
@[simp] theorem setReg_read (t : Thread) (n : Nat) (w : RegWord) : (t.setReg n w).read = t.read := rfl
@[simp] theorem setReg_readDenied (t : Thread) (n : Nat) (w : RegWord) : (t.setReg n w).readDenied = t.readDenied := rfl
@[simp] theorem setReg_marks (t : Thread) (n : Nat) (w : RegWord) : (t.setReg n w).marks = t.marks := rfl
@[simp] theorem setReg_rets (t : Thread) (n : Nat) (w : RegWord) : (t.setReg n w).rets = t.rets := rfl
@[simp] theorem setReg_name (t : Thread) (n : Nat) (w : RegWord) : (t.setReg n w).name = t.name := rfl

end Sys2Proof.Laws
end

