-- ==== Sys2Proof/Laws/Table.lean ====
section
/-! SUPPORT. Sparse tables and byte memories: reading after writing, and the canonical form that every write keeps. -/

namespace Sys2Proof.Laws

open Sys2Proof.Machine

/-! ## Tables -/

@[simp] theorem tbl_get_set {α : Type} (d : α) (t : Tbl α) (i : Nat) (v : α) : Tbl.get d (Tbl.set t i v) i = v := by
  induction t with
  | nil => simp [Tbl.set, Tbl.get]
  | cons e t ih =>
    simp only [Tbl.set]
    split
    · simp [Tbl.get]
    · split
      · simp [Tbl.get]
      · rename_i h
        simp [Tbl.get, h, ih]

theorem tbl_get_set_other {α : Type} (d : α) (t : Tbl α) {i j : Nat} (v : α) (h : j ≠ i) :
    Tbl.get d (Tbl.set t i v) j = Tbl.get d t j := by
  induction t with
  | nil => simp [Tbl.set, Tbl.get, Ne.symm h]
  | cons e t ih =>
    simp only [Tbl.set]
    split
    · simp [Tbl.get, Ne.symm h]
    · split
      · rename_i he
        have : e.1 ≠ j := fun hj => h (hj ▸ he)
        simp [Tbl.get, Ne.symm h, this]
      · simp [Tbl.get, ih]

@[simp] theorem tbl_set_set {α : Type} (t : Tbl α) (i : Nat) (v w : α) : Tbl.set (Tbl.set t i v) i w = Tbl.set t i w := by
  induction t with
  | nil => simp [Tbl.set]
  | cons e t ih =>
    simp only [Tbl.set]
    split
    · simp [Tbl.set]
    · split
      · simp [Tbl.set]
      · rename_i h1 h2
        simp [Tbl.set, h1, h2, ih]

/-! ## Byte memories: reading after writing -/

@[simp] theorem mem_get_put (m : List Host.Cell) (a : Nat) (b : Byte) : Mem.get (Mem.put m a b) a = b := by
  induction m with
  | nil => simp [Mem.put, Mem.get]
  | cons c m ih =>
    simp only [Mem.put]
    split
    · simp [Mem.get]
    · split
      · simp [Mem.get]
      · rename_i h
        simp [Mem.get, h, ih]

theorem mem_get_put_other (m : List Host.Cell) {a x : Nat} (b : Byte) (h : x ≠ a) :
    Mem.get (Mem.put m a b) x = Mem.get m x := by
  induction m with
  | nil => simp [Mem.put, Mem.get, Ne.symm h]
  | cons c m ih =>
    simp only [Mem.put]
    split
    · simp [Mem.get, Ne.symm h]
    · split
      · rename_i he
        have : c.1 ≠ x := fun hx => h (hx ▸ he)
        simp [Mem.get, Ne.symm h, this]
      · simp [Mem.get, ih]

theorem mem_get_filter (m : List Host.Cell) (p : Nat → Bool) (x : Nat) :
    Mem.get (m.filter fun c => p c.1) x = if p x then Mem.get m x else Mem.blank := by
  induction m with
  | nil => simp [Mem.get]
  | cons c m ih =>
    by_cases hc : p c.1 = true
    · rw [List.filter_cons_of_pos (by simpa using hc)]
      simp only [Mem.get, ih]
      by_cases hx : c.1 = x
      · subst hx; simp [hc]
      · simp [hx]
    · rw [List.filter_cons_of_neg (by simpa using hc), ih]
      simp only [Mem.get]
      by_cases hx : c.1 = x
      · subst hx; simp [hc]
      · simp [hx]

@[simp] theorem mem_get_set (m : List Host.Cell) (a : Nat) (b : Byte) : Mem.get (Mem.set m a b) a = b := by
  unfold Mem.set
  split
  · rename_i h
    rw [mem_get_filter m (fun n => n != a) a]
    simp [h]
  · simp

theorem mem_get_set_other (m : List Host.Cell) {a x : Nat} (b : Byte) (h : x ≠ a) :
    Mem.get (Mem.set m a b) x = Mem.get m x := by
  unfold Mem.set
  split
  · rw [mem_get_filter m (fun n => n != a) x]
    simp [h]
  · exact mem_get_put_other m b h

/-- A write leaves every byte outside the written ones alone. -/
theorem mem_get_write_other (m : List Host.Cell) (a : Nat) (bs : List Byte) (x : Nat) (h : x < a ∨ a + bs.length ≤ x) :
    Mem.get (Mem.write m a bs) x = Mem.get m x := by
  induction bs generalizing m a with
  | nil => rfl
  | cons b bs ih =>
    simp only [Mem.write, List.length_cons] at *
    rw [ih _ _ (by omega), mem_get_set_other _ _ (by omega)]

/-- A write puts each byte at its place. -/
theorem mem_get_write (m : List Host.Cell) (a : Nat) (bs : List Byte) (k : Nat) (h : k < bs.length) :
    Mem.get (Mem.write m a bs) (a + k) = bs[k] := by
  induction bs generalizing m a k with
  | nil => simp at h
  | cons b bs ih =>
    simp only [Mem.write]
    cases k with
    | zero => rw [mem_get_write_other _ _ _ _ (by omega)]; simp
    | succ k =>
      have := ih (Mem.set m a b) (a + 1) k (by simpa using h)
      rw [show a + (k + 1) = a + 1 + k by omega, this]
      simp

theorem mem_read_length (m : List Host.Cell) (a n : Nat) : (Mem.read m a n).length = n := by
  induction n generalizing a with
  | zero => rfl
  | succ n ih => simp [Mem.read, ih]

/-- Reading back what was just written. -/
theorem mem_read_write (m : List Host.Cell) (a : Nat) (bs : List Byte) : Mem.read (Mem.write m a bs) a bs.length = bs := by
  have key : ∀ (n k : Nat), k + n = bs.length → Mem.read (Mem.write m a bs) (a + k) n = bs.drop k := by
    intro n
    induction n with
    | zero => intro k h; simp [Mem.read, List.drop_eq_nil_of_le (by omega : bs.length ≤ k)]
    | succ n ih =>
      intro k h
      have hk : k < bs.length := by omega
      rw [Mem.read, mem_get_write m a bs k hk, show a + k + 1 = a + (k + 1) by omega, ih (k + 1) (by omega),
        List.drop_eq_getElem_cons hk]
  simpa using key bs.length 0 (by omega)

/-! ## The canonical form -/

theorem wfAbove_mono (m : List Host.Cell) {lo lo' : Nat} (h : lo' ≤ lo) (w : Mem.wfAbove m lo = true) :
    Mem.wfAbove m lo' = true := by
  cases m with
  | nil => rfl
  | cons c m =>
    simp only [Mem.wfAbove, Bool.and_eq_true, decide_eq_true_eq] at *
    exact ⟨⟨by omega, w.1.2⟩, w.2⟩

theorem wfAbove_filter (m : List Host.Cell) (p : Host.Cell → Bool) (lo : Nat) (w : Mem.wfAbove m lo = true) :
    Mem.wfAbove (m.filter p) lo = true := by
  induction m generalizing lo with
  | nil => rfl
  | cons c m ih =>
    simp only [Mem.wfAbove, Bool.and_eq_true, decide_eq_true_eq] at w
    have hm := ih (c.1 + 1) w.2
    by_cases hp : p c
    · rw [List.filter_cons_of_pos hp]
      simp only [Mem.wfAbove, Bool.and_eq_true, decide_eq_true_eq]
      exact ⟨w.1, hm⟩
    · rw [List.filter_cons_of_neg hp]
      exact wfAbove_mono _ (by omega) hm

theorem wfAbove_put (m : List Host.Cell) (a : Nat) (b : Byte) (lo : Nat) (hb : b ≠ Mem.blank) (ha : lo ≤ a)
    (w : Mem.wfAbove m lo = true) : Mem.wfAbove (Mem.put m a b) lo = true := by
  induction m generalizing lo with
  | nil => simp [Mem.put, Mem.wfAbove, ha, hb]
  | cons c m ih =>
    simp only [Mem.wfAbove, Bool.and_eq_true, decide_eq_true_eq] at w
    simp only [Mem.put]
    split
    · rename_i h
      simp only [Mem.wfAbove, Bool.and_eq_true, decide_eq_true_eq]
      exact ⟨⟨ha, by simpa using hb⟩, ⟨by omega, w.1.2⟩, w.2⟩
    · split
      · rename_i h1 h2
        simp only [Mem.wfAbove, Bool.and_eq_true, decide_eq_true_eq]
        exact ⟨⟨ha, by simpa using hb⟩, h2 ▸ w.2⟩
      · rename_i h1 h2
        simp only [Mem.wfAbove, Bool.and_eq_true, decide_eq_true_eq]
        exact ⟨w.1, ih (c.1 + 1) (by omega) w.2⟩

theorem wf_nil : Memory.wf [] = true := rfl

theorem wf_filter (m : List Host.Cell) (p : Host.Cell → Bool) (w : Memory.wf m = true) : Memory.wf (m.filter p) = true :=
  wfAbove_filter m p 0 w

theorem wf_set (m : List Host.Cell) (a : Nat) (b : Byte) (w : Memory.wf m = true) : Memory.wf (Mem.set m a b) = true := by
  unfold Mem.set
  split
  · exact wf_filter m _ w
  · rename_i h
    exact wfAbove_put m a b 0 h (Nat.zero_le _) w

theorem wf_write (m : List Host.Cell) (a : Nat) (bs : List Byte) (w : Memory.wf m = true) :
    Memory.wf (Mem.write m a bs) = true := by
  induction bs generalizing m a with
  | nil => exact w
  | cons b bs ih => exact ih _ _ (wf_set m a b w)

theorem wf_clear (m : List Host.Cell) (a n : Nat) (w : Memory.wf m = true) : Memory.wf (Mem.clear m a n) = true :=
  wf_filter m _ w

/-- Two memories in canonical form that read alike everywhere below are the same list. -/
theorem wfAbove_ext (m n : List Host.Cell) (lo : Nat) (hm : Mem.wfAbove m lo = true) (hn : Mem.wfAbove n lo = true)
    (h : ∀ a, Mem.get m a = Mem.get n a) : m = n := by
  have low : ∀ (m : List Host.Cell) (lo a : Nat), Mem.wfAbove m lo = true → a < lo → Mem.get m a = Mem.blank := by
    intro m
    induction m with
    | nil => intros; rfl
    | cons c m ih =>
      intro lo a w ha
      simp only [Mem.wfAbove, Bool.and_eq_true, decide_eq_true_eq] at w
      simp only [Mem.get, if_neg (show c.1 ≠ a by omega)]
      exact ih _ _ w.2 (by omega)
  induction m generalizing n lo with
  | nil =>
    cases n with
    | nil => rfl
    | cons d n =>
      simp only [Mem.wfAbove, Bool.and_eq_true, decide_eq_true_eq, bne_iff_ne] at hn
      have := h d.1
      simp [Mem.get] at this
      exact absurd this.symm hn.1.2
  | cons c m ih =>
    simp only [Mem.wfAbove, Bool.and_eq_true, decide_eq_true_eq, bne_iff_ne] at hm
    cases n with
    | nil =>
      have := h c.1
      simp [Mem.get] at this
      exact absurd this hm.1.2
    | cons d n =>
      simp only [Mem.wfAbove, Bool.and_eq_true, decide_eq_true_eq, bne_iff_ne] at hn
      have hcd : c.1 = d.1 := by
        rcases Nat.lt_trichotomy c.1 d.1 with hl | he | hl
        · have := h c.1
          simp only [Mem.get, if_true, if_neg (show d.1 ≠ c.1 by omega)] at this
          rw [low n _ _ hn.2 (by omega)] at this
          exact absurd this hm.1.2
        · exact he
        · have := h d.1
          simp only [Mem.get, if_true, if_neg (show c.1 ≠ d.1 by omega)] at this
          rw [low m _ _ hm.2 (by omega)] at this
          exact absurd this.symm hn.1.2
      have hv : c.2 = d.2 := by simpa [Mem.get, hcd] using h c.1
      have ht : m = n := by
        refine ih n (c.1 + 1) hm.2 (hcd ▸ hn.2) fun a => ?_
        by_cases ha : a = c.1
        · subst ha
          rw [low m _ _ hm.2 (by omega), low n _ _ hn.2 (by omega)]
        · have := h a
          simpa [Mem.get, Ne.symm ha, show d.1 ≠ a by omega] using this
      rw [ht, Prod.ext hcd hv]

/-- Memories in canonical form are equal data where they read alike. -/
theorem wf_ext (m n : List Host.Cell) (hm : Memory.wf m = true) (hn : Memory.wf n = true)
    (h : ∀ a, Mem.get m a = Mem.get n a) : m = n := wfAbove_ext m n 0 hm hn h

end Sys2Proof.Laws
end

