-- ==== Sys2Proof/Laws/Ops.lean ====
section
/-! SUPPORT. What the named operations over cores, threads, groups and registers do: reading after writing, and what stays as it was. -/

namespace Sys2Proof.Laws

open Sys2Proof.Machine

/-! ## Cores -/

@[simp] theorem core_setCore (s : State) (c : Nat) (v : Core) : (s.setCore c v).core c = v := by
  simp [State.core, State.setCore]

theorem core_setCore_other (s : State) {c d : Nat} (v : Core) (h : d ≠ c) : (s.setCore c v).core d = s.core d := by
  simp only [State.core, State.setCore]
  exact tbl_get_set_other _ _ _ h

@[simp] theorem core_modCore (s : State) (c : Nat) (f : Core → Core) : (s.modCore c f).core c = f (s.core c) :=
  core_setCore _ _ _

theorem core_modCore_other (s : State) {c d : Nat} (f : Core → Core) (h : d ≠ c) : (s.modCore c f).core d = s.core d :=
  core_setCore_other _ _ h

/-! ## States that differ in thread contexts alone -/

/-- `u` is `s` but for the thread contexts of the cores. -/
def OnlyThreads (s u : State) : Prop :=
  u = { s with cores := u.cores } ∧ ∀ c, u.core c = { s.core c with ctxs := (u.core c).ctxs }

theorem OnlyThreads.refl (s : State) : OnlyThreads s s := ⟨rfl, fun _ => rfl⟩

theorem OnlyThreads.trans {s t u : State} (a : OnlyThreads s t) (b : OnlyThreads t u) : OnlyThreads s u := by
  refine ⟨?_, fun c => ?_⟩
  · have := b.1
    rw [a.1] at this
    exact this
  · have h := b.2 c
    rw [a.2 c] at h
    exact h

theorem onlyThreads_setThread (s : State) (c x : Nat) (t : Thread) : OnlyThreads s (s.setThread c x t) := by
  refine ⟨rfl, fun d => ?_⟩
  by_cases h : d = c
  · subst h; simp [State.setThread]
  · simp only [State.setThread, core_modCore_other _ _ h]

theorem onlyThreads_modThread (s : State) (c x : Nat) (f : Thread → Thread) : OnlyThreads s (s.modThread c x f) :=
  onlyThreads_setThread _ _ _ _

theorem onlyThreads_ready (s : State) (c x : Nat) (y : Bool) : OnlyThreads s (s.ready c x y) := onlyThreads_modThread _ _ _ _

theorem onlyThreads_waits (s : State) (c x : Nat) (w : Wait) : OnlyThreads s (s.waits c x w) := onlyThreads_modThread _ _ _ _

theorem onlyThreads_goesOn (s : State) (c x : Nat) (pc : Word) (y : Bool) : OnlyThreads s (s.goesOn c x pc y) :=
  (onlyThreads_modThread _ _ _ _).trans (onlyThreads_ready _ _ _ _)

theorem OnlyThreads.mem {s u : State} (h : OnlyThreads s u) : u.mem = s.mem := by rw [h.1]
theorem OnlyThreads.reqs {s u : State} (h : OnlyThreads s u) : u.reqs = s.reqs := by rw [h.1]
theorem OnlyThreads.grids {s u : State} (h : OnlyThreads s u) : u.grids = s.grids := by rw [h.1]
theorem OnlyThreads.vfs {s u : State} (h : OnlyThreads s u) : u.vfs = s.vfs := by rw [h.1]

theorem OnlyThreads.group {s u : State} (h : OnlyThreads s u) (c g : Nat) : u.group c g = s.group c g := by
  simp only [State.group]; rw [h.2 c]

theorem OnlyThreads.team {s u : State} (h : OnlyThreads s u) (c t : Nat) : u.team c t = s.team c t := by
  simp only [State.team]; rw [h.2 c]

theorem OnlyThreads.kernel {s u : State} (h : OnlyThreads s u) (v k : Nat) : u.kernel v k = s.kernel v k := by
  simp only [State.kernel, State.vf, h.vfs]

/-! ## Threads -/

@[simp] theorem thread_setThread (s : State) (c x : Nat) (t : Thread) : (s.setThread c x t).thread c x = t := by
  simp [State.thread, State.setThread]

theorem thread_setThread_other (s : State) {c x d y : Nat} (t : Thread) (h : d ≠ c ∨ y ≠ x) :
    (s.setThread c x t).thread d y = s.thread d y := by
  by_cases hd : d = c
  · subst hd
    have hy : y ≠ x := by simpa using h
    simp only [State.thread, State.setThread, core_modCore]
    exact tbl_get_set_other _ _ _ hy
  · simp only [State.thread, State.setThread, core_modCore_other _ _ hd]

@[simp] theorem thread_modThread (s : State) (c x : Nat) (f : Thread → Thread) :
    (s.modThread c x f).thread c x = f (s.thread c x) := thread_setThread _ _ _ _

theorem thread_modThread_other (s : State) {c x d y : Nat} (f : Thread → Thread) (h : d ≠ c ∨ y ≠ x) :
    (s.modThread c x f).thread d y = s.thread d y := thread_setThread_other _ _ h

theorem count_modThread (s : State) (c x : Nat) (f : Thread → Thread) (half : Nat) :
    ((s.modThread c x f).core c).count half = (s.core c).count half := by
  rw [(onlyThreads_modThread s c x f).2 c]
  rfl

@[simp] theorem thread_waits (s : State) (c x : Nat) (w : Wait) :
    (s.waits c x w).thread c x = { s.thread c x with st := .waiting w } := thread_modThread _ _ _ _

theorem thread_waits_other (s : State) {c x d y : Nat} (w : Wait) (h : d ≠ c ∨ y ≠ x) :
    (s.waits c x w).thread d y = s.thread d y := thread_modThread_other _ _ h

@[simp] theorem thread_ready (s : State) (c x : Nat) (y : Bool) :
    (s.ready c x y).thread c x = { s.thread c x with st := .ready, stamp := s.stampAt c x (y || (s.thread c x).yld) } :=
  thread_modThread _ _ _ _

@[simp] theorem moveTo_fields (t : Thread) (pc : Word) :
    t.moveTo pc = { t with pc := pc, snap := none, read := [], readDenied := none } := rfl

/-- A thread that goes on is ready at its next PC, stamped with the picker's count; what it kept for its instruction is gone. -/
@[simp] theorem thread_goesOn (s : State) (c x : Nat) (pc : Word) (y : Bool) :
    (s.goesOn c x pc y).thread c x =
      { s.thread c x with
        pc := pc, st := .ready, stamp := s.stampAt c x (y || (s.thread c x).yld), snap := none, read := [], readDenied := none } := by
  simp [State.goesOn, State.stampAt, count_modThread]

theorem thread_goesOn_other (s : State) {c x d y : Nat} (pc : Word) (z : Bool) (h : d ≠ c ∨ y ≠ x) :
    (s.goesOn c x pc z).thread d y = s.thread d y := by
  simp only [State.goesOn, State.ready]
  rw [thread_modThread_other _ _ h, thread_modThread_other _ _ h]

/-! ## Predicates and registers of a thread -/

@[simp] theorem pred_zero (t : Thread) : t.pred 0 = true := rfl
@[simp] theorem predEmpty_zero (t : Thread) : t.predEmpty 0 = false := rfl
@[simp] theorem setPred_zero (t : Thread) (b : Bool) : t.setPred 0 b = t := rfl
@[simp] theorem emptyPred_zero (t : Thread) : t.emptyPred 0 = t := rfl

@[simp] theorem reg_setReg (t : Thread) (n : Nat) (w : RegWord) : (t.setReg n w).reg n = w := by simp [Thread.reg]

theorem reg_setReg_other (t : Thread) {n m : Nat} (w : RegWord) (h : m ≠ n) : (t.setReg n w).reg m = t.reg m := by
  simp only [Thread.reg, setReg_regs]
  exact tbl_get_set_other _ _ _ h

theorem setBit16_get (m : BitVec 16) (n : Nat) (b : Bool) (i : Nat) (h : i < 16) :
    (setBit16 m n b).getLsbD i = if i = n then b else m.getLsbD i := by
  unfold setBit16
  cases b <;> by_cases hi : i = n <;> first | (subst hi; simp [h]) | simp [h, hi]

/-- A written predicate reads back, and is FULL. -/
theorem pred_setPred (t : Thread) (n : Nat) (b : Bool) (h : 0 < n) (hn : n < 16) :
    (t.setPred n b).pred n = b ∧ (t.setPred n b).predEmpty n = false := by
  have h0 : n ≠ 0 := by omega
  simp [Thread.setPred, Thread.pred, Thread.predEmpty, h0, setBit16_get _ _ _ _ hn]

theorem pred_setPred_other (t : Thread) {n m : Nat} (b : Bool) (h : m ≠ n) (hm : m < 16) :
    (t.setPred n b).pred m = t.pred m ∧ (t.setPred n b).predEmpty m = t.predEmpty m := by
  unfold Thread.setPred
  split
  · exact ⟨rfl, rfl⟩
  · simp [Thread.pred, Thread.predEmpty, setBit16_get _ _ _ _ hm, h]

/-! ## Register words -/

/-- The release of a latch leaves every thread, group and team as it was. -/
@[simp] theorem thread_releaseA (s : State) (c n d y : Nat) (g : Option (Nat × Nat)) :
    (s.releaseA c n g).thread d y = s.thread d y := by
  cases g with
  | none => rfl
  | some g =>
    simp only [State.releaseA, State.thread]
    by_cases h : d = c
    · subst h; rw [core_modCore]
    · rw [core_modCore_other _ _ h]

theorem releaseA_cores (s : State) (c n : Nat) (g : Option (Nat × Nat)) :
    s.releaseA c n g = { s with cores := (s.releaseA c n g).cores } := by cases g <;> rfl

/-- The effect of a word write on a live thread: lane register (with the latch that held it), predicate, or a uniform register of its
group. -/
theorem setWord_g (s : State) (c x n : Nat) (w : RegWord) (h : (s.thread c x).st ≠ .none) :
    s.setWord c x (.g n) w = (s.modThread c x fun t => t.setReg n w).releaseA c n (s.thread c x).group := by
  simp [State.setWord, h]

theorem setWord_p (s : State) (c x n : Nat) (w : RegWord) (h : (s.thread c x).st ≠ .none) :
    s.setWord c x (.p n) w = s.modThread c x fun t => t.setPred n (w.val.getLsbD 0) := by simp [State.setWord, h]

theorem setWord_s (s : State) (c x n g l : Nat) (w : RegWord) (h : (s.thread c x).st ≠ .none)
    (hg : (s.thread c x).group = some (g, l)) :
    s.setWord c x (.s n) w = s.modGroup c g fun k => { k with sregs := Tbl.set k.sregs n w } := by
  simp [State.setWord, h, hg]

/-- A value for a thread that has exited is discarded (02 R68). -/
theorem setWord_gone (s : State) (c x : Nat) (r : WRef) (w : RegWord) (h : (s.thread c x).st = .none) :
    s.setWord c x r w = s := by simp [State.setWord, h]

/-- A word write changes cores alone. -/
theorem setWord_cores (s : State) (c x : Nat) (r : WRef) (w : RegWord) :
    s.setWord c x r w = { s with cores := (s.setWord c x r w).cores } := by
  unfold State.setWord
  split
  · rfl
  · split
    · rw [releaseA_cores]; rfl
    · split <;> rfl
    · rfl

/-- A word write of a free thread changes its context alone. -/
theorem onlyThreads_setWord (s : State) (c x : Nat) (r : WRef) (w : RegWord) (h : (s.thread c x).group = none) :
    OnlyThreads s (s.setWord c x r w) := by
  unfold State.setWord
  split
  · exact OnlyThreads.refl s
  · split
    · rw [h, State.releaseA]; exact onlyThreads_modThread _ _ _ _
    · simp only [h]; exact OnlyThreads.refl s
    · exact onlyThreads_modThread _ _ _ _

theorem thread_setWord_other (s : State) {c x d y : Nat} (r : WRef) (w : RegWord) (h : d ≠ c ∨ y ≠ x) :
    (s.setWord c x r w).thread d y = s.thread d y := by
  unfold State.setWord
  split
  · rfl
  · split
    · rw [thread_releaseA]; exact thread_modThread_other _ _ h
    · split
      · simp only [State.thread, State.modGroup, State.setGroup]
        by_cases hd : d = c
        · subst hd; rw [core_modCore]
        · rw [core_modCore_other _ _ hd]
      · rfl
    · exact thread_modThread_other _ _ h

/-- A word write leaves a thread's group, PC and state alone. -/
theorem setWord_keeps (s : State) (c x d y : Nat) (r : WRef) (w : RegWord) :
    ((s.setWord c x r w).thread d y).group = (s.thread d y).group ∧
      ((s.setWord c x r w).thread d y).pc = (s.thread d y).pc ∧
      ((s.setWord c x r w).thread d y).st = (s.thread d y).st := by
  by_cases hh : d ≠ c ∨ y ≠ x
  · rw [thread_setWord_other s r w hh]; exact ⟨rfl, rfl, rfl⟩
  · have : d = c ∧ y = x := by constructor <;> (by_contra hne; exact hh (by tauto))
    obtain ⟨rfl, rfl⟩ := this
    unfold State.setWord
    split
    · exact ⟨rfl, rfl, rfl⟩
    · split
      · simp
      · split
        · simp [State.thread, State.modGroup, State.setGroup]
        · exact ⟨rfl, rfl, rfl⟩
      · rw [thread_modThread, Thread.setPred]
        split <;> exact ⟨rfl, rfl, rfl⟩

end Sys2Proof.Laws
end

