-- ==== Sys2Proof/Laws/Lanes.lean ====
section
/-! SUPPORT. How an issue executes: its units, what a lane reads, and what an issue of value-only lanes leaves (`runLanes_write`). -/

namespace Sys2Proof.Laws

open Sys2Proof.Machine Sys2Proof.Safety

/-! ## Reads and destinations -/

/-- A lane may read references that are not EMPTY, not poisoned and hold no token. -/
theorem readCheck_ok (s : State) (l : Lane) (rs : List (WRef × Bool))
    (h : ∀ r ∈ rs, s.isEmpty l.core l.t r.1 = false ∧ (s.word l.core l.t r.1).poison = false ∧
      (s.word l.core l.t r.1).token = none) : s.readCheck l rs = none := by
  have hf : (rs.filter fun r => s.isEmpty l.core l.t r.1) = [] := by
    rw [List.filter_eq_nil_iff]
    intro r hr
    simp [(h r hr).1]
  have ht : (rs.findSome? fun r => (s.word l.core l.t r.1).readTrap) = none := by
    rw [List.findSome?_eq_none_iff]
    intro r hr
    simp [RegWord.readTrap, (h r hr).2]
  simp [State.readCheck, hf, ht]

/-- A lane may write references that are FULL. -/
theorem destCheck_ok (s : State) (l : Lane) (rs : List WRef) (h : ∀ r ∈ rs, s.isFull l.core l.t r = true) :
    s.destCheck l rs = none := by
  have hf : (rs.filter fun r => !s.isFull l.core l.t r) = [] := by
    rw [List.filter_eq_nil_iff]
    intro r hr
    simp [h r hr]
  simp [State.destCheck, hf]

/-! ## What a lane reads does not depend on thread contexts, which the lane holds itself -/

theorem word_only {s u : State} (h : OnlyThreads s u) (c : Nat) (t : Thread) (r : WRef) : u.word c t r = s.word c t r := by
  cases r with
  | g n => rfl
  | s n =>
    simp only [State.word]
    cases t.group with
    | none => rfl
    | some g => simp [h.group]
  | p n => rfl

theorem isEmpty_only {s u : State} (h : OnlyThreads s u) (c : Nat) (t : Thread) (r : WRef) :
    u.isEmpty c t r = s.isEmpty c t r := by
  cases r <;> simp [State.isEmpty, word_only h]

theorem isFull_only {s u : State} (h : OnlyThreads s u) (c : Nat) (t : Thread) (r : WRef) :
    u.isFull c t r = s.isFull c t r := by
  cases r <;> simp [State.isFull, word_only h]

theorem readCheck_only {s u : State} (h : OnlyThreads s u) (l : Lane) (rs : List (WRef × Bool)) :
    u.readCheck l rs = s.readCheck l rs := by
  simp only [State.readCheck, isEmpty_only h, word_only h]

theorem destCheck_only {s u : State} (h : OnlyThreads s u) (l : Lane) (rs : List WRef) :
    u.destCheck l rs = s.destCheck l rs := by
  simp only [State.destCheck, isFull_only h]

theorem budget_only {s u : State} (h : OnlyThreads s u) (c : Nat) (t : Thread) : u.budget c t = s.budget c t := by
  simp only [State.budget, h.group]

theorem decodeTrap_only {s u : State} (h : OnlyThreads s u) (i : Instr) (l : Lane) : u.decodeTrap i l = s.decodeTrap i l := by
  simp only [State.decodeTrap, budget_only h]

theorem regVal_only {s u : State} (h : OnlyThreads s u) (l : Lane) (r : Reg) : u.regVal l r = s.regVal l r := by
  simp only [State.regVal, word_only h]

theorem special_only {s u : State} (h : OnlyThreads s u) (l : Lane) (x : Special) : u.special l x = s.special l x := by
  have hf : u.fabnum = s.fabnum := by rw [h.1]
  have hk : u.clk = s.clk := by rw [h.1]
  have ht : u.tick = s.tick := by rw [h.1]
  cases x <;> simp only [State.special, State.paramOf, State.gridOf, h.group, h.team, h.grids, h.kernel, hf, hk]

theorem srcVal_only {s u : State} (h : OnlyThreads s u) (l : Lane) (x : Src) : u.srcVal l x = s.srcVal l x := by
  cases x <;> simp only [State.srcVal, regVal_only h, special_only h]

/-! ## Units -/

theorem unitsOf_append (us : List (List Lane)) (ls : List Lane) (h : ∀ l ∈ ls, l.t.group = none) :
    ls.foldl addToUnits us = us ++ ls.map fun l => [l] := by
  induction ls generalizing us with
  | nil => simp
  | cons l ls ih =>
    have hl : l.t.group = none := h l (by simp)
    simp only [List.foldl_cons]
    rw [ih _ fun k hk => h k (by simp [hk])]
    simp [addToUnits, hl]

/-- Free threads are a unit each. -/
theorem unitsOf_free (ls : List Lane) (h : ∀ l ∈ ls, l.t.group = none) : unitsOf ls = ls.map fun l => [l] := by
  simpa [unitsOf] using unitsOf_append [] ls h

theorem insertLane_last (l : Lane) (u : List Lane) (h : ∀ k ∈ u, k.lane < l.lane) : insertLane l u = u ++ [l] := by
  induction u with
  | nil => rfl
  | cons k u ih =>
    have hk := h k (by simp)
    simp only [insertLane, if_neg (show ¬ l.lane < k.lane by omega)]
    rw [ih fun j hj => h j (by simp [hj])]
    rfl

theorem unitsOf_grow (g : Nat) (u ls : List Lane) (hne : u ≠ []) (hu : ∀ l ∈ u ++ ls, l.t.group.map Prod.fst = some g)
    (ho : (u ++ ls).Pairwise fun a b => a.lane < b.lane) : ls.foldl addToUnits [u] = [u ++ ls] := by
  induction ls generalizing u with
  | nil => simp
  | cons l ls ih =>
    have hl : l.t.group.map Prod.fst = some g := hu l (by simp)
    obtain ⟨k, u', rfl⟩ := List.exists_cons_of_ne_nil hne
    have hk : k.t.group.map Prod.fst = some g := hu k (by simp)
    obtain ⟨p, hp, hpg⟩ := Option.map_eq_some_iff.mp hl
    have hins : insertLane l (k :: u') = (k :: u') ++ [l] := by
      apply insertLane_last
      intro j hj
      exact (List.pairwise_append.mp ho).2.2 j hj l (by simp)
    have step : addToUnits [k :: u'] l = [(k :: u') ++ [l]] := by
      simp only [addToUnits, hp]
      simp [hk, hpg, hins]
    rw [List.foldl_cons, step, ih _ (by simp)]
    · simp
    · intro j hj; exact hu j (by simpa using hj)
    · simpa using ho

/-- The lanes of one group are one unit. -/
theorem unitsOf_group (ls : List Lane) (g : Nat) (hne : ls ≠ []) (h : ∀ l ∈ ls, l.t.group.map Prod.fst = some g)
    (ho : ls.Pairwise fun a b => a.lane < b.lane) : unitsOf ls = [ls] := by
  obtain ⟨k, u, rfl⟩ := List.exists_cons_of_ne_nil hne
  have hk : k.t.group.map Prod.fst = some g := h k (by simp)
  obtain ⟨p, hp, _⟩ := Option.map_eq_some_iff.mp hk
  simp only [unitsOf, List.foldl_cons]
  rw [show addToUnits [] k = [[k]] by simp [addToUnits, hp]]
  exact unitsOf_grow g [k] u (by simp) (by simpa using h) (by simpa using ho)

/-! ## What one lane leaves -/

theorem onlyThreads_passLane (h : Hdr) (s : State) (l : Lane) : OnlyThreads s (State.passLane h s l) := by
  unfold State.passLane
  split
  · exact onlyThreads_waits _ _ _ _
  · split
    · exact OnlyThreads.refl s
    · exact onlyThreads_goesOn _ _ _ _ _

theorem onlyThreads_passAll (h : Hdr) (s : State) (ls : List Lane) : OnlyThreads s (ls.foldl (State.passLane h) s) := by
  induction ls generalizing s with
  | nil => exact OnlyThreads.refl s
  | cons l ls ih => exact (onlyThreads_passLane h s l).trans (ih _)

/-- The writes of a lane, one after another. -/
theorem onlyThreads_writes (s : State) (c x : Nat) (ws : List (WRef × Word)) (h : (s.thread c x).group = none) :
    OnlyThreads s (ws.foldl (fun s e => s.writeWord c x e.1 e.2) s) := by
  induction ws generalizing s with
  | nil => exact OnlyThreads.refl s
  | cons e ws ih =>
    refine (onlyThreads_setWord s c x e.1 _ h).trans (ih _ ?_)
    exact ((setWord_keeps s c x c x e.1 _).1).trans h

theorem onlyThreads_complete (s : State) (l : Lane) (ws : List (WRef × Word)) (pc : Option Word)
    (h : (s.thread l.core l.ctx).group = none) : OnlyThreads s (s.complete l ws pc) :=
  (onlyThreads_writes s l.core l.ctx ws h).trans (onlyThreads_goesOn _ _ _ _ _)

theorem thread_writes_other (s : State) {c x d y : Nat} (ws : List (WRef × Word)) (h : d ≠ c ∨ y ≠ x) :
    (ws.foldl (fun s e => s.writeWord c x e.1 e.2) s).thread d y = s.thread d y := by
  induction ws generalizing s with
  | nil => rfl
  | cons e ws ih => rw [List.foldl_cons, ih]; exact thread_setWord_other s e.1 _ h

/-- A lane that completes leaves every other context alone. -/
theorem thread_complete_other (s : State) (l : Lane) (ws : List (WRef × Word)) (pc : Option Word) {d y : Nat}
    (h : d ≠ l.core ∨ y ≠ l.ctx) : (s.complete l ws pc).thread d y = s.thread d y := by
  unfold State.complete
  rw [thread_goesOn_other _ _ _ h, thread_writes_other _ _ h]

theorem thread_passLane_other (h : Hdr) (s : State) (l : Lane) {d y : Nat} (hh : d ≠ l.core ∨ y ≠ l.ctx) :
    (State.passLane h s l).thread d y = s.thread d y := by
  unfold State.passLane
  split
  · exact thread_waits_other _ _ hh
  · split
    · rfl
    · exact thread_goesOn_other _ _ _ hh

/-! ## An issue whose active lanes write values (09 R194, R197) -/

/-- Lanes none of which must try again are not held back. -/
theorem holdOuts_none {outs : List (Lane × LaneOut)} (h : ∀ o ∈ outs, o.2.held = false) : holdOuts outs = outs := by
  have : (outs.any fun o => o.2.held) = false := by
    rw [List.any_eq_false]
    intro o ho
    simp [h o ho]
  simp [holdOuts, this]

/-- Lanes none of which traps, and none of which must try again where they act together: each outcome is applied in turn. -/
theorem runActive_ok (s : State) (ls : List Lane) (f : State → Lane → LaneOut) (w : Bool) (act : Lane → State → State)
    (h : ∀ l ∈ ls, (f s l).trapOf = none ∧ (w = true → (f s l).held = false) ∧ ∀ u : State, u.applyOut l (f s l) = act l u) :
    s.runActive ls f w = ls.foldl (fun s l => act l s) s := by
  have hn : (ls.map fun l => (l, f s l)).findSome? (fun o => o.2.trapOf) = none := by
    rw [List.findSome?_eq_none_iff]
    intro o ho
    obtain ⟨l, hl, rfl⟩ := List.mem_map.mp ho
    exact (h l hl).1
  have ho : (if w then holdOuts (ls.map fun l => (l, f s l)) else ls.map fun l => (l, f s l)) = ls.map fun l => (l, f s l) := by
    cases w with
    | false => rfl
    | true =>
      refine holdOuts_none fun o ho => ?_
      obtain ⟨l, hl, rfl⟩ := List.mem_map.mp ho
      exact (h l hl).2.1 rfl
  simp only [State.runActive, ho, hn]
  rw [List.foldl_map]
  exact List.foldl_ext _ _ _ fun u l hl => (h l hl).2.2 u

theorem runActive_write (s : State) (ls : List Lane) (f : State → Lane → LaneOut) (w : Bool)
    (ws : Lane → List (WRef × Word)) (pc : Lane → Option Word) (h : ∀ l ∈ ls, f s l = .write (ws l) (pc l)) :
    s.runActive ls f w = ls.foldl (fun s l => s.complete l (ws l) (pc l)) s :=
  runActive_ok s ls f w (fun l u => u.complete l (ws l) (pc l)) fun l hl => by
    rw [h l hl]
    exact ⟨rfl, fun _ => rfl, fun _ => rfl⟩

/-- The lanes of an issue in a state. -/
theorem laneOf_thread (s : State) (iss : Issue) (hints : BitVec 9) (x : Nat) :
    (s.laneOf iss hints x).t = s.thread (s.laneOf iss hints x).core (s.laneOf iss hints x).ctx := rfl

/-- An issue of a value-only instruction: where no lane's guard is EMPTY, no decode check fails and every active lane writes, in
every state that differs from the issue's in thread contexts alone, the whole issue is `writeUnits`. -/
theorem runLanes_write (i : Instr) (h : Hdr) (f : State → Lane → LaneOut) (s : State) (iss : Issue) (rest : List Issue)
    (ws : Lane → List (WRef × Word)) (pc : Lane → Option Word) (hi : AtIssue s i h iss rest)
    (hf : ∀ l ∈ activeLanes h (lanesOf s iss rest h), ∀ u, OnlyThreads (left s rest) u → f u l = .write (ws l) (pc l)) :
    s.runLanes i h f = written s iss rest h ws pc := by
  obtain ⟨hs, ht, hd⟩ := hi
  simp only [lanesOf, left, written] at *
  simp only [State.runLanes, State.runUnits, hs]
  generalize hs1 : ({ s with issues := rest } : State) = s1 at *
  have hth : ∀ l ∈ iss.lanes.map (s1.laneOf iss h.hints), l.t = s1.thread l.core l.ctx := by
    intro l hl
    obtain ⟨x, _, rfl⟩ := List.mem_map.mp hl
    rfl
  have hcore : ∀ l ∈ iss.lanes.map (s1.laneOf iss h.hints), l.core = iss.core := by
    intro l hl
    obtain ⟨x, _, rfl⟩ := List.mem_map.mp hl
    rfl
  generalize iss.lanes.map (s1.laneOf iss h.hints) = ls at *
  have unit : ∀ (u : State) (ks : List Lane), OnlyThreads s1 u → (∀ l ∈ ks, l ∈ ls) →
      State.runUnit i h (fun s ls => s.runActive ls f false) u ks =
        (activeLanes h ks).foldl (fun s l => s.complete l (ws l) (pc l)) (ks.foldl (State.passLane h) u) := by
    intro u ks hu hk
    cases ks with
    | nil => rfl
    | cons k ks =>
      simp only [State.runUnit]
      rw [decodeTrap_only hu, hd k (hk k (by simp))]
      apply runActive_write
      intro l hl
      refine hf l ?_ _ (hu.trans (onlyThreads_passAll h u (k :: ks)))
      simp only [activeLanes, List.mem_filter] at hl ⊢
      exact ⟨hk l hl.1, hl.2⟩
  rcases ht with ⟨⟨g, hg⟩, ho⟩ | ⟨hg, ho⟩
  · by_cases hne : ls = []
    · subst hne; rfl
    · rw [unitsOf_group ls g hne hg ho]
      simp only [writeUnits, List.foldl_cons, List.foldl_nil]
      exact unit s1 ls (OnlyThreads.refl _) fun _ hl => hl
  · rw [unitsOf_free ls hg]
    have key : ∀ (ks : List Lane) (u : State), OnlyThreads s1 u → (∀ l ∈ ks, l ∈ ls ∧ u.thread l.core l.ctx = l.t) →
        ks.Pairwise (fun a b => a.ctx ≠ b.ctx) →
        (ks.map fun l => [l]).foldl (State.runUnit i h fun s ls => s.runActive ls f false) u =
          writeUnits h ws pc (ks.map fun l => [l]) u := by
      intro ks
      induction ks with
      | nil => intros; rfl
      | cons k ks ih =>
        intro u hu hk ho
        simp only [List.map_cons, writeUnits, List.foldl_cons]
        rw [unit u [k] hu (by intro l hl; simp at hl; subst hl; exact (hk _ (by simp)).1)]
        have hkt : (u.thread k.core k.ctx).group = none := by rw [(hk k (by simp)).2]; exact hg k (hk k (by simp)).1
        have hpass := onlyThreads_passLane h u k
        have hthread : ∀ l ∈ ks, l.core ≠ k.core ∨ l.ctx ≠ k.ctx := fun l hl =>
          Or.inr (Ne.symm (List.rel_of_pairwise_cons ho hl))
        have hgrp : ((State.passLane h u k).thread k.core k.ctx).group = none := by
          unfold State.passLane
          split
          · simp [hkt]
          · split
            · exact hkt
            · simp [hkt]
        refine ih _ ?_ ?_ (List.Pairwise.of_cons ho)
        · simp only [List.foldl_cons, List.foldl_nil, activeLanes, List.filter_cons, List.filter_nil]
          split
          · exact hu.trans (hpass.trans (onlyThreads_complete _ _ _ _ hgrp))
          · exact hu.trans hpass
        · intro l hl
          refine ⟨(hk l (by simp [hl])).1, ?_⟩
          simp only [List.foldl_cons, List.foldl_nil, activeLanes, List.filter_cons, List.filter_nil]
          split
          · simp only [List.foldl_cons, List.foldl_nil]
            rw [thread_complete_other _ _ _ _ (hthread l hl), thread_passLane_other h u k (hthread l hl)]
            exact (hk l (by simp [hl])).2
          · simp only [List.foldl_nil]
            rw [thread_passLane_other h u k (hthread l hl)]
            exact (hk l (by simp [hl])).2
    refine key ls s1 (OnlyThreads.refl _) (fun l hl => ⟨hl, (hth l hl).symm⟩) ho

/-! ## An issue that is one fault unit -/

/-- The lanes of an issue that is one unit are one unit. -/
theorem unitsOf_one (ls : List Lane) (hne : ls ≠ []) (ht : Together ls) (h : OneUnit ls) : unitsOf ls = [ls] := by
  rcases h with ⟨g, hg⟩ | ⟨l, rfl, hl⟩
  · rcases ht with ⟨_, ho⟩ | ⟨hn, _⟩
    · exact unitsOf_group ls g hne hg ho
    · obtain ⟨k, u, rfl⟩ := List.exists_cons_of_ne_nil hne
      have := hg k (by simp)
      simp [hn k (by simp)] at this
  · rw [unitsOf_free [l] (by simpa using hl)]
    rfl

/-- An issue that is one unit: the lanes that are not active pass, then the active ones run. -/
theorem runUnits_one {i : Instr} {h : Hdr} {run : State → List Lane → State} {s : State} {iss : Issue} {rest : List Issue}
    (hi : AtIssue s i h iss rest) (ho : OneUnit (lanesOf s iss rest h)) (hrun : ∀ u, run u [] = u) :
    s.runUnits i h run = run (passed s iss rest h) (active s iss rest h) := by
  obtain ⟨hs, ht, hd⟩ := hi
  simp only [State.runUnits, hs]
  change (unitsOf (lanesOf s iss rest h)).foldl (State.runUnit i h run) (left s rest) = _
  by_cases hne : lanesOf s iss rest h = []
  · rw [active, passed, hne]
    exact (hrun _).symm
  · rw [unitsOf_one _ hne ht ho]
    obtain ⟨k, u, hk⟩ := List.exists_cons_of_ne_nil hne
    simp only [List.foldl_cons, List.foldl_nil, passed, active]
    rw [hk] at hd ⊢
    simp only [State.runUnit, hd k (by simp)]

theorem runActive_nil (s : State) (f : State → Lane → LaneOut) (w : Bool) : s.runActive [] f w = s := by cases w <;> rfl

/-- An issue of one unit whose active lanes act. -/
theorem runLanes_acts {i : Instr} {h : Hdr} {f : State → Lane → LaneOut} {s : State} {iss : Issue} {rest : List Issue}
    (hi : AtIssue s i h iss rest) (ho : OneUnit (lanesOf s iss rest h)) (act : Lane → State → State)
    (hf : ∀ l ∈ active s iss rest h, (f (passed s iss rest h) l).trapOf = none ∧
      ∀ u : State, u.applyOut l (f (passed s iss rest h) l) = act l u) :
    s.runLanes i h f = acted s iss rest h act := by
  rw [State.runLanes, runUnits_one hi ho fun u => runActive_nil u f false]
  exact runActive_ok _ _ _ _ act fun l hl => ⟨(hf l hl).1, fun h => absurd h (by simp), (hf l hl).2⟩

/-- An issue of one unit whose active lanes act together (12 R281, R296). -/
theorem runWhole_acts {i : Instr} {h : Hdr} {f : State → Lane → LaneOut} {s : State} {iss : Issue} {rest : List Issue}
    (hi : AtIssue s i h iss rest) (ho : OneUnit (lanesOf s iss rest h)) (act : Lane → State → State)
    (hf : ∀ l ∈ active s iss rest h, (f (passed s iss rest h) l).trapOf = none ∧ (f (passed s iss rest h) l).held = false ∧
      ∀ u : State, u.applyOut l (f (passed s iss rest h) l) = act l u) :
    s.runWhole i h f = acted s iss rest h act := by
  rw [State.runWhole, runUnits_one hi ho fun u => runActive_nil u f true]
  exact runActive_ok _ _ _ _ act fun l hl => ⟨(hf l hl).1, fun _ => (hf l hl).2.1, (hf l hl).2.2⟩

theorem holdAccs_none {outs : List (Lane × AccOut)} (h : ∀ o ∈ outs, o.2.held = false) : holdAccs outs = outs := by
  have : (outs.any fun o => o.2.held) = false := by
    rw [List.any_eq_false]
    intro o ho
    simp [h o ho]
  simp [holdAccs, this]

/-- Lanes of a unit none of which faults: each acts in turn. -/
theorem actLanes_ok (s : State) (outs : List (Lane × AccOut)) (h : ∀ o ∈ outs, o.2.faults = none) :
    s.actLanes outs = outs.foldl (fun s o => s.applyAcc o.1 false o.2) s := by
  have h0 : ((outs.filter fun o => o.2.accesses).head?.bind fun o => o.2.faults) = none := by
    rw [Option.bind_eq_none_iff]
    intro o ho
    exact h o (List.mem_of_mem_filter (List.mem_of_mem_head? ho))
  have key : ∀ (os : List (Lane × AccOut)) (u : State), (∀ o ∈ os, o.2.faults = none) →
      os.foldl (fun (a : State × Bool) o => (a.1.applyAcc o.1 a.2 o.2, a.2 || o.2.faults.isSome)) (u, false) =
        (os.foldl (fun s o => s.applyAcc o.1 false o.2) u, false) := by
    intro os
    induction os with
    | nil => intros; rfl
    | cons o os ih =>
      intro u ho
      simp only [List.foldl_cons, ho o (by simp), Option.isSome_none, Bool.or_false]
      exact ih _ fun x hx => ho x (by simp [hx])
  simp only [State.actLanes, h0, key outs s h]

/-- An issue of one unit whose active lanes make accesses. -/
theorem runAccess_acts {i : Instr} {h : Hdr} {f : State → Lane → AccOut} {s : State} {iss : Issue} {rest : List Issue}
    (hi : AtIssue s i h iss rest) (ho : OneUnit (lanesOf s iss rest h)) (act : Lane → State → State)
    (hf : ∀ l ∈ active s iss rest h, (f (passed s iss rest h) l).trapOf = none ∧ (f (passed s iss rest h) l).faults = none ∧
      (f (passed s iss rest h) l).held = false ∧ ∀ u : State, u.applyAcc l false (f (passed s iss rest h) l) = act l u) :
    s.runAccess i h f = acted s iss rest h act := by
  rw [State.runAccess, runUnits_one hi ho fun u => rfl, acted]
  generalize passed s iss rest h = u at *
  generalize active s iss rest h = ls at *
  have h1 : (ls.map fun l => (l, f u l)).findSome? (fun o => o.2.trapOf) = none := by
    rw [List.findSome?_eq_none_iff]
    intro o ho
    obtain ⟨l, hl, rfl⟩ := List.mem_map.mp ho
    exact (hf l hl).1
  have h2 : (ls.map fun l => (l, f u l)).findSome? (fun o => o.2.fails) = none := by
    rw [List.findSome?_eq_none_iff]
    intro o ho
    obtain ⟨l, hl, rfl⟩ := List.mem_map.mp ho
    have := (hf l hl).2.1
    revert this
    cases f u l <;> simp [AccOut.faults, AccOut.fails]
  have h3 : (ls.map fun l => (l, f u l)).findSome? (fun o => o.2.spoiled) = none := by
    rw [List.findSome?_eq_none_iff]
    intro o ho
    obtain ⟨l, hl, rfl⟩ := List.mem_map.mp ho
    have := (hf l hl).2.1
    revert this
    cases f u l <;> simp [AccOut.faults, AccOut.spoiled]
  have h4 : holdAccs (ls.map fun l => (l, f u l)) = ls.map fun l => (l, f u l) := holdAccs_none fun o ho => by
    obtain ⟨l, hl, rfl⟩ := List.mem_map.mp ho
    exact (hf l hl).2.2.1
  simp only [State.runAcc, h1, h2, h4, h3]
  rw [actLanes_ok _ _ fun o ho => ?_, List.foldl_map]
  · exact List.foldl_ext _ _ _ fun v l hl => (hf l hl).2.2.2 v
  · obtain ⟨l, hl, rfl⟩ := List.mem_map.mp ho
    exact (hf l hl).2.1

theorem onlyThreads_passed (s : State) (iss : Issue) (rest : List Issue) (h : Hdr) :
    OnlyThreads (left s rest) (passed s iss rest h) := onlyThreads_passAll h _ _

/-! ## A released set (11 R254, R255) -/

/-- The set does not wait behind others of its group. -/
def runs : SetOut → Bool
  | .wait | .hold _ => false
  | _ => true

/-- A released set that executes: its outcome is found in the state of the issue. -/
theorem runSet_released {i : Instr} {h : Hdr} {f : State → List Lane → SetOut} {s : State} {iss : Issue} {rest : List Issue}
    (hr : Released s i h iss rest) (o : SetOut) (ho : f (left s rest) (active s iss rest h) = o) (hw : runs o = true) :
    ∃ g, s.runSet i h f = (passed s iss rest h).applySet g iss (active s iss rest h) o := by
  obtain ⟨hs, hrel, ⟨g, hg, hp⟩, hord, hd, hgu, hne⟩ := hr
  have hl : lanesOf s iss rest h ≠ [] := by
    intro h0
    exact hne (by rw [active, h0]; rfl)
  obtain ⟨k, u, hk⟩ := List.exists_cons_of_ne_nil hl
  have hkg := hg k (by rw [hk]; simp)
  obtain ⟨p, hpg, hpe⟩ := Option.map_eq_some_iff.mp hkg
  refine ⟨p.1, ?_⟩
  simp only [State.runSet, hs, hrel, if_true]
  change (unitsOf (lanesOf s iss rest h)).foldl _ (left s rest) = _
  rw [unitsOf_group _ g hl hg hord]
  have hgrp : ((left s rest).group iss.core p.1).pend = [] := by rw [hpe]; exact hp
  have hany : (lanesOf s iss rest h).any (fun k => guardEmpty h k.t) = false := by
    rw [List.any_eq_false]
    intro l hl
    simp [hgu l hl]
  have hact : (activeLanes h (lanesOf s iss rest h)).isEmpty = false := by
    rw [List.isEmpty_eq_false_iff]; exact hne
  have hdk := hd k (by rw [hk]; simp)
  simp only [List.foldl_cons, List.foldl_nil, passed]
  rw [active] at ho ⊢
  generalize hls : lanesOf s iss rest h = ls at *
  subst hk
  simp only [State.runReleased, hpg, hgrp, hdk, hany, hact, ho]
  cases o with
  | wait => simp [runs] at hw
  | hold f => simp [runs] at hw
  | trap t => simp
  | trapIn t l => simp
  | write ws => simp
  | act g => simp

end Sys2Proof.Laws
end

