-- ==== Sys2Proof/Laws/Alu.lean ====
section
/-! SUPPORT. What the shapes of the value instructions do where sources are readable and destinations writable. -/

namespace Sys2Proof.Laws

open Sys2Proof.Machine Sys2Proof.Safety

theorem readable_hinted (s : State) (l : Lane) (n : Nat) (xs : List Src) (h : Readable s l (xs.flatMap Src.refs)) :
    ∀ r ∈ hinted l n xs, s.isEmpty l.core l.t r.1 = false ∧ (s.word l.core l.t r.1).poison = false ∧
      (s.word l.core l.t r.1).token = none := by
  induction xs generalizing n with
  | nil => intro r hr; simp [hinted] at hr
  | cons x xs ih =>
    intro r hr
    simp only [hinted, List.mem_append, List.mem_map] at hr
    rcases hr with ⟨q, hq, rfl⟩ | hr
    · exact h q (by simp [hq])
    · exact ih (n + 1) (fun q hq => h q (by simp only [List.flatMap_cons, List.mem_append]; exact Or.inr hq)) r hr

theorem Readable.only {s u : State} (h : OnlyThreads s u) {l : Lane} {rs : List WRef} (r : Readable s l rs) : Readable u l rs := by
  intro q hq
  rw [isEmpty_only h, word_only h]
  exact r q hq

theorem Writable.only {s u : State} (h : OnlyThreads s u) {l : Lane} {rs : List WRef} (w : Writable s l rs) : Writable u l rs := by
  intro q hq
  rw [isFull_only h]
  exact w q hq

/-- Sources are read and the function is applied where the lane may read and write. -/
theorem compute_ok (s : State) (l : Lane) (xs : List Src) (ds : List WRef) (f : List DWord → LaneOut)
    (hr : Readable s l (xs.flatMap Src.refs)) (hw : Writable s l ds) : s.compute l xs ds f = f (xs.map (s.srcVal l)) := by
  simp only [State.compute, readCheck_ok s l _ (readable_hinted s l 0 xs hr), destCheck_ok s l ds hw]

theorem un_ok (s : State) (l : Lane) (d : Reg) (a : Src) (f : DWord → DWord) (hr : Readable s l (Src.refs a))
    (hw : Writable s l (Reg.refs d)) : s.un l d a f = .write (destWrites d (f (s.srcVal l a))) none := by
  rw [State.un, compute_ok s l [a] _ _ (by simpa using hr) hw]
  rfl

theorem bin_ok (s : State) (l : Lane) (d : Reg) (a b : Src) (f : DWord → DWord → DWord)
    (hr : Readable s l (Src.refs a ++ Src.refs b)) (hw : Writable s l (Reg.refs d)) :
    s.bin l d a b f = .write (destWrites d (f (s.srcVal l a) (s.srcVal l b))) none := by
  rw [State.bin, compute_ok s l [a, b] _ _ (by simpa using hr) hw]
  rfl

theorem tern_ok (s : State) (l : Lane) (d : Reg) (a b c : Src) (f : DWord → DWord → DWord → DWord)
    (hr : Readable s l (Src.refs a ++ Src.refs b ++ Src.refs c)) (hw : Writable s l (Reg.refs d)) :
    s.tern l d a b c f = .write (destWrites d (f (s.srcVal l a) (s.srcVal l b) (s.srcVal l c))) none := by
  rw [State.tern, compute_ok s l [a, b, c] _ _ (by simpa using hr) hw]
  rfl

/-- An issue of a one-source instruction. -/
theorem runLanes_un {i : Instr} {h : Hdr} {d : Reg} {a : Src} {f : DWord → DWord} {s : State} {iss : Issue} {rest : List Issue}
    (hi : AtIssue s i h iss rest) (ha : Able s iss rest h (Src.refs a) (Reg.refs d)) :
    s.runLanes i h (fun s l => s.un l d a f) =
      written s iss rest h (fun l => destWrites d (f ((left s rest).srcVal l a))) fun _ => none := by
  apply runLanes_write i h _ s iss rest _ _ hi
  intro l hl u hu
  rw [un_ok u l d a f (Readable.only hu (ha l hl).1) (Writable.only hu (ha l hl).2), srcVal_only hu]

/-- An issue of a two-source instruction. -/
theorem runLanes_bin {i : Instr} {h : Hdr} {d : Reg} {a b : Src} {f : DWord → DWord → DWord} {s : State} {iss : Issue}
    {rest : List Issue} (hi : AtIssue s i h iss rest) (ha : Able s iss rest h (Src.refs a ++ Src.refs b) (Reg.refs d)) :
    s.runLanes i h (fun s l => s.bin l d a b f) =
      written s iss rest h (fun l => destWrites d (f ((left s rest).srcVal l a) ((left s rest).srcVal l b))) fun _ => none := by
  apply runLanes_write i h _ s iss rest _ _ hi
  intro l hl u hu
  rw [bin_ok u l d a b f (Readable.only hu (ha l hl).1) (Writable.only hu (ha l hl).2), srcVal_only hu, srcVal_only hu]

/-- An issue of a three-source instruction. -/
theorem runLanes_tern {i : Instr} {h : Hdr} {d : Reg} {a b c : Src} {f : DWord → DWord → DWord → DWord} {s : State} {iss : Issue}
    {rest : List Issue} (hi : AtIssue s i h iss rest)
    (ha : Able s iss rest h (Src.refs a ++ Src.refs b ++ Src.refs c) (Reg.refs d)) :
    s.runLanes i h (fun s l => s.tern l d a b c f) =
      written s iss rest h
        (fun l => destWrites d (f ((left s rest).srcVal l a) ((left s rest).srcVal l b) ((left s rest).srcVal l c)))
        fun _ => none := by
  apply runLanes_write i h _ s iss rest _ _ hi
  intro l hl u hu
  rw [tern_ok u l d a b c f (Readable.only hu (ha l hl).1) (Writable.only hu (ha l hl).2), srcVal_only hu, srcVal_only hu, srcVal_only hu]

end Sys2Proof.Laws
end

