-- ==== Sys2Proof/Laws/Codec.lean ====
section
/-! SUPPORT. Lemmas about the encodings: codes, operand fields, and the packing of fields into words (08 R174 to R186). -/

namespace Sys2Proof.Laws

/-! ## Codes -/

@[simp] theorem ofCode_ty (t : Ty) : Ty.ofCode t.code = some t := by cases t <;> rfl
@[simp] theorem ofCode_rnd (m : Rnd) : Rnd.ofCode m.code = m := by cases m <;> rfl
@[simp] theorem ofCode_cmp (c : Cmp) : Cmp.ofCode c.code = some c := by cases c <;> rfl
@[simp] theorem ofCode_atom (o : AtomOp) : AtomOp.ofCode o.code = some o := by cases o <;> rfl
@[simp] theorem ofCode_scope (c : Scope) : Scope.ofCode c.code.toNat = some c := by cases c <;> rfl
@[simp] theorem ofCode_shfl (m : ShflMode) : ShflMode.ofCode m.code = m := by cases m <;> rfl
@[simp] theorem ofCode_lpred (o : LpredOp) : LpredOp.ofCode o.code = some o := by cases o <;> rfl
@[simp] theorem ofCode_red (o : RedOp) : RedOp.ofCode o.code = o := by cases o <;> rfl
@[simp] theorem ofCode_peers (o : PeersOp) : PeersOp.ofCode o.code = some o := by cases o <;> rfl
@[simp] theorem ofCode_crd (o : CrdOp) : CrdOp.ofCode o.code = some o := by cases o <;> rfl
@[simp] theorem ofCode_special (x : Special) : Special.ofCode x.code = some x := by cases x <;> rfl

/-! ## Operand fields -/

theorem kindOf_operand (k : BitVec 3) (p : Bool) (n : BitVec 12) : kindOf (operand k p n) = k := by
  apply BitVec.eq_of_getLsbD_eq
  intro i hi
  simp only [kindOf, operand, BitVec.getLsbD_extractLsb', BitVec.getLsbD_append]
  simp [hi, show ¬ 13 + i < 12 by omega, show ¬ 13 + i - 12 < 1 by omega, show 13 + i - 12 - 1 = i by omega]

theorem pairOf_operand (k : BitVec 3) (p : Bool) (n : BitVec 12) : pairOf (operand k p n) = p := by
  simp only [pairOf, operand, BitVec.getLsbD_append]
  simp

theorem indexOf_operand (k : BitVec 3) (p : Bool) (n : BitVec 12) : indexOf (operand k p n) = n := by
  apply BitVec.eq_of_getLsbD_eq
  intro i hi
  simp only [indexOf, operand, BitVec.getLsbD_extractLsb', BitVec.getLsbD_append]
  simp [hi]

theorem toNat_widen {n m : Nat} (x : BitVec n) (h : n ≤ m) : (x.setWidth m).toNat = x.toNat := by
  simp [BitVec.toNat_setWidth]
  exact Nat.mod_eq_of_lt (Nat.lt_of_lt_of_le x.isLt (Nat.pow_le_pow_right (by decide) h))

theorem narrow_widen {n m : Nat} (x : BitVec n) (h : n ≤ m) : (x.setWidth m).setWidth n = x := by
  apply BitVec.eq_of_toNat_eq
  simp [BitVec.toNat_setWidth]
  rw [Nat.mod_eq_of_lt (Nat.lt_of_lt_of_le x.isLt (Nat.pow_le_pow_right (by decide) h))]
  exact Nat.mod_eq_of_lt x.isLt

/-- A register whose pair flag has an even index is read back from its field. -/
theorem regOf_enc (r : Reg) (w : Bool) (h : r.ok w = true) : regOf r.enc = ⟨r, true⟩ := by
  cases r with
  | g n p =>
    have hn : n.toNat < 64 := n.isLt
    simp [Reg.ok] at h
    simp only [regOf, Reg.enc, kindOf_operand, pairOf_operand, indexOf_operand]
    rw [toNat_widen n (by decide), narrow_widen n (by decide)]
    obtain ⟨h1, h2⟩ := h
    cases p <;> simp_all
  | s n p =>
    have hn : n.toNat < 32 := n.isLt
    simp [Reg.ok] at h
    simp only [regOf, Reg.enc, kindOf_operand, pairOf_operand, indexOf_operand]
    rw [toNat_widen n (by decide), narrow_widen n (by decide)]
    obtain ⟨h1, h2⟩ := h
    cases p <;> simp_all

/-- A source whose pair flag has an even index is read back from its field. -/
theorem srcOf_enc (x : Src) (w : Bool) (h : x.ok w = true) : srcOf x.enc = ⟨x, true⟩ := by
  cases x with
  | reg r =>
    have hr : regOf r.enc = ⟨r, true⟩ := regOf_enc r w h
    have hk : (kindOf r.enc == 4) = false ∧ (kindOf r.enc == 5) = false := by
      cases r <;> simp [Reg.enc, kindOf_operand]
    simp only [srcOf, Src.enc, hr, hk.1, hk.2]
    rfl
  | special x p => simp [srcOf, Src.enc, kindOf_operand, indexOf_operand, pairOf_operand]
  | imm v => simp [srcOf, Src.enc, kindOf_operand, indexOf_operand, pairOf_operand]

@[simp] theorem predOf_enc (p : PReg) : predOf (predEnc p) = ⟨p, true⟩ := by
  have hp : p.toNat < 16 := p.isLt
  simp only [predOf, predEnc, kindOf_operand, pairOf_operand, indexOf_operand]
  rw [toNat_widen p (by decide), narrow_widen p (by decide)]
  simp [hp]

@[simp] theorem tileOf_enc (t : Tile) : tileOf (tileEnc t) = ⟨t, true⟩ := by
  have hp : t.toNat < 8 := t.isLt
  simp only [tileOf, tileEnc, kindOf_operand, pairOf_operand, indexOf_operand]
  rw [toNat_widen t (by decide), narrow_widen t (by decide)]
  simp [hp]

@[simp] theorem rowOf_enc (r : Row) : rowOf (rowEnc r) = ⟨r, true⟩ := by
  simp [rowOf, rowEnc, kindOf_operand, pairOf_operand, indexOf_operand]

@[simp] theorem gOf_enc (g : GReg) : gOf (gEnc g) = ⟨g, true⟩ := by
  have hp : g.toNat < 64 := g.isLt
  simp only [gOf, gEnc, kindOf_operand, pairOf_operand, indexOf_operand]
  rw [toNat_widen g (by decide), narrow_widen g (by decide)]
  simp [hp]

theorem tagOf_enc (t : Ty) (g : GReg) (h : t = .q4 ∨ g = 0) : tagOf (t == .q4) (tagEnc t g) = ⟨g, true⟩ := by
  have hp : g.toNat < 64 := g.isLt
  by_cases ht : t = .q4
  · subst ht
    simp only [tagOf, tagEnc, kindOf_operand, pairOf_operand, indexOf_operand]
    rw [toNat_widen g (by decide), narrow_widen g (by decide)]
    simp [hp]
  · have hg : g = 0 := by simpa [ht] using h
    simp [tagOf, ht, hg]

@[simp] theorem namesReg_enc (r : Reg) : namesReg r.enc = true := by
  cases r with
  | g n p =>
    have hn : n.toNat < 64 := n.isLt
    simp only [namesReg, Reg.enc, kindOf_operand, indexOf_operand]
    rw [toNat_widen n (by decide)]
    simp [hn]
  | s n p =>
    have hn : n.toNat < 32 := n.isLt
    simp only [namesReg, Reg.enc, kindOf_operand, indexOf_operand]
    rw [toNat_widen n (by decide)]
    simp [hn]

/-- Two registers with good pair flags are read back from their fields. -/
theorem regsApart_enc (d c : Reg) (v w : Bool) (hd : d.ok v = true) (hc : c.ok w = true) :
    regsApart d.enc c.enc = (⟨d, true⟩, ⟨c, true⟩) := by
  simp only [regsApart, namesReg_enc, if_true, regOf_enc d v hd, regOf_enc c w hc]

/-- A slot that is not used encodes as an unused source. -/
theorem srcIf_enc (u : Bool) (x : Src) (h : if u then x.ok false = true else x = Src.unused) :
    srcIf u x.enc = ⟨x, true⟩ := by
  cases u with
  | true => exact srcOf_enc x false h
  | false => simp at h; simp [srcIf, h]

/-! ## Words of fields -/

theorem extract_hi {n m : Nat} (x : BitVec n) (y : BitVec m) (s l : Nat) (h : m ≤ s) :
    (x ++ y).extractLsb' s l = x.extractLsb' (s - m) l := by
  apply BitVec.eq_of_getLsbD_eq
  intro i hi
  simp only [BitVec.getLsbD_extractLsb', BitVec.getLsbD_append]
  rw [if_neg (by omega), show s + i - m = s - m + i by omega]

theorem extract_lo {n m : Nat} (x : BitVec n) (y : BitVec m) (s l : Nat) (h : s + l ≤ m) :
    (x ++ y).extractLsb' s l = y.extractLsb' s l := by
  apply BitVec.eq_of_getLsbD_eq
  intro i hi
  simp only [BitVec.getLsbD_extractLsb', BitVec.getLsbD_append]
  rw [if_pos (by omega)]

theorem extract_all {n : Nat} (x : BitVec n) : x.extractLsb' 0 n = x := by simp

theorem bit_hi {n m : Nat} (x : BitVec n) (y : BitVec m) (i : Nat) (h : m ≤ i) :
    (x ++ y).getLsbD i = x.getLsbD (i - m) := by
  rw [BitVec.getLsbD_append, if_neg (by omega)]

theorem bit_lo {n m : Nat} (x : BitVec n) (y : BitVec m) (i : Nat) (h : i < m) :
    (x ++ y).getLsbD i = y.getLsbD i := by
  rw [BitVec.getLsbD_append, if_pos h]

theorem bit_ofBool (b : Bool) : (BitVec.ofBool b).getLsbD 0 = b := by cases b <;> rfl

theorem rejoin16 (c : BitVec 16) : c.extractLsb' 8 8 ++ c.extractLsb' 0 8 = c := by
  apply BitVec.eq_of_getLsbD_eq
  intro i hi
  simp only [BitVec.getLsbD_extractLsb', BitVec.getLsbD_append]
  by_cases h : i < 8
  · simp [h]
  · simp [h, show i - 8 < 8 by omega, show 8 + (i - 8) = i by omega]

theorem rejoin32 (c : BitVec 32) : c.extractLsb' 8 24 ++ c.extractLsb' 0 8 = c := by
  apply BitVec.eq_of_getLsbD_eq
  intro i hi
  simp only [BitVec.getLsbD_extractLsb', BitVec.getLsbD_append]
  by_cases h : i < 8
  · simp [h]
  · simp [h, show i - 8 < 24 by omega, show 8 + (i - 8) = i by omega]

theorem join16 {c : BitVec 16} {x y : BitVec 8} (hx : x = c.extractLsb' 8 8) (hy : y = c.extractLsb' 0 8) : x ++ y = c := by
  rw [hx, hy, rejoin16]

theorem join32 {c : BitVec 32} {x : BitVec 24} {y : BitVec 8} (hx : x = c.extractLsb' 8 24) (hy : y = c.extractLsb' 0 8) :
    x ++ y = c := by
  rw [hx, hy, rejoin32]

/-- The fields that a format lacks are zero. -/
def Fits (fmt : Fmt) (f : Fields) : Bool :=
  match fmt with
  | .x3 => f.c == 0 && f.imm == 0 && f.scope == 0 && f.mop == 0 && !f.tf && f.disp == 0 && f.nreg == 0 && f.cmd == 0
  | .x4 => f.imm == 0 && f.scope == 0 && f.mop == 0 && !f.tf && f.disp == 0 && f.nreg == 0 && f.cmd == 0 && f.ty2 == 0 &&
      !f.sat && f.sub == 0
  | .xi => f.b == 0 && f.c == 0 && f.scope == 0 && f.mop == 0 && !f.tf && f.disp == 0 && f.nreg == 0 && f.cmd == 0 &&
      f.ty2 == 0 && !f.sat && f.sub == 0
  | .m => f.c == 0 && f.imm == 0 && f.nreg == 0 && f.cmd == 0 && f.ty2 == 0 && !f.sat && f.sub == 0 && f.rnd == 0
  | .b => f.d == 0 && f.b == 0 && f.c == 0 && f.ty == 0 && f.ty2 == 0 && f.rnd == 0 && !f.sat && f.sub == 0 &&
      f.scope == 0 && f.mop == 0 && f.disp == 0 && f.cmd == 0
  | .e => f.ty == 0 && f.ty2 == 0 && f.rnd == 0 && !f.sat && f.sub == 0 && f.imm == 0 && f.scope == 0 && f.mop == 0 &&
      !f.tf && f.disp == 0 && f.nreg == 0

theorem unpack_pack (fmt : Fmt) (f : Fields) (h : Fits fmt f = true) : Fields.unpack fmt (f.pack fmt) = f := by
  obtain ⟨op, ⟨guard, neg, hints⟩, d, a, b, c, ty, ty2, rnd, sat, sub, imm, scope, mop, tf, disp, nreg, cmd⟩ := f
  cases fmt <;> simp only [Fits, Bool.and_eq_true, beq_iff_eq, Bool.not_eq_true'] at h <;>
    simp only [Fields.unpack, Fields.pack, frameBits, opcodeOf, hdrOf, splitC, Fields.mk.injEq, Hdr.mk.injEq, true_and, and_true, h] <;>
    repeat' apply And.intro
  all_goals first
    | rfl
    | (repeat rw [extract_hi _ _ _ _ (by decide)]
       rw [extract_lo _ _ _ _ (by decide)]
       exact extract_all _)
    | (repeat rw [bit_hi _ _ _ (by decide)]
       rw [bit_lo _ _ _ (by decide)]
       exact bit_ofBool _)
    | exact join16 (by
        repeat rw [extract_hi _ _ _ _ (by decide)]
        rw [extract_lo _ _ _ _ (by decide)]
        exact extract_all _) (by
        rw [extract_lo _ _ _ _ (by decide)]
        exact extract_all _)
    | exact join32 (by
        repeat rw [extract_hi _ _ _ _ (by decide)]
        rw [extract_lo _ _ _ _ (by decide)]
        exact extract_all _) (by
        rw [extract_lo _ _ _ _ (by decide)]
        exact extract_all _)

theorem pack_bit95 (fmt : Fmt) (f : Fields) : (f.pack fmt).getLsbD 95 = false := by
  cases fmt <;> simp only [Fields.pack, frameBits] <;>
    (repeat rw [bit_hi _ _ _ (by decide)]) <;> rfl

theorem op_unpack (fmt : Fmt) (w : BitVec 96) : (Fields.unpack fmt w).op = opcodeOf w := by cases fmt <;> rfl

end Sys2Proof.Laws
end

