-- ==== Sys2Proof/Laws/Memory.lean ====
section
/-! SUPPORT. Every operation that writes device or host memory keeps the canonical form `MemInv`. -/

namespace Sys2Proof.Laws

open Sys2Proof.Machine Sys2Proof.Safety

/-- Reset memory lists nothing. -/
theorem reset_mem_wf : Memory.wf State.reset.mem = true ∧ Memory.wf State.reset.hostMem = true := ⟨rfl, rfl⟩

/-- The form depends on the two memories alone. -/
theorem MemInv.of_eq {s u : State} (h : MemInv s) (hm : u.mem = s.mem) (hh : u.hostMem = s.hostMem) : MemInv u := by
  unfold MemInv; rw [hm, hh]; exact h

@[simp] theorem bumpCtr_mem (s : State) (p : Nat) : (s.bumpCtr p).mem = s.mem := rfl
@[simp] theorem bumpCtr_hostMem (s : State) (p : Nat) : (s.bumpCtr p).hostMem = s.hostMem := rfl

@[simp] theorem physWrite_mem (s : State) (p : Nat) (bs : List Byte) : (s.physWrite p bs).mem = Mem.write s.mem p bs := rfl
@[simp] theorem physWrite_hostMem (s : State) (p : Nat) (bs : List Byte) : (s.physWrite p bs).hostMem = s.hostMem := rfl

@[simp] theorem rekeyFrame_mem (s : State) (f : Nat) : (s.rekeyFrame f).mem = s.mem := rfl
@[simp] theorem rekeyFrame_hostMem (s : State) (f : Nat) : (s.rekeyFrame f).hostMem = s.hostMem := rfl

@[simp] theorem scrub_mem (s : State) (f : Nat) : (s.scrub f).mem = Mem.clear s.mem (f * 65536) 65536 := rfl
@[simp] theorem scrub_hostMem (s : State) (f : Nat) : (s.scrub f).hostMem = s.hostMem := rfl

theorem memInv_physWrite {s : State} (h : MemInv s) (p : Nat) (bs : List Byte) : MemInv (s.physWrite p bs) :=
  ⟨wf_write _ _ _ h.1, h.2⟩

theorem memInv_saveOut {s : State} (h : MemInv s) (v c off : Nat) (bs : List Byte) : MemInv (s.saveOut v c off bs) := by
  unfold State.saveOut
  generalize (List.range ((off % 256 + bs.length + 255) / 256)).map (off / 256 + ·) = l
  induction l generalizing s with
  | nil => exact h
  | cons i l ih => exact ih (memInv_physWrite h _ _)

/-- What the host stores keeps the form. -/
theorem memInv_hostStores {s : State} (h : MemInv s) (a : Nat) : MemInv (s.hostStores a) := by
  unfold State.hostStores
  generalize List.range 64 = l
  induction l generalizing s with
  | nil => exact h
  | cons i l ih =>
    rw [List.foldl_cons]
    refine ih ?_
    split
    · exact h
    · exact ⟨h.1, wf_write _ _ _ h.2⟩

theorem memInv_homeWrite {s : State} (h : MemInv s) (p : Nat) (e : Pte) (bs : List Byte) : MemInv (s.homeWrite p e bs) := by
  unfold State.homeWrite
  split
  · exact ⟨h.1, wf_write _ _ _ h.2⟩
  · exact memInv_physWrite h p bs

theorem memInv_scrub {s : State} (h : MemInv s) (f : Nat) : MemInv (s.scrub f) := ⟨wf_clear _ _ _ h.1, h.2⟩

theorem memInv_boot {s : State} (h : MemInv s) : MemInv s.boot := ⟨wf_filter _ _ h.1, h.2⟩

/-- A write through `homeWrite` leaves every byte outside the written ones alone. -/
theorem homeWrite_get_other (s : State) (p : Nat) (e : Pte) (bs : List Byte) (x : Nat) (h : x < p ∨ p + bs.length ≤ x) :
    Mem.get (s.homeWrite p e bs).mem x = Mem.get s.mem x ∧ Mem.get (s.homeWrite p e bs).hostMem x = Mem.get s.hostMem x := by
  unfold State.homeWrite
  split
  · exact ⟨rfl, mem_get_write_other _ _ _ _ h⟩
  · exact ⟨mem_get_write_other _ _ _ _ h, rfl⟩

end Sys2Proof.Laws
end

