-- ==== Sys2Proof/Laws/PerInstr.lean ====
section
/-! SUPPORT. Families of statements with one lemma per instruction. `Decodes`: the fields of a well-formed instruction fit
  its format and
build that instruction again; the round trip of decoder and encoder rests on it. -/

namespace Sys2Proof.Laws

/-- A well-formed instruction that has an encoding: its fields lack what its format lacks, and they build it again. -/
def Decodes.Statement (i : Instr) : Prop :=
  WellFormed i = true → ∀ f, i.toFields = some f →
    ∃ fmt r, formatOf f.op = some fmt ∧ Fits fmt f = true ∧ build f = some r ∧ r.i = i ∧ r.ok = true

/-! ## Fields of few bits -/

theorem red_wide (o : RedOp) : RedOp.ofCode ((o.code.setWidth 6).setWidth 3) = o := by cases o <;> rfl
theorem scan_op (o : RedOp) (e : Bool) : RedOp.ofCode ((0#2 ++ BitVec.ofBool e ++ o.code).setWidth 3) = o := by
  cases o <;> cases e <;> rfl
theorem scan_ex (o : RedOp) (e : Bool) : (0#2 ++ BitVec.ofBool e ++ o.code).getLsbD 3 = e := by
  cases o <;> cases e <;> rfl
theorem low_neg (x y : Bool) : (0#4 ++ BitVec.ofBool y ++ BitVec.ofBool x).getLsbD 0 = x := by cases x <;> cases y <;> rfl
theorem high_neg (x y : Bool) : (0#4 ++ BitVec.ofBool y ++ BitVec.ofBool x).getLsbD 1 = y := by cases x <;> cases y <;> rfl
theorem mask_wide (m : BitVec 4) : (m.setWidth 6).setWidth 4 = m := narrow_widen m (by decide)
theorem scope_wide (c : Scope) : Scope.ofCode (c.code.setWidth 6).toNat = some c := by cases c <;> rfl
theorem var_one (b : Bool) : (varOf b == 1) = b := by cases b <;> rfl
theorem sub_one (b : Bool) : ((if b then 1 else 0 : BitVec 6) == 1) = b := by cases b <;> rfl
theorem cmd_one (b : Bool) : ((if b then 1 else 0 : BitVec 7) == 1) = b := by cases b <;> rfl
theorem b64_wide (b : Bool) : ((if b then Ty.b64 else Ty.b32).code == Ty.b64.code) = b := by cases b <;> rfl

theorem band {a b : Bool} (h : (a && b) = true) : a = true ∧ b = true := by simpa using h

/-- A destination of `lpred` is read back from its field. -/
theorem vdstOf_enc {h : Hdr} {op : LpredOp} {d : VDst} {a : PReg} (hw : Instr.wf5 (.lpred h op d a) = true) :
    vdstOf d.enc = ⟨d, true⟩ := by
  cases d with
  | pred p =>
    have hk : (kindOf (predEnc p) == 3) = true := by simp [predEnc, kindOf_operand]
    simp only [vdstOf, VDst.enc, hk, predOf_enc, if_true]
  | reg r =>
    have hr : regOf r.enc = ⟨r, true⟩ := by
      cases op with
      | mask => exact regOf_enc r _ hw
      | count => exact regOf_enc r _ hw
      | first => exact regOf_enc r _ hw
      | every => exact absurd hw Bool.false_ne_true
      | some => exact absurd hw Bool.false_ne_true
      | same => exact absurd hw Bool.false_ne_true
    have hk : (kindOf r.enc == 3) = false := by cases r <;> simp [Reg.enc, kindOf_operand]
    simp only [vdstOf, VDst.enc, hk, hr]
    rfl

/-- The address of a spill is read back from its field. -/
theorem spillOf_enc {h : Hdr} {sp : Bool} {tok : GReg} {a : Tile} {b n : Src} (hw : Instr.wf5 (.spill h sp tok a b n) = true) :
    srcOf b.enc = ⟨b, true⟩ := by
  cases sp with
  | true => exact srcOf_enc b false (band hw).2
  | false =>
    cases b with
    | reg r => exact srcOf_enc (.reg r) true (band hw).2
    | special x p => exact absurd (band hw).2 Bool.false_ne_true
    | imm v => exact absurd (band hw).2 Bool.false_ne_true

theorem build_int {f : Fields} {t : Ty} {r : Built} (op : BitVec 9) (hop : f.op = op) (hk : (op.extractLsb' 6 3).toNat = 0)
  (ht : Ty.ofCode f.ty = some t)
    (hb : buildInt f t = some r) : build f = some r := by
  simp only [build, ht, hop, hk, hb]

theorem build_float {f : Fields} {t : Ty} {r : Built} (op : BitVec 9) (hop : f.op = op) (hk : (op.extractLsb' 6 3).toNat = 1)
  (ht : Ty.ofCode f.ty = some t)
    (hb : buildFloat f t = some r) : build f = some r := by
  simp only [build, ht, hop, hk, hb]

theorem build_cvt {f : Fields} {t : Ty} {r : Built} (op : BitVec 9) (hop : f.op = op) (hk : (op.extractLsb' 6 3).toNat = 2)
  (ht : Ty.ofCode f.ty = some t)
    (hb : buildCvt f t = some r) : build f = some r := by
  simp only [build, ht, hop, hk, hb]

theorem build_pred {f : Fields} {t : Ty} {r : Built} (op : BitVec 9) (hop : f.op = op) (hk : (op.extractLsb' 6 3).toNat = 3)
  (ht : Ty.ofCode f.ty = some t)
    (hb : buildPred f t = some r) : build f = some r := by
  simp only [build, ht, hop, hk, hb]

theorem build_mem {f : Fields} {t : Ty} {r : Built} (op : BitVec 9) (hop : f.op = op) (hk : (op.extractLsb' 6 3).toNat = 4)
  (ht : Ty.ofCode f.ty = some t)
    (hb : buildMem f t = some r) : build f = some r := by
  simp only [build, ht, hop, hk, hb]

theorem build_lane {f : Fields} {t : Ty} {r : Built} (op : BitVec 9) (hop : f.op = op) (hk : (op.extractLsb' 6 3).toNat = 5)
  (ht : Ty.ofCode f.ty = some t)
    (hb : buildLane f t = some r) : build f = some r := by
  simp only [build, ht, hop, hk, hb]

theorem build_eng {f : Fields} {t : Ty} {r : Built} (op : BitVec 9) (hop : f.op = op) (hk : (op.extractLsb' 6 3).toNat = 6)
  (ht : Ty.ofCode f.ty = some t)
    (hb : buildEng f = some r) : build f = some r := by
  simp only [build, ht, hop, hk, hb]

theorem build_sys {f : Fields} {t : Ty} {r : Built} (op : BitVec 9) (hop : f.op = op) (hk : (op.extractLsb' 6 3).toNat = 7)
  (ht : Ty.ofCode f.ty = some t)
    (hb : buildSys f = some r) : build f = some r := by
  simp only [build, ht, hop, hk, hb]

end Sys2Proof.Laws

section

open Sys2Proof Sys2Proof.Laws Sys2Proof.Laws.Decodes

theorem Sys2Proof.Laws.Decodes.shortParcel (n : BitVec 10) : Statement (.shortParcel n) := by
  intro _ f hf
  cases hf

theorem Sys2Proof.Laws.Decodes.add (h : Hdr) (ty : Ty) (d : Reg) (a : Src) (b : Src) : Statement (.add h ty d a b) := by
  intro hw f hf
  obtain rfl := Option.some.inj hf
  have h5 := (band hw).2
  have e_d := regOf_enc d _ (band (band h5).1).1
  have e_a := srcOf_enc a _ (band (band h5).1).2
  have e_b := srcOf_enc b _ (band h5).2
  refine ⟨.x3, _, rfl, rfl, build_int 0x000 rfl (by decide) (ofCode_ty _) rfl, ?_⟩
  simp only [Built.ok, bDab, f3, e_d, e_a, e_b, Bool.and_self, and_self]

theorem Sys2Proof.Laws.Decodes.addXi (h : Hdr) (ty : Ty) (d : Reg) (a : Src) (imm : Word) : Statement (.addXi h ty d a imm) := by
  intro hw f hf
  obtain rfl := Option.some.inj hf
  have h5 := (band hw).2
  have e_d := regOf_enc d _ (band h5).1
  have e_a := srcOf_enc a _ (band h5).2
  refine ⟨.xi, _, rfl, rfl, build_int 0x027 rfl (by decide) (ofCode_ty _) rfl, ?_⟩
  simp only [Built.ok, bDa, fi, e_d, e_a, Bool.and_self, and_self]

theorem Sys2Proof.Laws.Decodes.sub (h : Hdr) (ty : Ty) (d : Reg) (a : Src) (b : Src) : Statement (.sub h ty d a b) := by
  intro hw f hf
  obtain rfl := Option.some.inj hf
  have h5 := (band hw).2
  have e_d := regOf_enc d _ (band (band h5).1).1
  have e_a := srcOf_enc a _ (band (band h5).1).2
  have e_b := srcOf_enc b _ (band h5).2
  refine ⟨.x3, _, rfl, rfl, build_int 0x001 rfl (by decide) (ofCode_ty _) rfl, ?_⟩
  simp only [Built.ok, bDab, f3, e_d, e_a, e_b, Bool.and_self, and_self]

theorem Sys2Proof.Laws.Decodes.subXi (h : Hdr) (ty : Ty) (d : Reg) (a : Src) (imm : Word) : Statement (.subXi h ty d a imm) := by
  intro hw f hf
  obtain rfl := Option.some.inj hf
  have h5 := (band hw).2
  have e_d := regOf_enc d _ (band h5).1
  have e_a := srcOf_enc a _ (band h5).2
  refine ⟨.xi, _, rfl, rfl, build_int 0x028 rfl (by decide) (ofCode_ty _) rfl, ?_⟩
  simp only [Built.ok, bDa, fi, e_d, e_a, Bool.and_self, and_self]

theorem Sys2Proof.Laws.Decodes.addc (h : Hdr) (ty : Ty) (d : Reg) (a : Src) (b : Src) (pc : PReg) : Statement (.addc h ty d a
  b pc) := by
  intro hw f hf
  obtain rfl := Option.some.inj hf
  have h5 := (band hw).2
  have e_d := regOf_enc d _ (band (band h5).1).1
  have e_a := srcOf_enc a _ (band (band h5).1).2
  have e_b := srcOf_enc b _ (band h5).2
  refine ⟨.x4, _, rfl, rfl, build_int 0x002 rfl (by decide) (ofCode_ty _) rfl, ?_⟩
  simp only [Built.ok, bDabp, f4, predOf_enc, e_d, e_a, e_b, Bool.and_self, and_self]

theorem Sys2Proof.Laws.Decodes.subb (h : Hdr) (ty : Ty) (d : Reg) (a : Src) (b : Src) (pc : PReg) : Statement (.subb h ty d a
  b pc) := by
  intro hw f hf
  obtain rfl := Option.some.inj hf
  have h5 := (band hw).2
  have e_d := regOf_enc d _ (band (band h5).1).1
  have e_a := srcOf_enc a _ (band (band h5).1).2
  have e_b := srcOf_enc b _ (band h5).2
  refine ⟨.x4, _, rfl, rfl, build_int 0x003 rfl (by decide) (ofCode_ty _) rfl, ?_⟩
  simp only [Built.ok, bDabp, f4, predOf_enc, e_d, e_a, e_b, Bool.and_self, and_self]

theorem Sys2Proof.Laws.Decodes.iadd3 (h : Hdr) (ty : Ty) (d : Reg) (a : Src) (b : Src) (c : Src) : Statement (.iadd3 h ty d a
  b c) := by
  intro hw f hf
  obtain rfl := Option.some.inj hf
  have h5 := (band hw).2
  have e_d := regOf_enc d _ (band (band (band h5).1).1).1
  have e_a := srcOf_enc a _ (band (band (band h5).1).1).2
  have e_b := srcOf_enc b _ (band (band h5).1).2
  have e_c := srcOf_enc c _ (band h5).2
  refine ⟨.x4, _, rfl, rfl, build_int 0x004 rfl (by decide) (ofCode_ty _) rfl, ?_⟩
  simp only [Built.ok, bDabc, f4, e_d, e_a, e_b, e_c, Bool.and_self, and_self]

theorem Sys2Proof.Laws.Decodes.mulLo (h : Hdr) (ty : Ty) (d : Reg) (a : Src) (b : Src) : Statement (.mulLo h ty d a b) := by
  intro hw f hf
  obtain rfl := Option.some.inj hf
  have h5 := (band hw).2
  have e_d := regOf_enc d _ (band (band h5).1).1
  have e_a := srcOf_enc a _ (band (band h5).1).2
  have e_b := srcOf_enc b _ (band h5).2
  refine ⟨.x3, _, rfl, rfl, build_int 0x005 rfl (by decide) (ofCode_ty _) rfl, ?_⟩
  simp only [Built.ok, bDab, f3, e_d, e_a, e_b, Bool.and_self, and_self]

theorem Sys2Proof.Laws.Decodes.mulLoXi (h : Hdr) (ty : Ty) (d : Reg) (a : Src) (imm : Word) : Statement (.mulLoXi h ty d a
  imm) := by
  intro hw f hf
  obtain rfl := Option.some.inj hf
  have h5 := (band hw).2
  have e_d := regOf_enc d _ (band h5).1
  have e_a := srcOf_enc a _ (band h5).2
  refine ⟨.xi, _, rfl, rfl, build_int 0x029 rfl (by decide) (ofCode_ty _) rfl, ?_⟩
  simp only [Built.ok, bDa, fi, e_d, e_a, Bool.and_self, and_self]

theorem Sys2Proof.Laws.Decodes.mulHi (h : Hdr) (ty : Ty) (d : Reg) (a : Src) (b : Src) : Statement (.mulHi h ty d a b) := by
  intro hw f hf
  obtain rfl := Option.some.inj hf
  have h5 := (band hw).2
  have e_d := regOf_enc d _ (band (band h5).1).1
  have e_a := srcOf_enc a _ (band (band h5).1).2
  have e_b := srcOf_enc b _ (band h5).2
  refine ⟨.x3, _, rfl, rfl, build_int 0x006 rfl (by decide) (ofCode_ty _) rfl, ?_⟩
  simp only [Built.ok, bDab, f3, e_d, e_a, e_b, Bool.and_self, and_self]

theorem Sys2Proof.Laws.Decodes.mulWide (h : Hdr) (ty : Ty) (d : Reg) (a : Src) (b : Src) : Statement (.mulWide h ty d a b) := by
  intro hw f hf
  obtain rfl := Option.some.inj hf
  have h5 := (band hw).2
  have e_d := regOf_enc d _ (band (band h5).1).1
  have e_a := srcOf_enc a _ (band (band h5).1).2
  have e_b := srcOf_enc b _ (band h5).2
  refine ⟨.x3, _, rfl, rfl, build_int 0x007 rfl (by decide) (ofCode_ty _) rfl, ?_⟩
  simp only [Built.ok, bDab, f3, e_d, e_a, e_b, Bool.and_self, and_self]

theorem Sys2Proof.Laws.Decodes.madLo (h : Hdr) (ty : Ty) (d : Reg) (a : Src) (b : Src) (c : Src) : Statement (.madLo h ty d a
  b c) := by
  intro hw f hf
  obtain rfl := Option.some.inj hf
  have h5 := (band hw).2
  have e_d := regOf_enc d _ (band (band (band h5).1).1).1
  have e_a := srcOf_enc a _ (band (band (band h5).1).1).2
  have e_b := srcOf_enc b _ (band (band h5).1).2
  have e_c := srcOf_enc c _ (band h5).2
  refine ⟨.x4, _, rfl, rfl, build_int 0x008 rfl (by decide) (ofCode_ty _) rfl, ?_⟩
  simp only [Built.ok, bDabc, f4, e_d, e_a, e_b, e_c, Bool.and_self, and_self]

theorem Sys2Proof.Laws.Decodes.madHi (h : Hdr) (ty : Ty) (d : Reg) (a : Src) (b : Src) (c : Src) : Statement (.madHi h ty d a
  b c) := by
  intro hw f hf
  obtain rfl := Option.some.inj hf
  have h5 := (band hw).2
  have e_d := regOf_enc d _ (band (band (band h5).1).1).1
  have e_a := srcOf_enc a _ (band (band (band h5).1).1).2
  have e_b := srcOf_enc b _ (band (band h5).1).2
  have e_c := srcOf_enc c _ (band h5).2
  refine ⟨.x4, _, rfl, rfl, build_int 0x009 rfl (by decide) (ofCode_ty _) rfl, ?_⟩
  simp only [Built.ok, bDabc, f4, e_d, e_a, e_b, e_c, Bool.and_self, and_self]

theorem Sys2Proof.Laws.Decodes.madWide (h : Hdr) (ty : Ty) (d : Reg) (a : Src) (b : Src) (c : Src) : Statement (.madWide h ty
  d a b c) := by
  intro hw f hf
  obtain rfl := Option.some.inj hf
  have h5 := (band hw).2
  have e_d := regOf_enc d _ (band (band (band h5).1).1).1
  have e_a := srcOf_enc a _ (band (band (band h5).1).1).2
  have e_b := srcOf_enc b _ (band (band h5).1).2
  have e_c := srcOf_enc c _ (band h5).2
  refine ⟨.x4, _, rfl, rfl, build_int 0x00A rfl (by decide) (ofCode_ty _) rfl, ?_⟩
  simp only [Built.ok, bDabc, f4, e_d, e_a, e_b, e_c, Bool.and_self, and_self]

theorem Sys2Proof.Laws.Decodes.div (h : Hdr) (ty : Ty) (d : Reg) (a : Src) (b : Src) : Statement (.div h ty d a b) := by
  intro hw f hf
  obtain rfl := Option.some.inj hf
  have h5 := (band hw).2
  have e_d := regOf_enc d _ (band (band h5).1).1
  have e_a := srcOf_enc a _ (band (band h5).1).2
  have e_b := srcOf_enc b _ (band h5).2
  refine ⟨.x3, _, rfl, rfl, build_int 0x00B rfl (by decide) (ofCode_ty _) rfl, ?_⟩
  simp only [Built.ok, bDab, f3, e_d, e_a, e_b, Bool.and_self, and_self]

theorem Sys2Proof.Laws.Decodes.rem (h : Hdr) (ty : Ty) (d : Reg) (a : Src) (b : Src) : Statement (.rem h ty d a b) := by
  intro hw f hf
  obtain rfl := Option.some.inj hf
  have h5 := (band hw).2
  have e_d := regOf_enc d _ (band (band h5).1).1
  have e_a := srcOf_enc a _ (band (band h5).1).2
  have e_b := srcOf_enc b _ (band h5).2
  refine ⟨.x3, _, rfl, rfl, build_int 0x00C rfl (by decide) (ofCode_ty _) rfl, ?_⟩
  simp only [Built.ok, bDab, f3, e_d, e_a, e_b, Bool.and_self, and_self]

theorem Sys2Proof.Laws.Decodes.min (h : Hdr) (ty : Ty) (d : Reg) (a : Src) (b : Src) : Statement (.min h ty d a b) := by
  intro hw f hf
  obtain rfl := Option.some.inj hf
  have h5 := (band hw).2
  have e_d := regOf_enc d _ (band (band h5).1).1
  have e_a := srcOf_enc a _ (band (band h5).1).2
  have e_b := srcOf_enc b _ (band h5).2
  refine ⟨.x3, _, rfl, rfl, build_int 0x00D rfl (by decide) (ofCode_ty _) rfl, ?_⟩
  simp only [Built.ok, bDab, f3, e_d, e_a, e_b, Bool.and_self, and_self]

theorem Sys2Proof.Laws.Decodes.minXi (h : Hdr) (ty : Ty) (d : Reg) (a : Src) (imm : Word) : Statement (.minXi h ty d a imm) := by
  intro hw f hf
  obtain rfl := Option.some.inj hf
  have h5 := (band hw).2
  have e_d := regOf_enc d _ (band h5).1
  have e_a := srcOf_enc a _ (band h5).2
  refine ⟨.xi, _, rfl, rfl, build_int 0x02D rfl (by decide) (ofCode_ty _) rfl, ?_⟩
  simp only [Built.ok, bDa, fi, e_d, e_a, Bool.and_self, and_self]

theorem Sys2Proof.Laws.Decodes.max (h : Hdr) (ty : Ty) (d : Reg) (a : Src) (b : Src) : Statement (.max h ty d a b) := by
  intro hw f hf
  obtain rfl := Option.some.inj hf
  have h5 := (band hw).2
  have e_d := regOf_enc d _ (band (band h5).1).1
  have e_a := srcOf_enc a _ (band (band h5).1).2
  have e_b := srcOf_enc b _ (band h5).2
  refine ⟨.x3, _, rfl, rfl, build_int 0x00E rfl (by decide) (ofCode_ty _) rfl, ?_⟩
  simp only [Built.ok, bDab, f3, e_d, e_a, e_b, Bool.and_self, and_self]

theorem Sys2Proof.Laws.Decodes.maxXi (h : Hdr) (ty : Ty) (d : Reg) (a : Src) (imm : Word) : Statement (.maxXi h ty d a imm) := by
  intro hw f hf
  obtain rfl := Option.some.inj hf
  have h5 := (band hw).2
  have e_d := regOf_enc d _ (band h5).1
  have e_a := srcOf_enc a _ (band h5).2
  refine ⟨.xi, _, rfl, rfl, build_int 0x02E rfl (by decide) (ofCode_ty _) rfl, ?_⟩
  simp only [Built.ok, bDa, fi, e_d, e_a, Bool.and_self, and_self]

theorem Sys2Proof.Laws.Decodes.abs (h : Hdr) (ty : Ty) (d : Reg) (a : Src) : Statement (.abs h ty d a) := by
  intro hw f hf
  obtain rfl := Option.some.inj hf
  have h5 := (band hw).2
  have e_d := regOf_enc d _ (band h5).1
  have e_a := srcOf_enc a _ (band h5).2
  refine ⟨.x3, _, rfl, rfl, build_int 0x00F rfl (by decide) (ofCode_ty _) rfl, ?_⟩
  simp only [Built.ok, bDa, f3, e_d, e_a, Bool.and_self, and_self]

theorem Sys2Proof.Laws.Decodes.neg (h : Hdr) (ty : Ty) (d : Reg) (a : Src) : Statement (.neg h ty d a) := by
  intro hw f hf
  obtain rfl := Option.some.inj hf
  have h5 := (band hw).2
  have e_d := regOf_enc d _ (band h5).1
  have e_a := srcOf_enc a _ (band h5).2
  refine ⟨.x3, _, rfl, rfl, build_int 0x010 rfl (by decide) (ofCode_ty _) rfl, ?_⟩
  simp only [Built.ok, bDa, f3, e_d, e_a, Bool.and_self, and_self]

theorem Sys2Proof.Laws.Decodes.saddSat (h : Hdr) (ty : Ty) (d : Reg) (a : Src) (b : Src) : Statement (.saddSat h ty d a b) := by
  intro hw f hf
  obtain rfl := Option.some.inj hf
  have h5 := (band hw).2
  have e_d := regOf_enc d _ (band (band h5).1).1
  have e_a := srcOf_enc a _ (band (band h5).1).2
  have e_b := srcOf_enc b _ (band h5).2
  refine ⟨.x3, _, rfl, rfl, build_int 0x011 rfl (by decide) (ofCode_ty _) rfl, ?_⟩
  simp only [Built.ok, bDab, f3, e_d, e_a, e_b, Bool.and_self, and_self]

theorem Sys2Proof.Laws.Decodes.ssubSat (h : Hdr) (ty : Ty) (d : Reg) (a : Src) (b : Src) : Statement (.ssubSat h ty d a b) := by
  intro hw f hf
  obtain rfl := Option.some.inj hf
  have h5 := (band hw).2
  have e_d := regOf_enc d _ (band (band h5).1).1
  have e_a := srcOf_enc a _ (band (band h5).1).2
  have e_b := srcOf_enc b _ (band h5).2
  refine ⟨.x3, _, rfl, rfl, build_int 0x012 rfl (by decide) (ofCode_ty _) rfl, ?_⟩
  simp only [Built.ok, bDab, f3, e_d, e_a, e_b, Bool.and_self, and_self]

theorem Sys2Proof.Laws.Decodes.and (h : Hdr) (ty : Ty) (d : Reg) (a : Src) (b : Src) : Statement (.and h ty d a b) := by
  intro hw f hf
  obtain rfl := Option.some.inj hf
  have h5 := (band hw).2
  have e_d := regOf_enc d _ (band (band h5).1).1
  have e_a := srcOf_enc a _ (band (band h5).1).2
  have e_b := srcOf_enc b _ (band h5).2
  refine ⟨.x3, _, rfl, rfl, build_int 0x013 rfl (by decide) (ofCode_ty _) rfl, ?_⟩
  simp only [Built.ok, bDab, f3, e_d, e_a, e_b, Bool.and_self, and_self]

theorem Sys2Proof.Laws.Decodes.andXi (h : Hdr) (ty : Ty) (d : Reg) (a : Src) (imm : Word) : Statement (.andXi h ty d a imm) := by
  intro hw f hf
  obtain rfl := Option.some.inj hf
  have h5 := (band hw).2
  have e_d := regOf_enc d _ (band h5).1
  have e_a := srcOf_enc a _ (band h5).2
  refine ⟨.xi, _, rfl, rfl, build_int 0x02A rfl (by decide) (ofCode_ty _) rfl, ?_⟩
  simp only [Built.ok, bDa, fi, e_d, e_a, Bool.and_self, and_self]

theorem Sys2Proof.Laws.Decodes.or (h : Hdr) (ty : Ty) (d : Reg) (a : Src) (b : Src) : Statement (.or h ty d a b) := by
  intro hw f hf
  obtain rfl := Option.some.inj hf
  have h5 := (band hw).2
  have e_d := regOf_enc d _ (band (band h5).1).1
  have e_a := srcOf_enc a _ (band (band h5).1).2
  have e_b := srcOf_enc b _ (band h5).2
  refine ⟨.x3, _, rfl, rfl, build_int 0x014 rfl (by decide) (ofCode_ty _) rfl, ?_⟩
  simp only [Built.ok, bDab, f3, e_d, e_a, e_b, Bool.and_self, and_self]

theorem Sys2Proof.Laws.Decodes.orXi (h : Hdr) (ty : Ty) (d : Reg) (a : Src) (imm : Word) : Statement (.orXi h ty d a imm) := by
  intro hw f hf
  obtain rfl := Option.some.inj hf
  have h5 := (band hw).2
  have e_d := regOf_enc d _ (band h5).1
  have e_a := srcOf_enc a _ (band h5).2
  refine ⟨.xi, _, rfl, rfl, build_int 0x02B rfl (by decide) (ofCode_ty _) rfl, ?_⟩
  simp only [Built.ok, bDa, fi, e_d, e_a, Bool.and_self, and_self]

theorem Sys2Proof.Laws.Decodes.xor (h : Hdr) (ty : Ty) (d : Reg) (a : Src) (b : Src) : Statement (.xor h ty d a b) := by
  intro hw f hf
  obtain rfl := Option.some.inj hf
  have h5 := (band hw).2
  have e_d := regOf_enc d _ (band (band h5).1).1
  have e_a := srcOf_enc a _ (band (band h5).1).2
  have e_b := srcOf_enc b _ (band h5).2
  refine ⟨.x3, _, rfl, rfl, build_int 0x015 rfl (by decide) (ofCode_ty _) rfl, ?_⟩
  simp only [Built.ok, bDab, f3, e_d, e_a, e_b, Bool.and_self, and_self]

theorem Sys2Proof.Laws.Decodes.xorXi (h : Hdr) (ty : Ty) (d : Reg) (a : Src) (imm : Word) : Statement (.xorXi h ty d a imm) := by
  intro hw f hf
  obtain rfl := Option.some.inj hf
  have h5 := (band hw).2
  have e_d := regOf_enc d _ (band h5).1
  have e_a := srcOf_enc a _ (band h5).2
  refine ⟨.xi, _, rfl, rfl, build_int 0x02C rfl (by decide) (ofCode_ty _) rfl, ?_⟩
  simp only [Built.ok, bDa, fi, e_d, e_a, Bool.and_self, and_self]

theorem Sys2Proof.Laws.Decodes.not (h : Hdr) (ty : Ty) (d : Reg) (a : Src) : Statement (.not h ty d a) := by
  intro hw f hf
  obtain rfl := Option.some.inj hf
  have h5 := (band hw).2
  have e_d := regOf_enc d _ (band h5).1
  have e_a := srcOf_enc a _ (band h5).2
  refine ⟨.x3, _, rfl, rfl, build_int 0x016 rfl (by decide) (ofCode_ty _) rfl, ?_⟩
  simp only [Built.ok, bDa, f3, e_d, e_a, Bool.and_self, and_self]

theorem Sys2Proof.Laws.Decodes.andn (h : Hdr) (ty : Ty) (d : Reg) (a : Src) (b : Src) : Statement (.andn h ty d a b) := by
  intro hw f hf
  obtain rfl := Option.some.inj hf
  have h5 := (band hw).2
  have e_d := regOf_enc d _ (band (band h5).1).1
  have e_a := srcOf_enc a _ (band (band h5).1).2
  have e_b := srcOf_enc b _ (band h5).2
  refine ⟨.x3, _, rfl, rfl, build_int 0x017 rfl (by decide) (ofCode_ty _) rfl, ?_⟩
  simp only [Built.ok, bDab, f3, e_d, e_a, e_b, Bool.and_self, and_self]

theorem Sys2Proof.Laws.Decodes.shl (h : Hdr) (ty : Ty) (d : Reg) (a : Src) (b : Src) : Statement (.shl h ty d a b) := by
  intro hw f hf
  obtain rfl := Option.some.inj hf
  have h5 := (band hw).2
  have e_d := regOf_enc d _ (band (band h5).1).1
  have e_a := srcOf_enc a _ (band (band h5).1).2
  have e_b := srcOf_enc b _ (band h5).2
  refine ⟨.x3, _, rfl, rfl, build_int 0x018 rfl (by decide) (ofCode_ty _) rfl, ?_⟩
  simp only [Built.ok, bDab, f3, e_d, e_a, e_b, Bool.and_self, and_self]

theorem Sys2Proof.Laws.Decodes.shr (h : Hdr) (ty : Ty) (d : Reg) (a : Src) (b : Src) : Statement (.shr h ty d a b) := by
  intro hw f hf
  obtain rfl := Option.some.inj hf
  have h5 := (band hw).2
  have e_d := regOf_enc d _ (band (band h5).1).1
  have e_a := srcOf_enc a _ (band (band h5).1).2
  have e_b := srcOf_enc b _ (band h5).2
  refine ⟨.x3, _, rfl, rfl, build_int 0x019 rfl (by decide) (ofCode_ty _) rfl, ?_⟩
  simp only [Built.ok, bDab, f3, e_d, e_a, e_b, Bool.and_self, and_self]

theorem Sys2Proof.Laws.Decodes.sar (h : Hdr) (ty : Ty) (d : Reg) (a : Src) (b : Src) : Statement (.sar h ty d a b) := by
  intro hw f hf
  obtain rfl := Option.some.inj hf
  have h5 := (band hw).2
  have e_d := regOf_enc d _ (band (band h5).1).1
  have e_a := srcOf_enc a _ (band (band h5).1).2
  have e_b := srcOf_enc b _ (band h5).2
  refine ⟨.x3, _, rfl, rfl, build_int 0x01A rfl (by decide) (ofCode_ty _) rfl, ?_⟩
  simp only [Built.ok, bDab, f3, e_d, e_a, e_b, Bool.and_self, and_self]

theorem Sys2Proof.Laws.Decodes.rol (h : Hdr) (ty : Ty) (d : Reg) (a : Src) (b : Src) : Statement (.rol h ty d a b) := by
  intro hw f hf
  obtain rfl := Option.some.inj hf
  have h5 := (band hw).2
  have e_d := regOf_enc d _ (band (band h5).1).1
  have e_a := srcOf_enc a _ (band (band h5).1).2
  have e_b := srcOf_enc b _ (band h5).2
  refine ⟨.x3, _, rfl, rfl, build_int 0x01B rfl (by decide) (ofCode_ty _) rfl, ?_⟩
  simp only [Built.ok, bDab, f3, e_d, e_a, e_b, Bool.and_self, and_self]

theorem Sys2Proof.Laws.Decodes.ror (h : Hdr) (ty : Ty) (d : Reg) (a : Src) (b : Src) : Statement (.ror h ty d a b) := by
  intro hw f hf
  obtain rfl := Option.some.inj hf
  have h5 := (band hw).2
  have e_d := regOf_enc d _ (band (band h5).1).1
  have e_a := srcOf_enc a _ (band (band h5).1).2
  have e_b := srcOf_enc b _ (band h5).2
  refine ⟨.x3, _, rfl, rfl, build_int 0x01C rfl (by decide) (ofCode_ty _) rfl, ?_⟩
  simp only [Built.ok, bDab, f3, e_d, e_a, e_b, Bool.and_self, and_self]

theorem Sys2Proof.Laws.Decodes.bfe (h : Hdr) (ty : Ty) (d : Reg) (a : Src) (b : Src) : Statement (.bfe h ty d a b) := by
  intro hw f hf
  obtain rfl := Option.some.inj hf
  have h5 := (band hw).2
  have e_d := regOf_enc d _ (band (band h5).1).1
  have e_a := srcOf_enc a _ (band (band h5).1).2
  have e_b := srcOf_enc b _ (band h5).2
  refine ⟨.x4, _, rfl, rfl, build_int 0x01D rfl (by decide) (ofCode_ty _) rfl, ?_⟩
  simp only [Built.ok, bDab, f4, e_d, e_a, e_b, Bool.and_self, and_self]

theorem Sys2Proof.Laws.Decodes.bfi (h : Hdr) (ty : Ty) (d : Reg) (a : Src) (b : Src) (c : Src) : Statement (.bfi h ty d a b
  c) := by
  intro hw f hf
  obtain rfl := Option.some.inj hf
  have h5 := (band hw).2
  have e_d := regOf_enc d _ (band (band (band h5).1).1).1
  have e_a := srcOf_enc a _ (band (band (band h5).1).1).2
  have e_b := srcOf_enc b _ (band (band h5).1).2
  have e_c := srcOf_enc c _ (band h5).2
  refine ⟨.x4, _, rfl, rfl, build_int 0x01E rfl (by decide) (ofCode_ty _) rfl, ?_⟩
  simp only [Built.ok, bDabc, f4, e_d, e_a, e_b, e_c, Bool.and_self, and_self]

theorem Sys2Proof.Laws.Decodes.bfrev (h : Hdr) (ty : Ty) (d : Reg) (a : Src) : Statement (.bfrev h ty d a) := by
  intro hw f hf
  obtain rfl := Option.some.inj hf
  have h5 := (band hw).2
  have e_d := regOf_enc d _ (band h5).1
  have e_a := srcOf_enc a _ (band h5).2
  refine ⟨.x3, _, rfl, rfl, build_int 0x01F rfl (by decide) (ofCode_ty _) rfl, ?_⟩
  simp only [Built.ok, bDa, f3, e_d, e_a, Bool.and_self, and_self]

theorem Sys2Proof.Laws.Decodes.popc (h : Hdr) (ty : Ty) (d : Reg) (a : Src) : Statement (.popc h ty d a) := by
  intro hw f hf
  obtain rfl := Option.some.inj hf
  have h5 := (band hw).2
  have e_d := regOf_enc d _ (band h5).1
  have e_a := srcOf_enc a _ (band h5).2
  refine ⟨.x3, _, rfl, rfl, build_int 0x020 rfl (by decide) (ofCode_ty _) rfl, ?_⟩
  simp only [Built.ok, bDa, f3, e_d, e_a, Bool.and_self, and_self]

theorem Sys2Proof.Laws.Decodes.clz (h : Hdr) (ty : Ty) (d : Reg) (a : Src) : Statement (.clz h ty d a) := by
  intro hw f hf
  obtain rfl := Option.some.inj hf
  have h5 := (band hw).2
  have e_d := regOf_enc d _ (band h5).1
  have e_a := srcOf_enc a _ (band h5).2
  refine ⟨.x3, _, rfl, rfl, build_int 0x021 rfl (by decide) (ofCode_ty _) rfl, ?_⟩
  simp only [Built.ok, bDa, f3, e_d, e_a, Bool.and_self, and_self]

theorem Sys2Proof.Laws.Decodes.ctz (h : Hdr) (ty : Ty) (d : Reg) (a : Src) : Statement (.ctz h ty d a) := by
  intro hw f hf
  obtain rfl := Option.some.inj hf
  have h5 := (band hw).2
  have e_d := regOf_enc d _ (band h5).1
  have e_a := srcOf_enc a _ (band h5).2
  refine ⟨.x3, _, rfl, rfl, build_int 0x022 rfl (by decide) (ofCode_ty _) rfl, ?_⟩
  simp only [Built.ok, bDa, f3, e_d, e_a, Bool.and_self, and_self]

theorem Sys2Proof.Laws.Decodes.lea (h : Hdr) (ty : Ty) (d : Reg) (a : Src) (b : Src) (c : Src) : Statement (.lea h ty d a b
  c) := by
  intro hw f hf
  obtain rfl := Option.some.inj hf
  have h5 := (band hw).2
  have e_d := regOf_enc d _ (band (band (band h5).1).1).1
  have e_a := srcOf_enc a _ (band (band (band h5).1).1).2
  have e_b := srcOf_enc b _ (band (band h5).1).2
  have e_c := srcOf_enc c _ (band h5).2
  refine ⟨.x4, _, rfl, rfl, build_int 0x023 rfl (by decide) (ofCode_ty _) rfl, ?_⟩
  simp only [Built.ok, bDabc, f4, e_d, e_a, e_b, e_c, Bool.and_self, and_self]

theorem Sys2Proof.Laws.Decodes.mov (h : Hdr) (d : Reg) (a : Src) : Statement (.mov h d a) := by
  intro hw f hf
  obtain rfl := Option.some.inj hf
  have h5 := (band hw).2
  have e_d := regOf_enc d _ (band h5).1
  have e_a := srcOf_enc a _ (band h5).2
  refine ⟨.x3, _, rfl, rfl, build_int 0x024 rfl (by decide) rfl rfl, ?_⟩
  simp only [Built.ok, bDa, f3, e_d, e_a, Bool.and_self, and_self]

theorem Sys2Proof.Laws.Decodes.movi (h : Hdr) (d : Reg) (imm : Word) : Statement (.movi h d imm) := by
  intro hw f hf
  obtain rfl := Option.some.inj hf
  have h5 := (band hw).2
  have e_d := regOf_enc d _ h5
  refine ⟨.xi, _, rfl, rfl, build_int 0x026 rfl (by decide) rfl rfl, ?_⟩
  simp only [Built.ok, fi, e_d, Bool.and_self, and_self]

theorem Sys2Proof.Laws.Decodes.sel (h : Hdr) (d : Reg) (a : Src) (b : Src) (pc : PReg) : Statement (.sel h d a b pc) := by
  intro hw f hf
  obtain rfl := Option.some.inj hf
  have h5 := (band hw).2
  have e_d := regOf_enc d _ (band (band h5).1).1
  have e_a := srcOf_enc a _ (band (band h5).1).2
  have e_b := srcOf_enc b _ (band h5).2
  refine ⟨.x4, _, rfl, rfl, build_int 0x025 rfl (by decide) rfl rfl, ?_⟩
  simp only [Built.ok, bDabp, f4, predOf_enc, e_d, e_a, e_b, Bool.and_self, and_self]

theorem Sys2Proof.Laws.Decodes.fadd (h : Hdr) (ty : Ty) (m : Rnd) (d : Reg) (a : Src) (b : Src) : Statement (.fadd h ty m d a
  b) := by
  intro hw f hf
  obtain rfl := Option.some.inj hf
  have h5 := (band hw).2
  have e_d := regOf_enc d _ (band (band h5).1).1
  have e_a := srcOf_enc a _ (band (band h5).1).2
  have e_b := srcOf_enc b _ (band h5).2
  refine ⟨.x3, _, rfl, rfl, build_float 0x040 rfl (by decide) (ofCode_ty _) rfl, ?_⟩
  simp only [Built.ok, bDab, f3r, ofCode_rnd, e_d, e_a, e_b, Bool.and_self, and_self]

theorem Sys2Proof.Laws.Decodes.faddXi (h : Hdr) (ty : Ty) (m : Rnd) (d : Reg) (a : Src) (imm : Word) : Statement (.faddXi h
  ty m d a imm) := by
  intro hw f hf
  obtain rfl := Option.some.inj hf
  have h5 := (band hw).2
  have e_d := regOf_enc d _ (band h5).1
  have e_a := srcOf_enc a _ (band h5).2
  refine ⟨.xi, _, rfl, rfl, build_float 0x058 rfl (by decide) (ofCode_ty _) rfl, ?_⟩
  simp only [Built.ok, bDa, fi, ofCode_rnd, e_d, e_a, Bool.and_self, and_self]

theorem Sys2Proof.Laws.Decodes.fsub (h : Hdr) (m : Rnd) (d : Reg) (a : Src) (b : Src) : Statement (.fsub h m d a b) := by
  intro hw f hf
  obtain rfl := Option.some.inj hf
  have h5 := (band hw).2
  have e_d := regOf_enc d _ (band (band h5).1).1
  have e_a := srcOf_enc a _ (band (band h5).1).2
  have e_b := srcOf_enc b _ (band h5).2
  refine ⟨.x3, _, rfl, rfl, build_float 0x041 rfl (by decide) rfl rfl, ?_⟩
  simp only [Built.ok, bDab, f3r, ofCode_rnd, e_d, e_a, e_b, Bool.and_self, and_self]

theorem Sys2Proof.Laws.Decodes.fmul (h : Hdr) (ty : Ty) (m : Rnd) (d : Reg) (a : Src) (b : Src) : Statement (.fmul h ty m d a
  b) := by
  intro hw f hf
  obtain rfl := Option.some.inj hf
  have h5 := (band hw).2
  have e_d := regOf_enc d _ (band (band h5).1).1
  have e_a := srcOf_enc a _ (band (band h5).1).2
  have e_b := srcOf_enc b _ (band h5).2
  refine ⟨.x3, _, rfl, rfl, build_float 0x042 rfl (by decide) (ofCode_ty _) rfl, ?_⟩
  simp only [Built.ok, bDab, f3r, ofCode_rnd, e_d, e_a, e_b, Bool.and_self, and_self]

theorem Sys2Proof.Laws.Decodes.fmulXi (h : Hdr) (ty : Ty) (m : Rnd) (d : Reg) (a : Src) (imm : Word) : Statement (.fmulXi h
  ty m d a imm) := by
  intro hw f hf
  obtain rfl := Option.some.inj hf
  have h5 := (band hw).2
  have e_d := regOf_enc d _ (band h5).1
  have e_a := srcOf_enc a _ (band h5).2
  refine ⟨.xi, _, rfl, rfl, build_float 0x059 rfl (by decide) (ofCode_ty _) rfl, ?_⟩
  simp only [Built.ok, bDa, fi, ofCode_rnd, e_d, e_a, Bool.and_self, and_self]

theorem Sys2Proof.Laws.Decodes.ffma (h : Hdr) (ty : Ty) (m : Rnd) (d : Reg) (a : Src) (b : Src) (c : Src) : Statement (.ffma
  h ty m d a b c) := by
  intro hw f hf
  obtain rfl := Option.some.inj hf
  have h5 := (band hw).2
  have e_d := regOf_enc d _ (band (band (band h5).1).1).1
  have e_a := srcOf_enc a _ (band (band (band h5).1).1).2
  have e_b := srcOf_enc b _ (band (band h5).1).2
  have e_c := srcOf_enc c _ (band h5).2
  refine ⟨.x4, _, rfl, rfl, build_float 0x043 rfl (by decide) (ofCode_ty _) rfl, ?_⟩
  simp only [Built.ok, bDabc, f4, ofCode_rnd, e_d, e_a, e_b, e_c, Bool.and_self, and_self]

theorem Sys2Proof.Laws.Decodes.fmin (h : Hdr) (ty : Ty) (d : Reg) (a : Src) (b : Src) : Statement (.fmin h ty d a b) := by
  intro hw f hf
  obtain rfl := Option.some.inj hf
  have h5 := (band hw).2
  have e_d := regOf_enc d _ (band (band h5).1).1
  have e_a := srcOf_enc a _ (band (band h5).1).2
  have e_b := srcOf_enc b _ (band h5).2
  refine ⟨.x3, _, rfl, rfl, build_float 0x044 rfl (by decide) (ofCode_ty _) rfl, ?_⟩
  simp only [Built.ok, bDab, f3, e_d, e_a, e_b, Bool.and_self, and_self]

theorem Sys2Proof.Laws.Decodes.fminXi (h : Hdr) (ty : Ty) (d : Reg) (a : Src) (imm : Word) : Statement (.fminXi h ty d a imm)
  := by
  intro hw f hf
  obtain rfl := Option.some.inj hf
  have h5 := (band hw).2
  have e_d := regOf_enc d _ (band h5).1
  have e_a := srcOf_enc a _ (band h5).2
  refine ⟨.xi, _, rfl, rfl, build_float 0x05A rfl (by decide) (ofCode_ty _) rfl, ?_⟩
  simp only [Built.ok, bDa, fi, e_d, e_a, Bool.and_self, and_self]

theorem Sys2Proof.Laws.Decodes.fmax (h : Hdr) (ty : Ty) (d : Reg) (a : Src) (b : Src) : Statement (.fmax h ty d a b) := by
  intro hw f hf
  obtain rfl := Option.some.inj hf
  have h5 := (band hw).2
  have e_d := regOf_enc d _ (band (band h5).1).1
  have e_a := srcOf_enc a _ (band (band h5).1).2
  have e_b := srcOf_enc b _ (band h5).2
  refine ⟨.x3, _, rfl, rfl, build_float 0x045 rfl (by decide) (ofCode_ty _) rfl, ?_⟩
  simp only [Built.ok, bDab, f3, e_d, e_a, e_b, Bool.and_self, and_self]

theorem Sys2Proof.Laws.Decodes.fmaxXi (h : Hdr) (ty : Ty) (d : Reg) (a : Src) (imm : Word) : Statement (.fmaxXi h ty d a imm)
  := by
  intro hw f hf
  obtain rfl := Option.some.inj hf
  have h5 := (band hw).2
  have e_d := regOf_enc d _ (band h5).1
  have e_a := srcOf_enc a _ (band h5).2
  refine ⟨.xi, _, rfl, rfl, build_float 0x05B rfl (by decide) (ofCode_ty _) rfl, ?_⟩
  simp only [Built.ok, bDa, fi, e_d, e_a, Bool.and_self, and_self]

theorem Sys2Proof.Laws.Decodes.fminn (h : Hdr) (ty : Ty) (d : Reg) (a : Src) (b : Src) : Statement (.fminn h ty d a b) := by
  intro hw f hf
  obtain rfl := Option.some.inj hf
  have h5 := (band hw).2
  have e_d := regOf_enc d _ (band (band h5).1).1
  have e_a := srcOf_enc a _ (band (band h5).1).2
  have e_b := srcOf_enc b _ (band h5).2
  refine ⟨.x3, _, rfl, rfl, build_float 0x046 rfl (by decide) (ofCode_ty _) rfl, ?_⟩
  simp only [Built.ok, bDab, f3, e_d, e_a, e_b, Bool.and_self, and_self]

theorem Sys2Proof.Laws.Decodes.fmaxn (h : Hdr) (ty : Ty) (d : Reg) (a : Src) (b : Src) : Statement (.fmaxn h ty d a b) := by
  intro hw f hf
  obtain rfl := Option.some.inj hf
  have h5 := (band hw).2
  have e_d := regOf_enc d _ (band (band h5).1).1
  have e_a := srcOf_enc a _ (band (band h5).1).2
  have e_b := srcOf_enc b _ (band h5).2
  refine ⟨.x3, _, rfl, rfl, build_float 0x047 rfl (by decide) (ofCode_ty _) rfl, ?_⟩
  simp only [Built.ok, bDab, f3, e_d, e_a, e_b, Bool.and_self, and_self]

theorem Sys2Proof.Laws.Decodes.fabs (h : Hdr) (ty : Ty) (d : Reg) (a : Src) : Statement (.fabs h ty d a) := by
  intro hw f hf
  obtain rfl := Option.some.inj hf
  have h5 := (band hw).2
  have e_d := regOf_enc d _ (band h5).1
  have e_a := srcOf_enc a _ (band h5).2
  refine ⟨.x3, _, rfl, rfl, build_float 0x048 rfl (by decide) (ofCode_ty _) rfl, ?_⟩
  simp only [Built.ok, bDa, f3, e_d, e_a, Bool.and_self, and_self]

theorem Sys2Proof.Laws.Decodes.fneg (h : Hdr) (ty : Ty) (d : Reg) (a : Src) : Statement (.fneg h ty d a) := by
  intro hw f hf
  obtain rfl := Option.some.inj hf
  have h5 := (band hw).2
  have e_d := regOf_enc d _ (band h5).1
  have e_a := srcOf_enc a _ (band h5).2
  refine ⟨.x3, _, rfl, rfl, build_float 0x049 rfl (by decide) (ofCode_ty _) rfl, ?_⟩
  simp only [Built.ok, bDa, f3, e_d, e_a, Bool.and_self, and_self]

theorem Sys2Proof.Laws.Decodes.fsgn (h : Hdr) (ty : Ty) (d : Reg) (a : Src) (b : Src) : Statement (.fsgn h ty d a b) := by
  intro hw f hf
  obtain rfl := Option.some.inj hf
  have h5 := (band hw).2
  have e_d := regOf_enc d _ (band (band h5).1).1
  have e_a := srcOf_enc a _ (band (band h5).1).2
  have e_b := srcOf_enc b _ (band h5).2
  refine ⟨.x3, _, rfl, rfl, build_float 0x04A rfl (by decide) (ofCode_ty _) rfl, ?_⟩
  simp only [Built.ok, bDab, f3, e_d, e_a, e_b, Bool.and_self, and_self]

theorem Sys2Proof.Laws.Decodes.fdiv (h : Hdr) (m : Rnd) (d : Reg) (a : Src) (b : Src) : Statement (.fdiv h m d a b) := by
  intro hw f hf
  obtain rfl := Option.some.inj hf
  have h5 := (band hw).2
  have e_d := regOf_enc d _ (band (band h5).1).1
  have e_a := srcOf_enc a _ (band (band h5).1).2
  have e_b := srcOf_enc b _ (band h5).2
  refine ⟨.x3, _, rfl, rfl, build_float 0x04B rfl (by decide) rfl rfl, ?_⟩
  simp only [Built.ok, bDab, f3r, ofCode_rnd, e_d, e_a, e_b, Bool.and_self, and_self]

theorem Sys2Proof.Laws.Decodes.fsqrt (h : Hdr) (m : Rnd) (d : Reg) (a : Src) : Statement (.fsqrt h m d a) := by
  intro hw f hf
  obtain rfl := Option.some.inj hf
  have h5 := (band hw).2
  have e_d := regOf_enc d _ (band h5).1
  have e_a := srcOf_enc a _ (band h5).2
  refine ⟨.x3, _, rfl, rfl, build_float 0x04C rfl (by decide) rfl rfl, ?_⟩
  simp only [Built.ok, bDa, f3r, ofCode_rnd, e_d, e_a, Bool.and_self, and_self]

theorem Sys2Proof.Laws.Decodes.frcp (h : Hdr) (m : Rnd) (d : Reg) (a : Src) : Statement (.frcp h m d a) := by
  intro hw f hf
  obtain rfl := Option.some.inj hf
  have h5 := (band hw).2
  have e_d := regOf_enc d _ (band h5).1
  have e_a := srcOf_enc a _ (band h5).2
  refine ⟨.x3, _, rfl, rfl, build_float 0x04D rfl (by decide) rfl rfl, ?_⟩
  simp only [Built.ok, bDa, f3r, ofCode_rnd, e_d, e_a, Bool.and_self, and_self]

theorem Sys2Proof.Laws.Decodes.frsq (h : Hdr) (m : Rnd) (d : Reg) (a : Src) : Statement (.frsq h m d a) := by
  intro hw f hf
  obtain rfl := Option.some.inj hf
  have h5 := (band hw).2
  have e_d := regOf_enc d _ (band h5).1
  have e_a := srcOf_enc a _ (band h5).2
  refine ⟨.x3, _, rfl, rfl, build_float 0x04E rfl (by decide) rfl rfl, ?_⟩
  simp only [Built.ok, bDa, f3r, ofCode_rnd, e_d, e_a, Bool.and_self, and_self]

theorem Sys2Proof.Laws.Decodes.fex2 (h : Hdr) (m : Rnd) (d : Reg) (a : Src) : Statement (.fex2 h m d a) := by
  intro hw f hf
  obtain rfl := Option.some.inj hf
  have h5 := (band hw).2
  have e_d := regOf_enc d _ (band h5).1
  have e_a := srcOf_enc a _ (band h5).2
  refine ⟨.x3, _, rfl, rfl, build_float 0x04F rfl (by decide) rfl rfl, ?_⟩
  simp only [Built.ok, bDa, f3r, ofCode_rnd, e_d, e_a, Bool.and_self, and_self]

theorem Sys2Proof.Laws.Decodes.flg2 (h : Hdr) (m : Rnd) (d : Reg) (a : Src) : Statement (.flg2 h m d a) := by
  intro hw f hf
  obtain rfl := Option.some.inj hf
  have h5 := (band hw).2
  have e_d := regOf_enc d _ (band h5).1
  have e_a := srcOf_enc a _ (band h5).2
  refine ⟨.x3, _, rfl, rfl, build_float 0x050 rfl (by decide) rfl rfl, ?_⟩
  simp only [Built.ok, bDa, f3r, ofCode_rnd, e_d, e_a, Bool.and_self, and_self]

theorem Sys2Proof.Laws.Decodes.fsin (h : Hdr) (m : Rnd) (d : Reg) (a : Src) : Statement (.fsin h m d a) := by
  intro hw f hf
  obtain rfl := Option.some.inj hf
  have h5 := (band hw).2
  have e_d := regOf_enc d _ (band h5).1
  have e_a := srcOf_enc a _ (band h5).2
  refine ⟨.x3, _, rfl, rfl, build_float 0x051 rfl (by decide) rfl rfl, ?_⟩
  simp only [Built.ok, bDa, f3r, ofCode_rnd, e_d, e_a, Bool.and_self, and_self]

theorem Sys2Proof.Laws.Decodes.fcos (h : Hdr) (m : Rnd) (d : Reg) (a : Src) : Statement (.fcos h m d a) := by
  intro hw f hf
  obtain rfl := Option.some.inj hf
  have h5 := (band hw).2
  have e_d := regOf_enc d _ (band h5).1
  have e_a := srcOf_enc a _ (band h5).2
  refine ⟨.x3, _, rfl, rfl, build_float 0x052 rfl (by decide) rfl rfl, ?_⟩
  simp only [Built.ok, bDa, f3r, ofCode_rnd, e_d, e_a, Bool.and_self, and_self]

theorem Sys2Proof.Laws.Decodes.ftanh (h : Hdr) (m : Rnd) (d : Reg) (a : Src) : Statement (.ftanh h m d a) := by
  intro hw f hf
  obtain rfl := Option.some.inj hf
  have h5 := (band hw).2
  have e_d := regOf_enc d _ (band h5).1
  have e_a := srcOf_enc a _ (band h5).2
  refine ⟨.x3, _, rfl, rfl, build_float 0x053 rfl (by decide) rfl rfl, ?_⟩
  simp only [Built.ok, bDa, f3r, ofCode_rnd, e_d, e_a, Bool.and_self, and_self]

theorem Sys2Proof.Laws.Decodes.frnd (h : Hdr) (m : Rnd) (d : Reg) (a : Src) : Statement (.frnd h m d a) := by
  intro hw f hf
  obtain rfl := Option.some.inj hf
  have h5 := (band hw).2
  have e_d := regOf_enc d _ (band h5).1
  have e_a := srcOf_enc a _ (band h5).2
  refine ⟨.x3, _, rfl, rfl, build_float 0x054 rfl (by decide) rfl rfl, ?_⟩
  simp only [Built.ok, bDa, f3r, ofCode_rnd, e_d, e_a, Bool.and_self, and_self]

theorem Sys2Proof.Laws.Decodes.ffrc (h : Hdr) (m : Rnd) (d : Reg) (a : Src) : Statement (.ffrc h m d a) := by
  intro hw f hf
  obtain rfl := Option.some.inj hf
  have h5 := (band hw).2
  have e_d := regOf_enc d _ (band h5).1
  have e_a := srcOf_enc a _ (band h5).2
  refine ⟨.x3, _, rfl, rfl, build_float 0x055 rfl (by decide) rfl rfl, ?_⟩
  simp only [Built.ok, bDa, f3r, ofCode_rnd, e_d, e_a, Bool.and_self, and_self]

theorem Sys2Proof.Laws.Decodes.fscale (h : Hdr) (m : Rnd) (d : Reg) (a : Src) (b : Src) : Statement (.fscale h m d a b) := by
  intro hw f hf
  obtain rfl := Option.some.inj hf
  have h5 := (band hw).2
  have e_d := regOf_enc d _ (band (band h5).1).1
  have e_a := srcOf_enc a _ (band (band h5).1).2
  have e_b := srcOf_enc b _ (band h5).2
  refine ⟨.x3, _, rfl, rfl, build_float 0x056 rfl (by decide) rfl rfl, ?_⟩
  simp only [Built.ok, bDab, f3r, ofCode_rnd, e_d, e_a, e_b, Bool.and_self, and_self]

theorem Sys2Proof.Laws.Decodes.fdot2 (h : Hdr) (ty : Ty) (m : Rnd) (d : Reg) (a : Src) (b : Src) (c : Src) : Statement
  (.fdot2 h ty m d a b c) := by
  intro hw f hf
  obtain rfl := Option.some.inj hf
  have h5 := (band hw).2
  have e_d := regOf_enc d _ (band (band (band h5).1).1).1
  have e_a := srcOf_enc a _ (band (band (band h5).1).1).2
  have e_b := srcOf_enc b _ (band (band h5).1).2
  have e_c := srcOf_enc c _ (band h5).2
  refine ⟨.x4, _, rfl, rfl, build_float 0x057 rfl (by decide) (ofCode_ty _) rfl, ?_⟩
  simp only [Built.ok, bDabc, f4, ofCode_rnd, e_d, e_a, e_b, e_c, Bool.and_self, and_self]

theorem Sys2Proof.Laws.Decodes.cvt (h : Hdr) (t : Ty) (s : Ty) (m : Rnd) (sat : Bool) (d : Reg) (a : Src) : Statement (.cvt h
  t s m sat d a) := by
  intro hw f hf
  obtain rfl := Option.some.inj hf
  have h5 := (band hw).2
  have e_d := regOf_enc d _ (band h5).1
  have e_a := srcOf_enc a _ (band h5).2
  refine ⟨.x3, _, rfl, rfl, build_cvt 0x080 rfl (by decide) (ofCode_ty _) (congrArg (Option.map _) (ofCode_ty s)), ?_⟩
  simp only [Built.ok, bDa, f3r, ofCode_rnd, e_d, e_a, Bool.and_self, and_self]

theorem Sys2Proof.Laws.Decodes.cvtPack (h : Hdr) (ty : Ty) (m : Rnd) (d : Reg) (a : Src) (b : Src) (c : Src) : Statement
  (.cvtPack h ty m d a b c) := by
  intro hw f hf
  obtain rfl := Option.some.inj hf
  have h5 := (band hw).2
  have e_d := regOf_enc d _ (band (band (band h5).1).1).1
  have e_a := srcOf_enc a _ (band (band (band h5).1).1).2
  have e_b := srcOf_enc b _ (band (band h5).1).2
  have e_c := srcOf_enc c _ (band h5).2
  have h4 : ((ty == .f16x2 || ty == .bf16x2) && c == Src.unused || ty == .e4m3x4 || ty == .e5m2x4) = true := (band hw).1
  have e_i := srcIf_enc (ty != .f16x2 && ty != .bf16x2) c (by have := ((band h5).2 : c.ok false = true); cases ty <;> simp_all)
  refine ⟨.x4, _, rfl, rfl, build_cvt 0x081 rfl (by decide) (ofCode_ty _) rfl, ?_⟩
  simp only [Built.ok, bDab, f4, ofCode_rnd, e_d, e_a, e_b, e_i, Bool.and_self, and_self]

theorem Sys2Proof.Laws.Decodes.qpack (h : Hdr) (d : Reg) (a : Reg) (b : Src) (c : Reg) : Statement (.qpack h d a b c) := by
  intro hw f hf
  obtain rfl := Option.some.inj hf
  have h5 := (band hw).2
  have e_a := regOf_enc a _ (band (band (band h5).1).1).2
  have e_b := srcOf_enc b _ (band (band h5).1).2
  have e_x := regsApart_enc d c _ _ (band (band (band h5).1).1).1 (band h5).2
  refine ⟨.x4, _, rfl, rfl, build_cvt 0x082 rfl (by decide) rfl rfl, ?_⟩
  simp only [Built.ok, f4, e_a, e_b, e_x, Bool.and_self, and_self]

theorem Sys2Proof.Laws.Decodes.qunpack (h : Hdr) (m : Rnd) (d : Reg) (a : Src) (b : Src) : Statement (.qunpack h m d a b) := by
  intro hw f hf
  obtain rfl := Option.some.inj hf
  have h5 := (band hw).2
  have e_d := regOf_enc d _ (band (band h5).1).1
  have e_a := srcOf_enc a _ (band (band h5).1).2
  have e_b := srcOf_enc b _ (band h5).2
  refine ⟨.x3, _, rfl, rfl, build_cvt 0x083 rfl (by decide) rfl rfl, ?_⟩
  simp only [Built.ok, bDab, f3r, ofCode_rnd, e_d, e_a, e_b, Bool.and_self, and_self]

theorem Sys2Proof.Laws.Decodes.bsel (h : Hdr) (d : Reg) (a : Src) (b : Src) (c : Src) : Statement (.bsel h d a b c) := by
  intro hw f hf
  obtain rfl := Option.some.inj hf
  have h5 := (band hw).2
  have e_d := regOf_enc d _ (band (band (band h5).1).1).1
  have e_a := srcOf_enc a _ (band (band (band h5).1).1).2
  have e_b := srcOf_enc b _ (band (band h5).1).2
  have e_c := srcOf_enc c _ (band h5).2
  refine ⟨.x4, _, rfl, rfl, build_cvt 0x084 rfl (by decide) rfl rfl, ?_⟩
  simp only [Built.ok, bDabc, f4, e_d, e_a, e_b, e_c, Bool.and_self, and_self]

theorem Sys2Proof.Laws.Decodes.pack (h : Hdr) (ty : Ty) (sat : Bool) (d : Reg) (a : Src) (b : Src) (c : Src) : Statement
  (.pack h ty sat d a b c) := by
  intro hw f hf
  obtain rfl := Option.some.inj hf
  have h5 := (band hw).2
  have e_d := regOf_enc d _ (band (band (band h5).1).1).1
  have e_a := srcOf_enc a _ (band (band (band h5).1).1).2
  have e_b := srcOf_enc b _ (band (band h5).1).2
  have e_c := srcOf_enc c _ (band h5).2
  have h4 : ((ty == .i8 || ty == .n8) || (ty == .i16 || ty == .n16) && c == Src.unused) = true := (band hw).1
  have e_i := srcIf_enc (ty != .i16 && ty != .n16) c (by have := ((band h5).2 : c.ok false = true); cases ty <;> simp_all)
  refine ⟨.x4, _, rfl, rfl, build_cvt 0x085 rfl (by decide) (ofCode_ty _) rfl, ?_⟩
  simp only [Built.ok, bDab, f4, var_one, e_d, e_a, e_b, e_i, Bool.and_self, and_self]

theorem Sys2Proof.Laws.Decodes.unpack (h : Hdr) (ty : Ty) (d : Reg) (a : Src) (b : Src) : Statement (.unpack h ty d a b) := by
  intro hw f hf
  obtain rfl := Option.some.inj hf
  have h5 := (band hw).2
  have e_d := regOf_enc d _ (band (band h5).1).1
  have e_a := srcOf_enc a _ (band (band h5).1).2
  have e_b := srcOf_enc b _ (band h5).2
  refine ⟨.x3, _, rfl, rfl, build_cvt 0x086 rfl (by decide) (ofCode_ty _) rfl, ?_⟩
  simp only [Built.ok, bDab, f3, e_d, e_a, e_b, Bool.and_self, and_self]

theorem Sys2Proof.Laws.Decodes.setp (h : Hdr) (cmp : Cmp) (ty : Ty) (p : PReg) (a : Src) (b : Src) : Statement (.setp h cmp
  ty p a b) := by
  intro hw f hf
  obtain rfl := Option.some.inj hf
  have h5 := (band hw).2
  have e_a := srcOf_enc a _ (band h5).1
  have e_b := srcOf_enc b _ (band h5).2
  refine ⟨.x3, _, rfl, rfl, build_pred 0x0C0 rfl (by decide) (ofCode_ty _) (congrArg (Option.map _) (ofCode_cmp cmp)), ?_⟩
  simp only [Built.ok, bPab, f3, predOf_enc, e_a, e_b, Bool.and_self, and_self]

theorem Sys2Proof.Laws.Decodes.fsetp (h : Hdr) (mask : BitVec 4) (p : PReg) (a : Src) (b : Src) : Statement (.fsetp h mask p
  a b) := by
  intro hw f hf
  obtain rfl := Option.some.inj hf
  have h5 := (band hw).2
  have e_a := srcOf_enc a _ (band h5).1
  have e_b := srcOf_enc b _ (band h5).2
  refine ⟨.x3, _, rfl, rfl, build_pred 0x0C1 rfl (by decide) rfl rfl, ?_⟩
  simp only [Built.ok, bPab, f3, predOf_enc, mask_wide, e_a, e_b, Bool.and_self, and_self]

theorem Sys2Proof.Laws.Decodes.fclass (h : Hdr) (p : PReg) (a : Src) (b : Src) : Statement (.fclass h p a b) := by
  intro hw f hf
  obtain rfl := Option.some.inj hf
  have h5 := (band hw).2
  have e_a := srcOf_enc a _ (band h5).1
  have e_b := srcOf_enc b _ (band h5).2
  refine ⟨.x3, _, rfl, rfl, build_pred 0x0C2 rfl (by decide) rfl rfl, ?_⟩
  simp only [Built.ok, bPab, f3, predOf_enc, e_a, e_b, Bool.and_self, and_self]

theorem Sys2Proof.Laws.Decodes.pand (h : Hdr) (p : PReg) (a : PReg) (b : PReg) (na : Bool) (nb : Bool) : Statement (.pand h p
  a b na nb) := by
  intro hw f hf
  obtain rfl := Option.some.inj hf
  refine ⟨.x3, _, rfl, rfl, build_pred 0x0C3 rfl (by decide) rfl rfl, ?_⟩
  simp only [Built.ok, bPpp, fs, predOf_enc, low_neg, high_neg, Bool.and_self, and_self]

theorem Sys2Proof.Laws.Decodes.por (h : Hdr) (p : PReg) (a : PReg) (b : PReg) (na : Bool) (nb : Bool) : Statement (.por h p a
  b na nb) := by
  intro hw f hf
  obtain rfl := Option.some.inj hf
  refine ⟨.x3, _, rfl, rfl, build_pred 0x0C4 rfl (by decide) rfl rfl, ?_⟩
  simp only [Built.ok, bPpp, fs, predOf_enc, low_neg, high_neg, Bool.and_self, and_self]

theorem Sys2Proof.Laws.Decodes.pxor (h : Hdr) (p : PReg) (a : PReg) (b : PReg) (na : Bool) (nb : Bool) : Statement (.pxor h p
  a b na nb) := by
  intro hw f hf
  obtain rfl := Option.some.inj hf
  refine ⟨.x3, _, rfl, rfl, build_pred 0x0C5 rfl (by decide) rfl rfl, ?_⟩
  simp only [Built.ok, bPpp, fs, predOf_enc, low_neg, high_neg, Bool.and_self, and_self]

theorem Sys2Proof.Laws.Decodes.pnot (h : Hdr) (p : PReg) (a : PReg) : Statement (.pnot h p a) := by
  intro hw f hf
  obtain rfl := Option.some.inj hf
  refine ⟨.x3, _, rfl, rfl, build_pred 0x0C6 rfl (by decide) rfl rfl, ?_⟩
  simp only [Built.ok, bPp, fs, predOf_enc, Bool.and_self, and_self]

theorem Sys2Proof.Laws.Decodes.pmov (h : Hdr) (p : PReg) (a : PReg) : Statement (.pmov h p a) := by
  intro hw f hf
  obtain rfl := Option.some.inj hf
  refine ⟨.x3, _, rfl, rfl, build_pred 0x0C7 rfl (by decide) rfl rfl, ?_⟩
  simp only [Built.ok, bPp, fs, predOf_enc, Bool.and_self, and_self]

theorem Sys2Proof.Laws.Decodes.pmovGet (h : Hdr) (d : Reg) : Statement (.pmovGet h d) := by
  intro hw f hf
  obtain rfl := Option.some.inj hf
  have h5 := (band hw).2
  have e_d := regOf_enc d _ h5
  refine ⟨.x3, _, rfl, rfl, build_pred 0x0C7 rfl (by decide) rfl rfl, ?_⟩
  simp only [Built.ok, fs, e_d, Bool.and_self, and_self]

theorem Sys2Proof.Laws.Decodes.pmovPut (h : Hdr) (d : Reg) (a : Src) : Statement (.pmovPut h d a) := by
  intro hw f hf
  obtain rfl := Option.some.inj hf
  have h5 := (band hw).2
  have e_d := regOf_enc d _ (band h5).1
  have e_a := srcOf_enc a _ (band h5).2
  refine ⟨.x3, _, rfl, rfl, build_pred 0x0C7 rfl (by decide) rfl rfl, ?_⟩
  simp only [Built.ok, bDa, fs, e_d, e_a, Bool.and_self, and_self]

theorem Sys2Proof.Laws.Decodes.bra (h : Hdr) (off : Word) : Statement (.bra h off) := by
  intro hw f hf
  obtain rfl := Option.some.inj hf
  refine ⟨.b, _, rfl, rfl, build_pred 0x0C8 rfl (by decide) rfl rfl, ?_⟩
  exact ⟨rfl, rfl⟩

theorem Sys2Proof.Laws.Decodes.braInd (h : Hdr) (a : Src) : Statement (.braInd h a) := by
  intro hw f hf
  obtain rfl := Option.some.inj hf
  have h5 := (band hw).2
  have e_a := srcOf_enc a _ h5
  refine ⟨.b, _, rfl, rfl, build_pred 0x0C9 rfl (by decide) rfl rfl, ?_⟩
  simp only [Built.ok, bA, e_a, Bool.and_self, and_self]

theorem Sys2Proof.Laws.Decodes.call (h : Hdr) (off : Word) : Statement (.call h off) := by
  intro hw f hf
  obtain rfl := Option.some.inj hf
  refine ⟨.b, _, rfl, rfl, build_pred 0x0CA rfl (by decide) rfl rfl, ?_⟩
  exact ⟨rfl, rfl⟩

theorem Sys2Proof.Laws.Decodes.callInd (h : Hdr) (a : Src) : Statement (.callInd h a) := by
  intro hw f hf
  obtain rfl := Option.some.inj hf
  have h5 := (band hw).2
  have e_a := srcOf_enc a _ h5
  refine ⟨.b, _, rfl, rfl, build_pred 0x0CB rfl (by decide) rfl rfl, ?_⟩
  simp only [Built.ok, bA, e_a, Bool.and_self, and_self]

theorem Sys2Proof.Laws.Decodes.ret (h : Hdr) : Statement (.ret h) := by
  intro hw f hf
  obtain rfl := Option.some.inj hf
  refine ⟨.b, _, rfl, rfl, build_pred 0x0CC rfl (by decide) rfl rfl, ?_⟩
  exact ⟨rfl, rfl⟩

theorem Sys2Proof.Laws.Decodes.exit (h : Hdr) : Statement (.exit h) := by
  intro hw f hf
  obtain rfl := Option.some.inj hf
  refine ⟨.x3, _, rfl, rfl, build_pred 0x0CD rfl (by decide) rfl rfl, ?_⟩
  exact ⟨rfl, rfl⟩

theorem Sys2Proof.Laws.Decodes.yield (h : Hdr) : Statement (.yield h) := by
  intro hw f hf
  obtain rfl := Option.some.inj hf
  refine ⟨.x3, _, rfl, rfl, build_pred 0x0CE rfl (by decide) rfl rfl, ?_⟩
  exact ⟨rfl, rfl⟩

theorem Sys2Proof.Laws.Decodes.nop (h : Hdr) : Statement (.nop h) := by
  intro hw f hf
  obtain rfl := Option.some.inj hf
  refine ⟨.x3, _, rfl, rfl, build_pred 0x0CF rfl (by decide) rfl rfl, ?_⟩
  exact ⟨rfl, rfl⟩

theorem Sys2Proof.Laws.Decodes.ldG (h : Hdr) (ty : Ty) (tf : Bool) (d : Reg) (base : Reg) (disp : BitVec 10) : Statement
  (.ldG h ty tf d base disp) := by
  intro hw f hf
  obtain rfl := Option.some.inj hf
  have h5 := (band hw).2
  have e_d := regOf_enc d _ (band h5).1
  have e_base := regOf_enc base _ (band h5).2
  refine ⟨.m, _, rfl, rfl, build_mem 0x100 rfl (by decide) (ofCode_ty _) rfl, ?_⟩
  simp only [Built.ok, bLd, fm, e_d, e_base, Bool.and_self, and_self]

theorem Sys2Proof.Laws.Decodes.stG (h : Hdr) (ty : Ty) (tf : Bool) (v : Src) (base : Reg) (disp : BitVec 10) : Statement
  (.stG h ty tf v base disp) := by
  intro hw f hf
  obtain rfl := Option.some.inj hf
  have h5 := (band hw).2
  have e_v := srcOf_enc v _ (band h5).1
  have e_base := regOf_enc base _ (band h5).2
  refine ⟨.m, _, rfl, rfl, build_mem 0x101 rfl (by decide) (ofCode_ty _) rfl, ?_⟩
  simp only [Built.ok, bSt, fm, e_v, e_base, Bool.and_self, and_self]

theorem Sys2Proof.Laws.Decodes.ldS (h : Hdr) (ty : Ty) (d : Reg) (base : Reg) (disp : BitVec 10) : Statement (.ldS h ty d
  base disp) := by
  intro hw f hf
  obtain rfl := Option.some.inj hf
  have h5 := (band hw).2
  have e_d := regOf_enc d _ (band h5).1
  have e_base := regOf_enc base _ (band h5).2
  refine ⟨.m, _, rfl, rfl, build_mem 0x102 rfl (by decide) (ofCode_ty _) rfl, ?_⟩
  simp only [Built.ok, bLd, fm, e_d, e_base, Bool.and_self, and_self]

theorem Sys2Proof.Laws.Decodes.stS (h : Hdr) (ty : Ty) (v : Src) (base : Reg) (disp : BitVec 10) : Statement (.stS h ty v
  base disp) := by
  intro hw f hf
  obtain rfl := Option.some.inj hf
  have h5 := (band hw).2
  have e_v := srcOf_enc v _ (band h5).1
  have e_base := regOf_enc base _ (band h5).2
  refine ⟨.m, _, rfl, rfl, build_mem 0x103 rfl (by decide) (ofCode_ty _) rfl, ?_⟩
  simp only [Built.ok, bSt, fm, e_v, e_base, Bool.and_self, and_self]

theorem Sys2Proof.Laws.Decodes.ldRo (h : Hdr) (ty : Ty) (tf : Bool) (d : Reg) (base : Reg) (disp : BitVec 10) : Statement
  (.ldRo h ty tf d base disp) := by
  intro hw f hf
  obtain rfl := Option.some.inj hf
  have h5 := (band hw).2
  have e_d := regOf_enc d _ (band h5).1
  have e_base := regOf_enc base _ (band h5).2
  refine ⟨.m, _, rfl, rfl, build_mem 0x104 rfl (by decide) (ofCode_ty _) rfl, ?_⟩
  simp only [Built.ok, bLd, fm, e_d, e_base, Bool.and_self, and_self]

theorem Sys2Proof.Laws.Decodes.pfRo (h : Hdr) (base : Reg) (disp : BitVec 10) : Statement (.pfRo h base disp) := by
  intro hw f hf
  obtain rfl := Option.some.inj hf
  have h5 := (band hw).2
  have e_base := regOf_enc base _ h5
  refine ⟨.m, _, rfl, rfl, build_mem 0x105 rfl (by decide) rfl rfl, ?_⟩
  simp only [Built.ok, bBase, fm, e_base, Bool.and_self, and_self]

theorem Sys2Proof.Laws.Decodes.atomG (h : Hdr) (op : AtomOp) (ty : Ty) (tf : Bool) (d : Reg) (base : Reg) (disp : BitVec 10)
  (v : Src) : Statement (.atomG h op ty tf d base disp v) := by
  intro hw f hf
  obtain rfl := Option.some.inj hf
  have h5 := (band hw).2
  have e_d := regOf_enc d _ (band (band h5).1).1
  have e_base := regOf_enc base _ (band (band h5).1).2
  have e_v := srcOf_enc v _ (band h5).2
  refine ⟨.m, _, rfl, rfl, build_mem 0x106 rfl (by decide) (ofCode_ty _) (congrArg (Option.map _) (ofCode_atom op)), ?_⟩
  simp only [Built.ok, bAtom, fm, e_d, e_base, e_v, Bool.and_self, and_self]

theorem Sys2Proof.Laws.Decodes.atomS (h : Hdr) (op : AtomOp) (ty : Ty) (d : Reg) (base : Reg) (disp : BitVec 10) (v : Src) :
  Statement (.atomS h op ty d base disp v) := by
  intro hw f hf
  obtain rfl := Option.some.inj hf
  have h5 := (band hw).2
  have e_d := regOf_enc d _ (band (band h5).1).1
  have e_base := regOf_enc base _ (band (band h5).1).2
  have e_v := srcOf_enc v _ (band h5).2
  refine ⟨.m, _, rfl, rfl, build_mem 0x107 rfl (by decide) (ofCode_ty _) (congrArg (Option.map _) (ofCode_atom op)), ?_⟩
  simp only [Built.ok, bAtom, fm, e_d, e_base, e_v, Bool.and_self, and_self]

theorem Sys2Proof.Laws.Decodes.redG (h : Hdr) (op : AtomOp) (ty : Ty) (tf : Bool) (v : Src) (base : Reg) (disp : BitVec 10) :
  Statement (.redG h op ty tf v base disp) := by
  intro hw f hf
  obtain rfl := Option.some.inj hf
  have h5 := (band hw).2
  have e_v := srcOf_enc v _ (band h5).1
  have e_base := regOf_enc base _ (band h5).2
  refine ⟨.m, _, rfl, rfl, build_mem 0x108 rfl (by decide) (ofCode_ty _) (congrArg (Option.map _) (ofCode_atom op)), ?_⟩
  simp only [Built.ok, bSt, fm, e_v, e_base, Bool.and_self, and_self]

theorem Sys2Proof.Laws.Decodes.mcst (h : Hdr) (ty : Ty) (v : Src) (base : Reg) (disp : BitVec 10) : Statement (.mcst h ty v
  base disp) := by
  intro hw f hf
  obtain rfl := Option.some.inj hf
  have h5 := (band hw).2
  have e_v := srcOf_enc v _ (band h5).1
  have e_base := regOf_enc base _ (band h5).2
  refine ⟨.m, _, rfl, rfl, build_mem 0x109 rfl (by decide) (ofCode_ty _) rfl, ?_⟩
  simp only [Built.ok, bSt, fm, e_v, e_base, Bool.and_self, and_self]

theorem Sys2Proof.Laws.Decodes.fence (h : Hdr) (scope : Scope) : Statement (.fence h scope) := by
  intro hw f hf
  obtain rfl := Option.some.inj hf
  refine ⟨.x3, _, rfl, rfl, build_mem 0x10A rfl (by decide) rfl (congrArg (Option.map _) (scope_wide scope)), ?_⟩
  exact ⟨rfl, rfl⟩

theorem Sys2Proof.Laws.Decodes.ldAcq (h : Hdr) (ty : Ty) (tf : Bool) (d : Reg) (base : Reg) (disp : BitVec 10) : Statement
  (.ldAcq h ty tf d base disp) := by
  intro hw f hf
  obtain rfl := Option.some.inj hf
  have h5 := (band hw).2
  have e_d := regOf_enc d _ (band h5).1
  have e_base := regOf_enc base _ (band h5).2
  refine ⟨.m, _, rfl, rfl, build_mem 0x10B rfl (by decide) (ofCode_ty _) rfl, ?_⟩
  simp only [Built.ok, bLd, fm, e_d, e_base, Bool.and_self, and_self]

theorem Sys2Proof.Laws.Decodes.stRel (h : Hdr) (scope : Scope) (ty : Ty) (tf : Bool) (v : Src) (base : Reg) (disp : BitVec
  10) : Statement (.stRel h scope ty tf v base disp) := by
  intro hw f hf
  obtain rfl := Option.some.inj hf
  have h5 := (band hw).2
  have e_v := srcOf_enc v _ (band h5).1
  have e_base := regOf_enc base _ (band h5).2
  refine ⟨.m, _, rfl, rfl, build_mem 0x10C rfl (by decide) (ofCode_ty _) (congrArg (Option.map _) (ofCode_scope scope)), ?_⟩
  simp only [Built.ok, bSt, fm, e_v, e_base, Bool.and_self, and_self]

theorem Sys2Proof.Laws.Decodes.mig (h : Hdr) (base : Reg) (disp : BitVec 10) : Statement (.mig h base disp) := by
  intro hw f hf
  obtain rfl := Option.some.inj hf
  have h5 := (band hw).2
  have e_base := regOf_enc base _ h5
  refine ⟨.m, _, rfl, rfl, build_mem 0x10D rfl (by decide) rfl rfl, ?_⟩
  simp only [Built.ok, bBase, fm, e_base, Bool.and_self, and_self]

theorem Sys2Proof.Laws.Decodes.detach (h : Hdr) (tf : Bool) : Statement (.detach h tf) := by
  intro hw f hf
  obtain rfl := Option.some.inj hf
  refine ⟨.x3, _, rfl, rfl, build_mem 0x10E rfl (by decide) rfl rfl, ?_⟩
  simp only [Built.ok, fs, sub_one, Bool.and_self, and_self]

theorem Sys2Proof.Laws.Decodes.spawn (h : Hdr) (off : Word) (nreg : BitVec 4) (tf : Bool) : Statement (.spawn h off nreg tf) := by
  intro hw f hf
  obtain rfl := Option.some.inj hf
  refine ⟨.b, _, rfl, rfl, build_mem 0x10F rfl (by decide) rfl rfl, ?_⟩
  exact ⟨rfl, rfl⟩

theorem Sys2Proof.Laws.Decodes.spawnAt (h : Hdr) (off : Word) (a : Reg) (nreg : BitVec 4) (tf : Bool) : Statement (.spawnAt h
  off a nreg tf) := by
  intro hw f hf
  obtain rfl := Option.some.inj hf
  have h5 := (band hw).2
  have e_a := regOf_enc a _ h5
  refine ⟨.b, _, rfl, rfl, build_mem 0x110 rfl (by decide) rfl rfl, ?_⟩
  simp only [Built.ok, bBase, e_a, Bool.and_self, and_self]

theorem Sys2Proof.Laws.Decodes.launch (h : Hdr) (d : Reg) (a : Src) (b : Src) : Statement (.launch h d a b) := by
  intro hw f hf
  obtain rfl := Option.some.inj hf
  have h5 := (band hw).2
  have e_d := regOf_enc d _ (band (band h5).1).1
  have e_a := srcOf_enc a _ (band (band h5).1).2
  have e_b := srcOf_enc b _ (band h5).2
  refine ⟨.x3, _, rfl, rfl, build_mem 0x111 rfl (by decide) rfl rfl, ?_⟩
  simp only [Built.ok, bDab, fs, e_d, e_a, e_b, Bool.and_self, and_self]

theorem Sys2Proof.Laws.Decodes.shfl (h : Hdr) (mode : ShflMode) (ty : Ty) (d : Reg) (a : Src) (b : Src) (c : Src) : Statement
  (.shfl h mode ty d a b c) := by
  intro hw f hf
  obtain rfl := Option.some.inj hf
  have h5 := (band hw).2
  have e_d := regOf_enc d _ (band (band (band h5).1).1).1
  have e_a := srcOf_enc a _ (band (band (band h5).1).1).2
  have e_b := srcOf_enc b _ (band (band h5).1).2
  have e_c := srcOf_enc c _ (band h5).2
  refine ⟨.x4, _, rfl, rfl, build_lane 0x140 rfl (by decide) (ofCode_ty _) rfl, ?_⟩
  simp only [Built.ok, bDabc, f4, ofCode_shfl, e_d, e_a, e_b, e_c, Bool.and_self, and_self]

theorem Sys2Proof.Laws.Decodes.lpred (h : Hdr) (op : LpredOp) (d : VDst) (a : PReg) : Statement (.lpred h op d a) := by
  intro hw f hf
  obtain rfl := Option.some.inj hf
  have e_x := vdstOf_enc (band hw).2
  refine ⟨.x3, _, rfl, rfl, build_lane 0x141 rfl (by decide) rfl (congrArg (Option.map _) (ofCode_lpred op)), ?_⟩
  simp only [Built.ok, fs, predOf_enc, e_x, Bool.and_self, and_self]

theorem Sys2Proof.Laws.Decodes.redux (h : Hdr) (op : RedOp) (ty : Ty) (m : Rnd) (d : Reg) (a : Src) : Statement (.redux h op
  ty m d a) := by
  intro hw f hf
  obtain rfl := Option.some.inj hf
  have h5 := (band hw).2
  have e_d := regOf_enc d _ (band h5).1
  have e_a := srcOf_enc a _ (band h5).2
  refine ⟨.x3, _, rfl, rfl, build_lane 0x142 rfl (by decide) (ofCode_ty _) rfl, ?_⟩
  simp only [Built.ok, bDa, f3r, ofCode_rnd, red_wide, e_d, e_a, Bool.and_self, and_self]

theorem Sys2Proof.Laws.Decodes.scan (h : Hdr) (op : RedOp) (ex : Bool) (ty : Ty) (m : Rnd) (d : Reg) (a : Src) : Statement
  (.scan h op ex ty m d a) := by
  intro hw f hf
  obtain rfl := Option.some.inj hf
  have h5 := (band hw).2
  have e_d := regOf_enc d _ (band h5).1
  have e_a := srcOf_enc a _ (band h5).2
  refine ⟨.x3, _, rfl, rfl, build_lane 0x143 rfl (by decide) (ofCode_ty _) rfl, ?_⟩
  simp only [Built.ok, bDa, f3r, ofCode_rnd, scan_op, scan_ex, e_d, e_a, Bool.and_self, and_self]

theorem Sys2Proof.Laws.Decodes.segscan (h : Hdr) (ex : Bool) (ty : Ty) (d : Reg) (a : Src) (b : PReg) (c : Src) : Statement
  (.segscan h ex ty d a b c) := by
  intro hw f hf
  obtain rfl := Option.some.inj hf
  have h5 := (band hw).2
  have e_d := regOf_enc d _ (band (band h5).1).1
  have e_a := srcOf_enc a _ (band (band h5).1).2
  have e_c := srcOf_enc c _ (band h5).2
  refine ⟨.x4, _, rfl, rfl, build_lane 0x144 rfl (by decide) (ofCode_ty _) rfl, ?_⟩
  simp only [Built.ok, bDapc, f4, predOf_enc, var_one, e_d, e_a, e_c, Bool.and_self, and_self]

theorem Sys2Proof.Laws.Decodes.segred (h : Hdr) (ty : Ty) (d : Reg) (a : Src) (b : PReg) (c : Src) : Statement (.segred h ty
  d a b c) := by
  intro hw f hf
  obtain rfl := Option.some.inj hf
  have h5 := (band hw).2
  have e_d := regOf_enc d _ (band (band h5).1).1
  have e_a := srcOf_enc a _ (band (band h5).1).2
  have e_c := srcOf_enc c _ (band h5).2
  refine ⟨.x4, _, rfl, rfl, build_lane 0x145 rfl (by decide) (ofCode_ty _) rfl, ?_⟩
  simp only [Built.ok, bDapc, f4, predOf_enc, e_d, e_a, e_c, Bool.and_self, and_self]

theorem Sys2Proof.Laws.Decodes.peers (h : Hdr) (op : PeersOp) (ty : Ty) (d : Reg) (a : Src) : Statement (.peers h op ty d a) := by
  intro hw f hf
  obtain rfl := Option.some.inj hf
  have h5 := (band hw).2
  have e_d := regOf_enc d _ (band h5).1
  have e_a := srcOf_enc a _ (band h5).2
  refine ⟨.x3, _, rfl, rfl, build_lane 0x146 rfl (by decide) (ofCode_ty _) (congrArg (Option.map _) (ofCode_peers op)), ?_⟩
  simp only [Built.ok, bDa, f3, e_d, e_a, Bool.and_self, and_self]

theorem Sys2Proof.Laws.Decodes.lcompress (h : Hdr) (ty : Ty) (d : Reg) (a : Src) (b : PReg) (c : Reg) : Statement (.lcompress
  h ty d a b c) := by
  intro hw f hf
  obtain rfl := Option.some.inj hf
  have h5 := (band hw).2
  have e_a := srcOf_enc a _ (band (band h5).1).2
  have e_x := regsApart_enc d c _ _ (band (band h5).1).1 (band h5).2
  refine ⟨.x4, _, rfl, rfl, build_lane 0x147 rfl (by decide) (ofCode_ty _) rfl, ?_⟩
  simp only [Built.ok, f4, predOf_enc, e_a, e_x, Bool.and_self, and_self]

theorem Sys2Proof.Laws.Decodes.lexpand (h : Hdr) (ty : Ty) (d : Reg) (a : Src) (b : PReg) (c : Src) : Statement (.lexpand h
  ty d a b c) := by
  intro hw f hf
  obtain rfl := Option.some.inj hf
  have h5 := (band hw).2
  have e_d := regOf_enc d _ (band (band h5).1).1
  have e_a := srcOf_enc a _ (band (band h5).1).2
  have e_c := srcOf_enc c _ (band h5).2
  refine ⟨.x4, _, rfl, rfl, build_lane 0x148 rfl (by decide) (ofCode_ty _) rfl, ?_⟩
  simp only [Built.ok, bDapc, f4, predOf_enc, e_d, e_a, e_c, Bool.and_self, and_self]

theorem Sys2Proof.Laws.Decodes.gwait (h : Hdr) : Statement (.gwait h) := by
  intro hw f hf
  obtain rfl := Option.some.inj hf
  refine ⟨.x3, _, rfl, rfl, build_lane 0x149 rfl (by decide) rfl rfl, ?_⟩
  exact ⟨rfl, rfl⟩

theorem Sys2Proof.Laws.Decodes.mma (h : Hdr) (z : Bool) (ty : Ty) (row : Row) (a : Tile) (off : Src) (tag : GReg) : Statement
  (.mma h z ty row a off tag) := by
  intro hw f hf
  obtain rfl := Option.some.inj hf
  have h5 := (band hw).2
  have e_off := srcOf_enc off _ (band (band h5).1).2
  have h4 : (ty.isMat && tag == 0 || ty == .q4) = true := (band hw).1
  have e_x := tagOf_enc ty tag (by simp only [Bool.or_eq_true, Bool.and_eq_true, beq_iff_eq] at h4; tauto)
  refine ⟨.x4, _, rfl, rfl, build_lane 0x160 rfl (by decide) (ofCode_ty _) rfl, ?_⟩
  simp only [Built.ok, bRto, f4, tileOf_enc, rowOf_enc, var_one, e_off, e_x, Bool.and_self, and_self]

theorem Sys2Proof.Laws.Decodes.mmaSp (h : Hdr) (z : Bool) (ty : Ty) (row : Row) (a : Tile) (off : Src) (md : Tile) :
  Statement (.mmaSp h z ty row a off md) := by
  intro hw f hf
  obtain rfl := Option.some.inj hf
  have h5 := (band hw).2
  have e_off := srcOf_enc off _ (band (band h5).1).2
  refine ⟨.x4, _, rfl, rfl, build_lane 0x161 rfl (by decide) (ofCode_ty _) rfl, ?_⟩
  simp only [Built.ok, bRto, f4, tileOf_enc, rowOf_enc, var_one, e_off, Bool.and_self, and_self]

theorem Sys2Proof.Laws.Decodes.sprune (h : Hdr) (ty : Ty) (d : Tile) (a : Tile) (c : Tile) : Statement (.sprune h ty d a c) := by
  intro hw f hf
  obtain rfl := Option.some.inj hf
  refine ⟨.x4, _, rfl, rfl, build_lane 0x162 rfl (by decide) (ofCode_ty _) rfl, ?_⟩
  simp only [Built.ok, f4, tileOf_enc, Bool.and_self, and_self]

theorem Sys2Proof.Laws.Decodes.mdist (h : Hdr) (z : Bool) (ty : Ty) (row : Row) (a : Tile) (off : Src) : Statement (.mdist h
  z ty row a off) := by
  intro hw f hf
  obtain rfl := Option.some.inj hf
  have h5 := (band hw).2
  have e_off := srcOf_enc off _ (band h5).2
  refine ⟨.x4, _, rfl, rfl, build_lane 0x163 rfl (by decide) (ofCode_ty _) rfl, ?_⟩
  simp only [Built.ok, bRto, f4, tileOf_enc, rowOf_enc, var_one, e_off, Bool.and_self, and_self]

theorem Sys2Proof.Laws.Decodes.mtopk (h : Hdr) (max : Bool) (ty : Ty) (d : Tile) (row : Row) (g0 : Src) (k : Src) : Statement
  (.mtopk h max ty d row g0 k) := by
  intro hw f hf
  obtain rfl := Option.some.inj hf
  have h5 := (band hw).2
  have e_g0 := srcOf_enc g0 _ (band (band h5).1).2
  have e_k := srcOf_enc k _ (band h5).2
  refine ⟨.x4, _, rfl, rfl, build_lane 0x164 rfl (by decide) (ofCode_ty _) rfl, ?_⟩
  simp only [Built.ok, f4, tileOf_enc, rowOf_enc, var_one, e_g0, e_k, Bool.and_self, and_self]

theorem Sys2Proof.Laws.Decodes.acz (h : Hdr) (row : Row) (n : Src) : Statement (.acz h row n) := by
  intro hw f hf
  obtain rfl := Option.some.inj hf
  have h5 := (band hw).2
  have e_n := srcOf_enc n _ h5
  refine ⟨.x3, _, rfl, rfl, build_lane 0x165 rfl (by decide) rfl rfl, ?_⟩
  simp only [Built.ok, fs, rowOf_enc, e_n, Bool.and_self, and_self]

theorem Sys2Proof.Laws.Decodes.acld (h : Hdr) (row : Row) (off : Src) (n : Src) (tok : GReg) : Statement (.acld h row off n
  tok) := by
  intro hw f hf
  obtain rfl := Option.some.inj hf
  have h5 := (band hw).2
  have e_off := srcOf_enc off _ (band h5).1
  have e_n := srcOf_enc n _ (band h5).2
  refine ⟨.x4, _, rfl, rfl, build_lane 0x166 rfl (by decide) rfl rfl, ?_⟩
  simp only [Built.ok, f4, rowOf_enc, gOf_enc, e_off, e_n, Bool.and_self, and_self]

theorem Sys2Proof.Laws.Decodes.acst (h : Hdr) (row : Row) (off : Src) (n : Src) (tok : GReg) : Statement (.acst h row off n
  tok) := by
  intro hw f hf
  obtain rfl := Option.some.inj hf
  have h5 := (band hw).2
  have e_off := srcOf_enc off _ (band h5).1
  have e_n := srcOf_enc n _ (band h5).2
  refine ⟨.x4, _, rfl, rfl, build_lane 0x167 rfl (by decide) rfl rfl, ?_⟩
  simp only [Built.ok, f4, rowOf_enc, gOf_enc, e_off, e_n, Bool.and_self, and_self]

theorem Sys2Proof.Laws.Decodes.accp (h : Hdr) (ty : Ty) (d : Row) (b : Row) (n : Src) : Statement (.accp h ty d b n) := by
  intro hw f hf
  obtain rfl := Option.some.inj hf
  have h5 := (band hw).2
  have e_n := srcOf_enc n _ h5
  refine ⟨.x4, _, rfl, rfl, build_lane 0x168 rfl (by decide) (ofCode_ty _) rfl, ?_⟩
  simp only [Built.ok, f4, rowOf_enc, e_n, Bool.and_self, and_self]

theorem Sys2Proof.Laws.Decodes.acsc (h : Hdr) (ty : Ty) (var : BitVec 2) (off : Src) (row : Row) (n : Src) (f : Src) :
  Statement (.acsc h ty var off row n f) := by
  intro hw f hf
  obtain rfl := Option.some.inj hf
  have h5 := (band hw).2
  have e_off := srcOf_enc off _ (band (band h5).1).1
  have e_n := srcOf_enc n _ (band (band h5).1).2
  have e_f := srcOf_enc f _ (band h5).2
  refine ⟨.x4, _, rfl, rfl, build_lane 0x169 rfl (by decide) (ofCode_ty _) rfl, ?_⟩
  simp only [Built.ok, f4, rowOf_enc, e_off, e_n, e_f, Bool.and_self, and_self]

theorem Sys2Proof.Laws.Decodes.tcopy (h : Hdr) (tok : GReg) (off : Src) : Statement (.tcopy h tok off) := by
  intro hw f hf
  obtain rfl := Option.some.inj hf
  have h5 := (band hw).2
  have e_off := srcOf_enc off _ h5
  refine ⟨.e, _, rfl, rfl, build_eng 0x180 rfl (by decide) rfl rfl, ?_⟩
  simp only [Built.ok, fe, gOf_enc, e_off, Bool.and_self, and_self]

theorem Sys2Proof.Laws.Decodes.gather (h : Hdr) (tok : GReg) (off : Src) : Statement (.gather h tok off) := by
  intro hw f hf
  obtain rfl := Option.some.inj hf
  have h5 := (band hw).2
  have e_off := srcOf_enc off _ h5
  refine ⟨.e, _, rfl, rfl, build_eng 0x181 rfl (by decide) rfl rfl, ?_⟩
  simp only [Built.ok, fe, gOf_enc, e_off, Bool.and_self, and_self]

theorem Sys2Proof.Laws.Decodes.crdOpen (h : Hdr) (op : CrdOp) (c : Src) (da : Src) (db : Src) : Statement (.crdOpen h op c da
  db) := by
  intro hw f hf
  obtain rfl := Option.some.inj hf
  have h5 := (band hw).2
  have e_c := srcOf_enc c _ (band (band h5).1).1
  have e_da := srcOf_enc da _ (band (band h5).1).2
  have e_db := srcOf_enc db _ (band h5).2
  have h4 : ((op != .enum && op != .expand) || db == Src.unused) = true := (band hw).1
  have e_i := srcIf_enc (op != .enum && op != .expand) db (by have : db.ok false = true := (band h5).2; cases op <;> simp_all)
  refine ⟨.e, _, rfl, rfl, build_eng 0x182 rfl (by decide) rfl (congrArg (Option.map _) (ofCode_crd op)), ?_⟩
  simp only [Built.ok, bAb, fe, e_c, e_da, e_i, Bool.and_self, and_self]

theorem Sys2Proof.Laws.Decodes.crdSplit (h : Hdr) (c : Src) (n : Src) (i : Src) : Statement (.crdSplit h c n i) := by
  intro hw f hf
  obtain rfl := Option.some.inj hf
  have h5 := (band hw).2
  have e_c := srcOf_enc c _ (band (band h5).1).1
  have e_n := srcOf_enc n _ (band (band h5).1).2
  have e_i := srcOf_enc i _ (band h5).2
  refine ⟨.e, _, rfl, rfl, build_eng 0x183 rfl (by decide) rfl rfl, ?_⟩
  simp only [Built.ok, bAb, fe, e_c, e_n, e_i, Bool.and_self, and_self]

theorem Sys2Proof.Laws.Decodes.crdNext (h : Hdr) (d : GReg) (c : Src) (p : PReg) : Statement (.crdNext h d c p) := by
  intro hw f hf
  obtain rfl := Option.some.inj hf
  have h5 := (band hw).2
  have e_c := srcOf_enc c _ h5
  refine ⟨.e, _, rfl, rfl, build_eng 0x184 rfl (by decide) rfl rfl, ?_⟩
  simp only [Built.ok, fe, predOf_enc, gOf_enc, e_c, Bool.and_self, and_self]

theorem Sys2Proof.Laws.Decodes.crdSave (h : Hdr) (sp : Bool) (c : Src) (b : Reg) : Statement (.crdSave h sp c b) := by
  intro hw f hf
  obtain rfl := Option.some.inj hf
  have h5 := (band hw).2
  have e_c := srcOf_enc c _ (band h5).1
  have e_b := regOf_enc b _ (band h5).2
  refine ⟨.e, _, rfl, rfl, build_eng 0x185 rfl (by decide) rfl rfl, ?_⟩
  simp only [Built.ok, fe, cmd_one, e_c, e_b, Bool.and_self, and_self]

theorem Sys2Proof.Laws.Decodes.crdLoad (h : Hdr) (sp : Bool) (c : Src) (b : Reg) : Statement (.crdLoad h sp c b) := by
  intro hw f hf
  obtain rfl := Option.some.inj hf
  have h5 := (band hw).2
  have e_c := srcOf_enc c _ (band h5).1
  have e_b := regOf_enc b _ (band h5).2
  refine ⟨.e, _, rfl, rfl, build_eng 0x186 rfl (by decide) rfl rfl, ?_⟩
  simp only [Built.ok, fe, cmd_one, e_c, e_b, Bool.and_self, and_self]

theorem Sys2Proof.Laws.Decodes.crdClose (h : Hdr) (c : Src) : Statement (.crdClose h c) := by
  intro hw f hf
  obtain rfl := Option.some.inj hf
  have h5 := (band hw).2
  have e_c := srcOf_enc c _ h5
  refine ⟨.e, _, rfl, rfl, build_eng 0x187 rfl (by decide) rfl rfl, ?_⟩
  simp only [Built.ok, bA, fe, e_c, Bool.and_self, and_self]

theorem Sys2Proof.Laws.Decodes.spill (h : Hdr) (sp : Bool) (tok : GReg) (a : Tile) (b : Src) (n : Src) : Statement (.spill h
  sp tok a b n) := by
  intro hw f hf
  obtain rfl := Option.some.inj hf
  have h5 := (band hw).2
  have e_n := srcOf_enc n _ (band h5).1
  have e_b := spillOf_enc (h := h) (tok := tok) (a := a) h5
  refine ⟨.e, _, rfl, rfl, build_eng 0x188 rfl (by decide) rfl rfl, ?_⟩
  simp only [Built.ok, bSpill, fe, tileOf_enc, gOf_enc, cmd_one, e_n, e_b, Bool.and_self, and_self]

theorem Sys2Proof.Laws.Decodes.fill (h : Hdr) (sp : Bool) (tok : GReg) (a : Tile) (b : Src) (n : Src) : Statement (.fill h sp
  tok a b n) := by
  intro hw f hf
  obtain rfl := Option.some.inj hf
  have h5 := (band hw).2
  have e_n := srcOf_enc n _ (band h5).1
  have e_b := spillOf_enc (h := h) (tok := tok) (a := a) h5
  refine ⟨.e, _, rfl, rfl, build_eng 0x189 rfl (by decide) rfl rfl, ?_⟩
  simp only [Built.ok, bSpill, fe, tileOf_enc, gOf_enc, cmd_one, e_n, e_b, Bool.and_self, and_self]

theorem Sys2Proof.Laws.Decodes.rclaim (h : Hdr) (k : Src) : Statement (.rclaim h k) := by
  intro hw f hf
  obtain rfl := Option.some.inj hf
  have h5 := (band hw).2
  have e_k := srcOf_enc k _ h5
  refine ⟨.e, _, rfl, rfl, build_eng 0x18A rfl (by decide) rfl rfl, ?_⟩
  simp only [Built.ok, bA, fe, e_k, Bool.and_self, and_self]

theorem Sys2Proof.Laws.Decodes.rgive (h : Hdr) (k : Src) : Statement (.rgive h k) := by
  intro hw f hf
  obtain rfl := Option.some.inj hf
  have h5 := (band hw).2
  have e_k := srcOf_enc k _ h5
  refine ⟨.e, _, rfl, rfl, build_eng 0x18B rfl (by decide) rfl rfl, ?_⟩
  simp only [Built.ok, bA, fe, e_k, Bool.and_self, and_self]

theorem Sys2Proof.Laws.Decodes.barTeam (h : Hdr) : Statement (.barTeam h) := by
  intro hw f hf
  obtain rfl := Option.some.inj hf
  refine ⟨.x3, _, rfl, rfl, build_sys 0x1C0 rfl (by decide) rfl rfl, ?_⟩
  exact ⟨rfl, rfl⟩

theorem Sys2Proof.Laws.Decodes.barRole (h : Hdr) : Statement (.barRole h) := by
  intro hw f hf
  obtain rfl := Option.some.inj hf
  refine ⟨.x3, _, rfl, rfl, build_sys 0x1C1 rfl (by decide) rfl rfl, ?_⟩
  exact ⟨rfl, rfl⟩

theorem Sys2Proof.Laws.Decodes.barTree (h : Hdr) (tag : Src) : Statement (.barTree h tag) := by
  intro hw f hf
  obtain rfl := Option.some.inj hf
  have h5 := (band hw).2
  have e_tag := srcOf_enc tag _ h5
  refine ⟨.x3, _, rfl, rfl, build_sys 0x1C2 rfl (by decide) rfl rfl, ?_⟩
  simp only [Built.ok, bA, fs, e_tag, Bool.and_self, and_self]

theorem Sys2Proof.Laws.Decodes.arrive (h : Hdr) (off : Src) (n : Src) : Statement (.arrive h off n) := by
  intro hw f hf
  obtain rfl := Option.some.inj hf
  have h5 := (band hw).2
  have e_off := srcOf_enc off _ (band h5).1
  have e_n := srcOf_enc n _ (band h5).2
  refine ⟨.x3, _, rfl, rfl, build_sys 0x1C3 rfl (by decide) rfl rfl, ?_⟩
  simp only [Built.ok, bAb, fs, e_off, e_n, Bool.and_self, and_self]

theorem Sys2Proof.Laws.Decodes.waitCtr (h : Hdr) (off : Src) (target : Src) : Statement (.waitCtr h off target) := by
  intro hw f hf
  obtain rfl := Option.some.inj hf
  have h5 := (band hw).2
  have e_off := srcOf_enc off _ (band h5).1
  have e_target := srcOf_enc target _ (band h5).2
  refine ⟨.x3, _, rfl, rfl, build_sys 0x1C4 rfl (by decide) rfl rfl, ?_⟩
  simp only [Built.ok, bAb, fs, e_off, e_target, Bool.and_self, and_self]

theorem Sys2Proof.Laws.Decodes.trap (h : Hdr) (code : Src) : Statement (.trap h code) := by
  intro hw f hf
  obtain rfl := Option.some.inj hf
  have h5 := (band hw).2
  have e_code := srcOf_enc code _ h5
  refine ⟨.x3, _, rfl, rfl, build_sys 0x1C5 rfl (by decide) rfl rfl, ?_⟩
  simp only [Built.ok, bA, fs, e_code, Bool.and_self, and_self]

theorem Sys2Proof.Laws.Decodes.brk (h : Hdr) : Statement (.brk h) := by
  intro hw f hf
  obtain rfl := Option.some.inj hf
  refine ⟨.x3, _, rfl, rfl, build_sys 0x1C6 rfl (by decide) rfl rfl, ?_⟩
  exact ⟨rfl, rfl⟩

theorem Sys2Proof.Laws.Decodes.srd (h : Hdr) (wide : Bool) (d : Reg) (num : Word) : Statement (.srd h wide d num) := by
  intro hw f hf
  obtain rfl := Option.some.inj hf
  have h5 := (band hw).2
  have e_d := regOf_enc d _ h5
  refine ⟨.xi, _, rfl, rfl, build_sys 0x1C7 rfl (by decide) (ofCode_ty _) rfl, ?_⟩
  simp only [Built.ok, fi, b64_wide, e_d, Bool.and_self, and_self]

theorem Sys2Proof.Laws.Decodes.swr (h : Hdr) (wide : Bool) (num : Word) (a : Src) : Statement (.swr h wide num a) := by
  intro hw f hf
  obtain rfl := Option.some.inj hf
  have h5 := (band hw).2
  have e_a := srcOf_enc a _ h5
  refine ⟨.xi, _, rfl, rfl, build_sys 0x1C8 rfl (by decide) (ofCode_ty _) rfl, ?_⟩
  simp only [Built.ok, bA, fi, b64_wide, e_a, Bool.and_self, and_self]

theorem Sys2Proof.Laws.Decodes.halt (h : Hdr) : Statement (.halt h) := by
  intro hw f hf
  obtain rfl := Option.some.inj hf
  refine ⟨.x3, _, rfl, rfl, build_sys 0x1C9 rfl (by decide) rfl rfl, ?_⟩
  exact ⟨rfl, rfl⟩

theorem Sys2Proof.Laws.Decodes.tlbinvAll (h : Hdr) (v : Src) : Statement (.tlbinvAll h v) := by
  intro hw f hf
  obtain rfl := Option.some.inj hf
  have h5 := (band hw).2
  have e_v := srcOf_enc v _ h5
  refine ⟨.x3, _, rfl, rfl, build_sys 0x1CA rfl (by decide) rfl rfl, ?_⟩
  simp only [Built.ok, bA, fs, e_v, Bool.and_self, and_self]

theorem Sys2Proof.Laws.Decodes.tlbinvPage (h : Hdr) (v : Src) (a : Src) : Statement (.tlbinvPage h v a) := by
  intro hw f hf
  obtain rfl := Option.some.inj hf
  have h5 := (band hw).2
  have e_v := srcOf_enc v _ (band h5).1
  have e_a := srcOf_enc a _ (band h5).2
  refine ⟨.x3, _, rfl, rfl, build_sys 0x1CA rfl (by decide) rfl rfl, ?_⟩
  simp only [Built.ok, bAb, fs, e_v, e_a, Bool.and_self, and_self]

theorem Sys2Proof.Laws.Decodes.roinvAll (h : Hdr) (v : Src) : Statement (.roinvAll h v) := by
  intro hw f hf
  obtain rfl := Option.some.inj hf
  have h5 := (band hw).2
  have e_v := srcOf_enc v _ h5
  refine ⟨.x3, _, rfl, rfl, build_sys 0x1CB rfl (by decide) rfl rfl, ?_⟩
  simp only [Built.ok, bA, fs, e_v, Bool.and_self, and_self]

theorem Sys2Proof.Laws.Decodes.roinvPage (h : Hdr) (v : Src) (a : Src) : Statement (.roinvPage h v a) := by
  intro hw f hf
  obtain rfl := Option.some.inj hf
  have h5 := (band hw).2
  have e_v := srcOf_enc v _ (band h5).1
  have e_a := srcOf_enc a _ (band h5).2
  refine ⟨.x3, _, rfl, rfl, build_sys 0x1CB rfl (by decide) rfl rfl, ?_⟩
  simp only [Built.ok, bAb, fs, e_v, e_a, Bool.and_self, and_self]

theorem Sys2Proof.Laws.Decodes.pick (core : Nat) (half : Nat) : Statement (.pick core half) := by
  intro _ f hf
  cases hf

theorem Sys2Proof.Laws.Decodes.firstHopAccept (core : Nat) (ctx : Nat) : Statement (.firstHopAccept core ctx) := by
  intro _ f hf
  cases hf

theorem Sys2Proof.Laws.Decodes.frameArrival (n : Nat) : Statement (.frameArrival n) := by
  intro _ f hf
  cases hf

theorem Sys2Proof.Laws.Decodes.admitCore (core : Nat) : Statement (.admitCore core) := by
  intro _ f hf
  cases hf

theorem Sys2Proof.Laws.Decodes.firewallBounce (n : Nat) : Statement (.firewallBounce n) := by
  intro _ f hf
  cases hf

theorem Sys2Proof.Laws.Decodes.firewallDrop (req : Nat) : Statement (.firewallDrop req) := by
  intro _ f hf
  cases hf

theorem Sys2Proof.Laws.Decodes.teamPlacement (vf : Nat) : Statement (.teamPlacement vf) := by
  intro _ f hf
  cases hf

theorem Sys2Proof.Laws.Decodes.reservationRequest (n : Nat) : Statement (.reservationRequest n) := by
  intro _ f hf
  cases hf

theorem Sys2Proof.Laws.Decodes.reservationGrant (n : Nat) : Statement (.reservationGrant n) := by
  intro _ f hf
  cases hf

theorem Sys2Proof.Laws.Decodes.gridCountDecrement (n : Nat) : Statement (.gridCountDecrement n) := by
  intro _ f hf
  cases hf

theorem Sys2Proof.Laws.Decodes.gridComplete (grid : Nat) : Statement (.gridComplete grid) := by
  intro _ f hf
  cases hf

theorem Sys2Proof.Laws.Decodes.claimServed (core : Nat) (team : Nat) : Statement (.claimServed core team) := by
  intro _ f hf
  cases hf

theorem Sys2Proof.Laws.Decodes.releaseComplete (core : Nat) (team : Nat) : Statement (.releaseComplete core team) := by
  intro _ f hf
  cases hf

theorem Sys2Proof.Laws.Decodes.teamDeadlock (core : Nat) (team : Nat) : Statement (.teamDeadlock core team) := by
  intro _ f hf
  cases hf

theorem Sys2Proof.Laws.Decodes.treeRelease (part : Nat) (tag : Nat) : Statement (.treeRelease part tag) := by
  intro _ f hf
  cases hf

theorem Sys2Proof.Laws.Decodes.dictionaryLoad (core : Nat) (vf : Nat) (handle : Nat) : Statement (.dictionaryLoad core vf
  handle) := by
  intro _ f hf
  cases hf

theorem Sys2Proof.Laws.Decodes.remoteRequestSend (req : Nat) : Statement (.remoteRequestSend req) := by
  intro _ f hf
  cases hf

theorem Sys2Proof.Laws.Decodes.perform (req : Nat) : Statement (.perform req) := by
  intro _ f hf
  cases hf

theorem Sys2Proof.Laws.Decodes.tableWalk (core : Nat) (vf : Nat) (va : BitVec 64) : Statement (.tableWalk core vf va) := by
  intro _ f hf
  cases hf

theorem Sys2Proof.Laws.Decodes.requestResponse (req : Nat) : Statement (.requestResponse req) := by
  intro _ f hf
  cases hf

theorem Sys2Proof.Laws.Decodes.roSectorFill (n : Nat) : Statement (.roSectorFill n) := by
  intro _ f hf
  cases hf

theorem Sys2Proof.Laws.Decodes.mcstForward (req : Nat) (die : Nat) : Statement (.mcstForward req die) := by
  intro _ f hf
  cases hf

theorem Sys2Proof.Laws.Decodes.flushMarkerAck (core : Nat) (ctx : Nat) (n : Nat) : Statement (.flushMarkerAck core ctx n) := by
  intro _ f hf
  cases hf

theorem Sys2Proof.Laws.Decodes.copyElement (core : Nat) (op : Nat) (elem : Nat) : Statement (.copyElement core op elem) := by
  intro _ f hf
  cases hf

theorem Sys2Proof.Laws.Decodes.gatherRow (core : Nat) (op : Nat) (row : Nat) : Statement (.gatherRow core op row) := by
  intro _ f hf
  cases hf

theorem Sys2Proof.Laws.Decodes.copyComplete (core : Nat) (op : Nat) : Statement (.copyComplete core op) := by
  intro _ f hf
  cases hf

theorem Sys2Proof.Laws.Decodes.spillComplete (core : Nat) (op : Nat) : Statement (.spillComplete core op) := by
  intro _ f hf
  cases hf

theorem Sys2Proof.Laws.Decodes.matrixOpStart (core : Nat) : Statement (.matrixOpStart core) := by
  intro _ f hf
  cases hf

theorem Sys2Proof.Laws.Decodes.matrixOpComplete (core : Nat) : Statement (.matrixOpComplete core) := by
  intro _ f hf
  cases hf

theorem Sys2Proof.Laws.Decodes.engineReset (core : Nat) : Statement (.engineReset core) := by
  intro _ f hf
  cases hf

theorem Sys2Proof.Laws.Decodes.crdNextComplete (core : Nat) (slot : Nat) : Statement (.crdNextComplete core slot) := by
  intro _ f hf
  cases hf

theorem Sys2Proof.Laws.Decodes.crdSplitComplete (core : Nat) (slot : Nat) : Statement (.crdSplitComplete core slot) := by
  intro _ f hf
  cases hf

theorem Sys2Proof.Laws.Decodes.unitPark (issue : Nat) (key : Nat) : Statement (.unitPark issue key) := by
  intro _ f hf
  cases hf

theorem Sys2Proof.Laws.Decodes.faultQueueRetry (n : Nat) : Statement (.faultQueueRetry n) := by
  intro _ f hf
  cases hf

theorem Sys2Proof.Laws.Decodes.replay (vf : Nat) (seq : DWord) : Statement (.replay vf seq) := by
  intro _ f hf
  cases hf

theorem Sys2Proof.Laws.Decodes.kill (vf : Nat) (seq : DWord) : Statement (.kill vf seq) := by
  intro _ f hf
  cases hf

theorem Sys2Proof.Laws.Decodes.slotEnd (part : Nat) : Statement (.slotEnd part) := by
  intro _ f hf
  cases hf

theorem Sys2Proof.Laws.Decodes.forcedHalt (part : Nat) : Statement (.forcedHalt part) := by
  intro _ f hf
  cases hf

theorem Sys2Proof.Laws.Decodes.lazyEviction (core : Nat) (u : EvictUnit) : Statement (.lazyEviction core u) := by
  intro _ f hf
  cases hf

theorem Sys2Proof.Laws.Decodes.teamRestore (core : Nat) (team : Nat) : Statement (.teamRestore core team) := by
  intro _ f hf
  cases hf

theorem Sys2Proof.Laws.Decodes.freeThreadRestore (core : Nat) (ctx : Nat) : Statement (.freeThreadRestore core ctx) := by
  intro _ f hf
  cases hf

theorem Sys2Proof.Laws.Decodes.calendarRun (part : Nat) (v : Word) : Statement (.calendarRun part v) := by
  intro _ f hf
  cases hf

theorem Sys2Proof.Laws.Decodes.calendarStop (part : Nat) (v : Word) : Statement (.calendarStop part v) := by
  intro _ f hf
  cases hf

theorem Sys2Proof.Laws.Decodes.calslotWrite (part : Nat) (slot : Nat) (v : Word) : Statement (.calslotWrite part slot v) := by
  intro _ f hf
  cases hf

theorem Sys2Proof.Laws.Decodes.vfReset (vf : Nat) : Statement (.vfReset vf) := by
  intro _ f hf
  cases hf

theorem Sys2Proof.Laws.Decodes.vfResetComplete (vf : Nat) : Statement (.vfResetComplete vf) := by
  intro _ f hf
  cases hf

theorem Sys2Proof.Laws.Decodes.doorbellAppend (vf : Nat) (chain : Nat) (v : DWord) : Statement (.doorbellAppend vf chain v) := by
  intro _ f hf
  cases hf

theorem Sys2Proof.Laws.Decodes.unsupportedRequest (vf : Nat) (off : Nat) (size : Nat) (write : Bool) : Statement
  (.unsupportedRequest vf off size write) := by
  intro _ f hf
  cases hf

theorem Sys2Proof.Laws.Decodes.blockStart (vf : Nat) (chain : Nat) : Statement (.blockStart vf chain) := by
  intro _ f hf
  cases hf

theorem Sys2Proof.Laws.Decodes.chainAdvance (vf : Nat) (chain : Nat) : Statement (.chainAdvance vf chain) := by
  intro _ f hf
  cases hf

theorem Sys2Proof.Laws.Decodes.kernelRegister (vf : Nat) : Statement (.kernelRegister vf) := by
  intro _ f hf
  cases hf

theorem Sys2Proof.Laws.Decodes.kernelUnregister (vf : Nat) (handle : BitVec 16) : Statement (.kernelUnregister vf handle) := by
  intro _ f hf
  cases hf

theorem Sys2Proof.Laws.Decodes.regionTableLoad (vf : Nat) : Statement (.regionTableLoad vf) := by
  intro _ f hf
  cases hf

theorem Sys2Proof.Laws.Decodes.keyGenerate (vf : Nat) : Statement (.keyGenerate vf) := by
  intro _ f hf
  cases hf

theorem Sys2Proof.Laws.Decodes.keyDestroy (vf : Nat) : Statement (.keyDestroy vf) := by
  intro _ f hf
  cases hf

theorem Sys2Proof.Laws.Decodes.pcinv (vf : Nat) : Statement (.pcinv vf) := by
  intro _ f hf
  cases hf

theorem Sys2Proof.Laws.Decodes.ownerWrite (core : Nat) (frame : Nat) (v : BitVec 16) : Statement (.ownerWrite core frame v) := by
  intro _ f hf
  cases hf

theorem Sys2Proof.Laws.Decodes.frameScrub (core : Nat) (frame : Nat) (v : BitVec 16) : Statement (.frameScrub core frame v) := by
  intro _ f hf
  cases hf

theorem Sys2Proof.Laws.Decodes.scrubComplete (core : Nat) (frame : Nat) : Statement (.scrubComplete core frame) := by
  intro _ f hf
  cases hf

theorem Sys2Proof.Laws.Decodes.winpageAdd (win : Nat) (v : DWord) : Statement (.winpageAdd win v) := by
  intro _ f hf
  cases hf

theorem Sys2Proof.Laws.Decodes.winpageClear (win : Nat) : Statement (.winpageClear win) := by
  intro _ f hf
  cases hf

theorem Sys2Proof.Laws.Decodes.windowOpen (win : Nat) (v : DWord) : Statement (.windowOpen win v) := by
  intro _ f hf
  cases hf

theorem Sys2Proof.Laws.Decodes.windowCloseRekey (win : Nat) (v : DWord) : Statement (.windowCloseRekey win v) := by
  intro _ f hf
  cases hf

theorem Sys2Proof.Laws.Decodes.windowCloseDestroy (win : Nat) (v : DWord) : Statement (.windowCloseDestroy win v) := by
  intro _ f hf
  cases hf

theorem Sys2Proof.Laws.Decodes.rekeyComplete (win : Nat) : Statement (.rekeyComplete win) := by
  intro _ f hf
  cases hf

theorem Sys2Proof.Laws.Decodes.octmapWrite (i : Nat) (v : DWord) : Statement (.octmapWrite i v) := by
  intro _ f hf
  cases hf

theorem Sys2Proof.Laws.Decodes.partcfgWrite (part : Nat) (v : Word) : Statement (.partcfgWrite part v) := by
  intro _ f hf
  cases hf

theorem Sys2Proof.Laws.Decodes.ethcfgWrite (port : Nat) (v : DWord) : Statement (.ethcfgWrite port v) := by
  intro _ f hf
  cases hf

theorem Sys2Proof.Laws.Decodes.privilegedRegisterWrite (sel : Sel) (num : BitVec 16) (v : DWord) : Statement
  (.privilegedRegisterWrite sel num v) := by
  intro _ f hf
  cases hf

theorem Sys2Proof.Laws.Decodes.cxlMemRead (addr : Nat) (n : Nat) : Statement (.cxlMemRead addr n) := by
  intro _ f hf
  cases hf

theorem Sys2Proof.Laws.Decodes.cxlMemWrite (addr : Nat) (data : List Byte) : Statement (.cxlMemWrite addr data) := by
  intro _ f hf
  cases hf

theorem Sys2Proof.Laws.Decodes.cxlCacheSnoop (addr : Nat) : Statement (.cxlCacheSnoop addr) := by
  intro _ f hf
  cases hf

theorem Sys2Proof.Laws.Decodes.attestationRequest (nonce : List Byte) : Statement (.attestationRequest nonce) := by
  intro _ f hf
  cases hf

theorem Sys2Proof.Laws.Decodes.powerOn  : Statement (.powerOn ) := by
  intro _ f hf
  cases hf

theorem Sys2Proof.Laws.Decodes.dieResetRelease  : Statement (.dieResetRelease ) := by
  intro _ f hf
  cases hf

theorem Sys2Proof.Laws.Decodes.firmwareImageLoad (die : Nat) (image : List (List Byte)) (sig : List Byte) : Statement
  (.firmwareImageLoad die image sig) := by
  intro _ f hf
  cases hf

theorem Sys2Proof.Laws.Decodes.powerInterval (watts : Nat) : Statement (.powerInterval watts) := by
  intro _ f hf
  cases hf

theorem Sys2Proof.Laws.Decodes.thermalThrottle (temp : Nat) : Statement (.thermalThrottle temp) := by
  intro _ f hf
  cases hf

theorem Sys2Proof.Laws.Decodes.thermalStop (temp : Nat) : Statement (.thermalStop temp) := by
  intro _ f hf
  cases hf

theorem Sys2Proof.Laws.Decodes.thermalResume (temp : Nat) : Statement (.thermalResume temp) := by
  intro _ f hf
  cases hf

theorem Sys2Proof.Laws.Decodes.firmwareWake (core : Nat) (ctx : Nat) : Statement (.firmwareWake core ctx) := by
  intro _ f hf
  cases hf

theorem Sys2Proof.Laws.Decodes.errorDetected (core : Nat) (u : ErrUnit) (loc : BitVec 48) (outcome : BitVec 4) (syndrome :
  DWord) : Statement (.errorDetected core u loc outcome syndrome) := by
  intro _ f hf
  cases hf

theorem Sys2Proof.Laws.Decodes.selfTestTrial (n : Nat) (reproduced : Bool) : Statement (.selfTestTrial n reproduced) := by
  intro _ f hf
  cases hf

theorem Sys2Proof.Laws.Decodes.linkRetry (link : Nat) (ok : Bool) : Statement (.linkRetry link ok) := by
  intro _ f hf
  cases hf

theorem Sys2Proof.Laws.Decodes.packetReceive (port : Nat) (p : Packet) : Statement (.packetReceive port p) := by
  intro _ f hf
  cases hf

theorem Sys2Proof.Laws.Decodes.packetAck (port : Nat) (n : Nat) : Statement (.packetAck port n) := by
  intro _ f hf
  cases hf

theorem Sys2Proof.Laws.Decodes.retransmit (port : Nat) (n : Nat) : Statement (.retransmit port n) := by
  intro _ f hf
  cases hf

theorem Sys2Proof.Laws.Decodes.lowmaxService (port : Nat) (cls : Nat) : Statement (.lowmaxService port cls) := by
  intro _ f hf
  cases hf

end
end

