-- ==== Sys2Proof/Tests/Slice0.lean ====
section
/-! SUPPORT. The tests: for every statement of `Obligations`, `hyp_` theorems that meet its hypotheses; ill-formed terms
that `WellFormed` refuses; words written out from the spec's encodings; and results that the spec works out. -/

namespace Sys2Proof.Tests
open Sys2Proof.Machine Sys2Proof.Safety Sys2Proof.Claims

/-! ## Small states -/

/-- An issue of contexts of core 0 at parcel 0. -/
def issue (rel : Bool) (lanes : List Nat) : Issue := ⟨0, 0, lanes, 0, 0, none, 6, rel⟩

/-- A ready thread of VF 0 under kernel 1. -/
def thread (g : Option (Nat × Nat)) : Thread := { (default : Thread) with st := .ready, khandle := 1, group := g }

/-- The package with VF 0 running in partition 0, which holds octant 0. Region 0 lies at core 0, region 1 at core 1, region 2 is replicated
on die 0; each has a page in a TLB. -/
def base : State :=
  let s := State.reset.modVf 0 fun v => { v with
    enable := true, vfrun := 1, kernels := [(1, { (default : Kernel) with live := true, migratory := true })]
    regs := [(0, { (default : Region) with func := 3, size := 16 }),
      (1, { (default : Region) with func := 3, base := 0x100000, size := 16, core0 := 1 }),
      (2, { (default : Region) with func := 4, base := 0x200000, size := 16, npkg := 1, dieMask := 1 })] }
  let s : State := { s with octmap := [(0, some 0)] }
  let s := s.modCore 0 fun k => { k with tlb := [⟨0, 0, 3, [(0, true)]⟩, ⟨0, 32, 2 ^ 47 + 3, [(0, true)]⟩] }
  s.modCore 1 fun k => { k with tlb := [⟨0, 16, 3, [(32768, true)]⟩] }

/-- A free thread in context 0 of core 0. -/
def free : State := { (base.setThread 0 0 (thread none)) with issues := [issue false [0]] }

/-- A group of two, in contexts 0 and 1 of core 0, with scratchpad and accumulators; `f` changes a thread. -/
def group2 (rel : Bool) (f : Thread → Thread) : State :=
  let s := (base.setThread 0 0 (f (thread (some (0, 0))))).setThread 0 1 (f (thread (some (0, 1))))
  let s := s.setGroup 0 0 { (default : Group) with live := true, width := 2, budget := 64, members := [0, 1] }
  let s := s.modTeam 0 0 fun t => { t with
    live := true, groups := [0], spBlocks := 16, accBlocks := 4, poolRows := 64, free := 1024 }
  { s with issues := [issue rel [0, 1]] }

/-- The group of two with every register zero. -/
def bound (rel : Bool) : State := group2 rel id

/-- A thread with words in its lane registers. -/
def withRegs (ws : List (Nat × Word)) (t : Thread) : Thread :=
  ws.foldl (fun t w => { t with regs := Tbl.set t.regs w.1 (RegWord.ofVal w.2) }) t

/-! ## Hypotheses as checks -/

theorem readable_of {s : State} {l : Lane} {rs : List WRef}
    (h : (rs.all fun r => !s.isEmpty l.core l.t r && !(s.word l.core l.t r).poison && (s.word l.core l.t r).token.isNone) = true) :
    Readable s l rs := by
  intro r hr
  have := List.all_eq_true.mp h r hr
  simp only [Bool.and_eq_true, Bool.not_eq_true', Option.isNone_iff_eq_none] at this
  exact ⟨this.1.1, this.1.2, this.2⟩

/-- The lanes of an issue are those of group 0 in rising order, or one free thread. -/
def unitOk (ls : List Lane) : Bool :=
  (ls.all (fun l => l.t.group.map Prod.fst == some 0) && decide (ls.Pairwise fun a b => a.lane < b.lane)) ||
    match ls with
    | [l] => l.t.group == none
    | _ => false

/-- References that may be read and written in every lane. -/
def ableOk (s : State) (ls : List Lane) (rd wr : List WRef) : Bool :=
  ls.all fun l =>
    (rd.all fun r => !s.isEmpty l.core l.t r && !(s.word l.core l.t r).poison && (s.word l.core l.t r).token.isNone) &&
      wr.all fun r => s.isFull l.core l.t r

/-- An instruction may execute as the first issue of a state: it is well-formed, its lanes form a unit and pass the decode checks, the
sources may be read and the destinations written. -/
def fits (s : State) (iss : Issue) (rest : List Issue) (i : Instr) (rd wr : List WRef) : Bool :=
  let ls := lanesOf s iss rest bare
  WellFormed i && unitOk ls && ls.all (fun l => (left s rest).decodeTrap i l == none) && ableOk (left s rest) ls rd wr

/-- What `fits` says. -/
structure Fits (s : State) (iss : Issue) (rest : List Issue) (i : Instr) (rd wr : List WRef) : Prop where
  wf : WellFormed i = true
  at_ : AtIssue s i bare iss rest
  unit : OneUnit (lanesOf s iss rest bare)
  able : Able s iss rest bare rd wr

theorem active_bare (s : State) (iss : Issue) (rest : List Issue) : active s iss rest bare = lanesOf s iss rest bare := by
  simp only [active, activeLanes, List.filter_eq_self]
  intro l _
  rfl

theorem able_of {s : State} {ls : List Lane} {rd wr : List WRef} (h : ableOk s ls rd wr = true) :
    ∀ l ∈ ls, Readable s l rd ∧ Writable s l wr := by
  intro l hl
  have := List.all_eq_true.mp h l hl
  simp only [Bool.and_eq_true, List.all_eq_true] at this
  exact ⟨readable_of (List.all_eq_true.mpr fun r hr => by simpa using this.1 r hr), this.2⟩

theorem fits_of {s : State} {iss : Issue} {rest : List Issue} {i : Instr} {rd wr : List WRef} (hi : s.issues = iss :: rest)
    (h : fits s iss rest i rd wr = true) : Fits s iss rest i rd wr := by
  simp only [fits, Bool.and_eq_true] at h
  obtain ⟨⟨⟨hw, hu⟩, hd⟩, ha⟩ := h
  have hd' : ∀ l ∈ lanesOf s iss rest bare, (left s rest).decodeTrap i l = none := by simpa using hd
  have ha' : Able s iss rest bare rd wr := by
    intro l hl
    exact able_of ha l (by rw [← active_bare]; exact hl)
  rcases Bool.or_eq_true _ _ |>.mp hu with h | h
  · simp only [Bool.and_eq_true, decide_eq_true_eq, List.all_eq_true, beq_iff_eq] at h
    exact ⟨hw, ⟨hi, .inl ⟨⟨0, h.1⟩, h.2⟩, hd'⟩, .inl ⟨0, h.1⟩, ha'⟩
  · split at h
    · rename_i l hl
      have hg : l.t.group = none := by simpa using h
      exact ⟨hw, ⟨hi, .inr (by rw [hl]; simpa using hg), hd'⟩, .inr ⟨l, hl, hg⟩, ha'⟩
    · cases h

/-- As `fits`, of a released set of group 0. -/
structure FitsSet (s : State) (iss : Issue) (rest : List Issue) (i : Instr) (rd wr : List WRef) : Prop where
  wf : WellFormed i = true
  set : Released s i bare iss rest
  able : ∀ l ∈ active s iss rest bare, Readable (left s rest) l rd ∧ Writable (left s rest) l wr

theorem fitsSet_of {s : State} {iss : Issue} {rest : List Issue} {i : Instr} {rd wr : List WRef} (hi : s.issues = iss :: rest)
    (hr : (iss.released && (s.group iss.core 0).pend.isEmpty && !(lanesOf s iss rest bare).isEmpty &&
      (lanesOf s iss rest bare).all (fun l => l.t.group.map Prod.fst == some 0)) = true)
    (h : fits s iss rest i rd wr = true) : FitsSet s iss rest i rd wr := by
  have f := fits_of hi h
  simp only [Bool.and_eq_true, List.all_eq_true, beq_iff_eq, List.isEmpty_iff, Bool.not_eq_true',
    List.isEmpty_eq_false_iff] at hr
  refine ⟨f.wf, ⟨hi, hr.1.1.1, ⟨0, hr.2, hr.1.1.2⟩, ?_, f.at_.decodes, fun l _ => rfl, by rw [active_bare]; exact hr.1.2⟩, ?_⟩
  · rcases f.at_.together with t | t
    · exact t.2
    · obtain ⟨l, hl⟩ := List.exists_mem_of_ne_nil _ hr.1.2
      have a := hr.2 l hl
      rw [t.1 l hl] at a
      cases a
  · exact f.able

/-- An instruction may execute in the group of two. -/
abbrev InGroup (i : Instr) (rd wr : List WRef) : Prop := Fits (bound false) (issue false [0, 1]) [] i rd wr

theorem inGroup {i : Instr} {rd wr : List WRef} (h : fits (bound false) (issue false [0, 1]) [] i rd wr = true) :
    InGroup i rd wr := fits_of rfl h

/-- An instruction may execute in the released set of the group of two. -/
abbrev InSet (i : Instr) (rd wr : List WRef) : Prop := FitsSet (bound true) (issue true [0, 1]) [] i rd wr

theorem inSet {i : Instr} {rd wr : List WRef} (h : fits (bound true) (issue true [0, 1]) [] i rd wr = true) : InSet i rd wr :=
  fitsSet_of rfl (by decide) h


theorem passed_bare (s : State) (iss : Issue) (rest : List Issue) : passed s iss rest bare = left s rest := by
  have h : ∀ (ls : List Lane) (u : State), ls.foldl (State.passLane bare) u = u := by
    intro ls
    induction ls with
    | nil => intro u; rfl
    | cons l ls ih => intro u; exact ih u
  exact h _ _

/-- The page of the first TLB entries. -/
def page0 : Pte := ⟨0, 0, false, false, false, false, 0⟩
/-- The page of a replica. -/
def pageR : Pte := { page0 with replica := true }

/-- The checks of `Entry`, of a page that a TLB holds. -/
def heldEntry (s : State) (v a c : Nat) (g : Region) (e : Pte) : Bool :=
  decide (e.frames ≤ g.granule) && (match s.tlbFind v a c with
    | some x => e == Pte.ofNat x.pte.toNat && (e.host ||
        Tbl.get (s.keyCounts v (s.owner (frameOf (physAddr c (e.offset a)))).key) x.owned (frameOf (physAddr c (e.offset a))))
    | none => false)

theorem entry_of {s : State} {v a c : Nat} {g : Region} {e : Pte} (h : heldEntry s v a c g e = true) : Entry s v a c g e := by
  simp only [heldEntry, Bool.and_eq_true, decide_eq_true_eq] at h
  refine ⟨.inl ?_, h.1⟩
  have h := h.2
  split at h
  · rename_i x hx
    simp only [Bool.and_eq_true, beq_iff_eq, Bool.or_eq_true] at h
    exact ⟨x, hx, h.1, fun n => h.2.resolve_left (by rw [n]; decide)⟩
  · cases h

/-- The checks of `Passes`, of a page outside every window and of class 0. -/
def passOk (s : State) (v a : Nat) (k : AccKind) (c : Nat) (g : Region) (e : Pte) : Bool :=
  heldEntry s v a c g e && (!AccKind.writes k || !e.ro) && (!AccKind.writes k || k == .mcst || !e.replica) && !e.window && e.cls == 0 &&
    !s.busyAt (placeOf e a c) && !s.poisoned (placeOf e a c)

theorem passes_of {s : State} {v pr a c : Nat} {k : AccKind} {tf : Bool} {g : Region} {e : Pte} (h : passOk s v a k c g e = true) :
    Passes s v pr a k tf c g e := by
  simp only [passOk, Bool.and_eq_true, Bool.or_eq_true, Bool.not_eq_true', beq_iff_eq] at h
  obtain ⟨⟨⟨⟨⟨⟨h1, h2⟩, h3⟩, h4⟩, h5⟩, h6⟩, h7⟩ := h
  exact ⟨entry_of h1, fun w => h2.resolve_left (by rw [w]; decide), fun w n => h3.resolve_left fun a => a.elim (fun x => by rw [w] at x; cases x) n,
    fun _ w => by (rw [h4] at w; cases w), .inl h5, fun _ => h6, fun _ => h7⟩

/-- HomeOf answers this region and home. -/
def homeAt (s : State) (v a c : Nat) (g : Region) (hm : Home) : Bool :=
  match s.homeOf v a c with
  | .ok r => r == (g, hm)
  | .error _ => false

theorem homeAt_of {s : State} {v a c : Nat} {g : Region} {hm : Home} (h : homeAt s v a c g hm = true) : s.homeOf v a c = .ok (g, hm) := by
  unfold homeAt at h
  split at h
  · rename_i r hr; rw [hr, beq_iff_eq.mp h]
  · cases h

/-- The checks of `DevReaches`. -/
def devOk (s : State) (v a : Nat) (wr : Bool) (p : Nat) (g : Region) (c : Nat) (e : Pte) : Bool :=
  decide (a < 2 ^ 56) && homeAt s v a 0 g (.core c) && !g.win && g.func != 4 && g.func != 5 && heldEntry s v a c g e && e.cls == 0 &&
    (!wr || !e.ro && !e.replica) && p == physAddr c (e.offset a) && ((s.owner (frameOf p)).init || !s.devSpoiled p)

theorem dev_of {s : State} {v a p : Nat} {wr : Bool} (g : Region) (c : Nat) (e : Pte) (h : devOk s v a wr p g c e = true) :
    DevReaches s v a wr p := by
  simp only [devOk, Bool.and_eq_true, Bool.or_eq_true, Bool.not_eq_true', beq_iff_eq, bne_iff_ne, decide_eq_true_eq] at h
  obtain ⟨⟨⟨⟨⟨⟨⟨⟨⟨h1, h2⟩, h3⟩, h4⟩, h5⟩, h6⟩, h7⟩, h8⟩, h9⟩, h10⟩ := h
  exact ⟨h1, g, c, e, homeAt_of h2, h3, h4, h5, entry_of h6, h7, fun w => h8.resolve_left (by rw [w]; decide), h9, h10⟩

/-! ## Hypotheses of the statements, classes 0 to 3 -/

theorem hyp_integerResults :
    InGroup (.add bare .n32 (gr 6) (sg 6) (sg 7)) (Src.refs (sg 6) ++ Src.refs (sg 7)) (Reg.refs (gr 6)) ∧
    InGroup (.addXi bare .n64 (gp 6) (.reg (gp 6)) 5) (Src.refs (.reg (gp 6))) (Reg.refs (gp 6)) ∧
    InGroup (.abs bare .i32 (gr 6) (sg 6)) (Src.refs (sg 6)) (Reg.refs (gr 6)) ∧
    InGroup (.iadd3 bare .i64 (gp 6) (.reg (gp 8)) (.reg (gp 62)) (.reg (gp 6)))
      (Src.refs (.reg (gp 8)) ++ Src.refs (.reg (gp 62)) ++ Src.refs (.reg (gp 6))) (Reg.refs (gp 6)) ∧
    InGroup (.addc bare .n64 (gp 4) (.reg (gp 4)) (.reg (gp 8)) 1)
      (Src.refs (.reg (gp 4)) ++ Src.refs (.reg (gp 8)) ++ [.p 1]) (Reg.refs (gp 4) ++ [.p 1]) ∧
    InGroup (.subb bare .n32 (gr 4) (sg 4) (.imm 0xFFF) 15) (Src.refs (sg 4) ++ [.p 15]) (Reg.refs (gr 4) ++ [.p 15]) :=
  ⟨inGroup (by decide), inGroup (by decide), inGroup (by decide), inGroup (by decide), inGroup (by decide), inGroup (by decide)⟩

theorem hyp_divisionsAndShifts :
    InGroup (.div bare .i32 (gr 0) (sg 1) (sg 2)) (Src.refs (sg 1) ++ Src.refs (sg 2)) (Reg.refs (gr 0)) ∧
    InGroup (.rem bare .n64 (gp 0) (.reg (gp 2)) (.reg (gp 4))) (Src.refs (.reg (gp 2)) ++ Src.refs (.reg (gp 4))) (Reg.refs (gp 0)) ∧
    InGroup (.shl bare .b64 (gp 0) (.reg (gp 2)) (sg 4)) (Src.refs (.reg (gp 2)) ++ Src.refs (sg 4)) (Reg.refs (gp 0)) :=
  ⟨inGroup (by decide), inGroup (by decide), inGroup (by decide)⟩

theorem hyp_bitFieldResults :
    InGroup (.bfe bare .i32 (gr 0) (sg 1) (sg 2)) (Src.refs (sg 1) ++ Src.refs (sg 2)) (Reg.refs (gr 0)) ∧
    InGroup (.bfi bare .b32 (gr 0) (sg 1) (sg 2) (sg 3)) (Src.refs (sg 1) ++ Src.refs (sg 2) ++ Src.refs (sg 3)) (Reg.refs (gr 0)) ∧
    InGroup (.popc bare .b64 (gr 0) (.reg (gp 2))) (Src.refs (.reg (gp 2))) (Reg.refs (gr 0)) :=
  ⟨inGroup (by decide), inGroup (by decide), inGroup (by decide)⟩

theorem hyp_moveResults :
    InGroup (.lea bare .i32 (gp 0) (.reg (gp 2)) (sg 4) (.imm 3)) (Src.refs (.reg (gp 2)) ++ Src.refs (sg 4)) (Reg.refs (gp 0)) ∧
    InGroup (.mov bare (gr 0) (.special .lane false)) [] (Reg.refs (gr 0)) ∧ InGroup (.movi bare (gp 0) 7) [] (Reg.refs (gp 0)) ∧
    InGroup (.sel bare (gr 0) (sg 1) (sg 2) 0) (Src.refs (sg 1)) (Reg.refs (gr 0)) ∧
    (∀ l ∈ active (bound false) (issue false [0, 1]) [] bare, l.t.predEmpty 0 = false ∧ l.t.pred 0 = true) ∧
    InGroup (.sel bare (gr 0) (sg 1) (sg 2) 15) (Src.refs (sg 2)) (Reg.refs (gr 0)) ∧
    ∀ l ∈ active (bound false) (issue false [0, 1]) [] bare, l.t.predEmpty 15 = false ∧ l.t.pred 15 = false :=
  ⟨inGroup (by decide), inGroup (by decide), inGroup (by decide), inGroup (by decide), by decide, inGroup (by decide), by decide⟩

theorem hyp_roundingRule : 0 < (1 : Nat) ∧ 0 < (3 : Nat) := by decide

theorem hyp_floatResults :
    InGroup (.fadd bare .f32 .rn (gr 0) (sg 1) (sg 2)) (Src.refs (sg 1) ++ Src.refs (sg 2)) (Reg.refs (gr 0)) ∧
    InGroup (.fminn bare .f16x2 (gr 0) (sg 1) (sg 2)) (Src.refs (sg 1) ++ Src.refs (sg 2)) (Reg.refs (gr 0)) ∧
    InGroup (.fmulXi bare .f32 .rd (gr 0) (sg 1) 0x3F800000) (Src.refs (sg 1)) (Reg.refs (gr 0)) ∧
    InGroup (.fmaxXi bare .f32 (gr 0) (sg 1) 0x3F800000) (Src.refs (sg 1)) (Reg.refs (gr 0)) ∧
    InGroup (.fsqrt bare .ru (gr 0) (sg 1)) (Src.refs (sg 1)) (Reg.refs (gr 0)) ∧
    InGroup (.fsub bare .rz (gr 0) (sg 1) (sg 2)) (Src.refs (sg 1) ++ Src.refs (sg 2)) (Reg.refs (gr 0)) ∧
    InGroup (.fdiv bare .rn (gr 0) (sg 1) (sg 2)) (Src.refs (sg 1) ++ Src.refs (sg 2)) (Reg.refs (gr 0)) ∧
    InGroup (.ffma bare .bf16x2 .rn (gr 0) (sg 1) (sg 2) (sg 3)) (Src.refs (sg 1) ++ Src.refs (sg 2) ++ Src.refs (sg 3))
      (Reg.refs (gr 0)) ∧
    InGroup (.fdot2 bare .f16x2 .rn (gr 0) (sg 1) (sg 2) (sg 3)) (Src.refs (sg 1) ++ Src.refs (sg 2) ++ Src.refs (sg 3))
      (Reg.refs (gr 0)) :=
  ⟨inGroup (by decide), inGroup (by decide), inGroup (by decide), inGroup (by decide), inGroup (by decide), inGroup (by decide),
    inGroup (by decide), inGroup (by decide), inGroup (by decide)⟩

theorem hyp_floatSignsAndParts :
    InGroup (.fabs bare .f16x2 (gr 0) (sg 1)) (Src.refs (sg 1)) (Reg.refs (gr 0)) ∧
    InGroup (.fneg bare .f32 (gr 0) (sg 1)) (Src.refs (sg 1)) (Reg.refs (gr 0)) ∧
    InGroup (.fsgn bare .f32 (gr 0) (sg 1) (sg 2)) (Src.refs (sg 1) ++ Src.refs (sg 2)) (Reg.refs (gr 0)) ∧
    InGroup (.frnd bare .rn (gr 0) (sg 1)) (Src.refs (sg 1)) (Reg.refs (gr 0)) ∧
    InGroup (.ffrc bare .rd (gr 0) (sg 1)) (Src.refs (sg 1)) (Reg.refs (gr 0)) ∧
    InGroup (.fscale bare .rn (gr 0) (sg 1) (sg 2)) (Src.refs (sg 1) ++ Src.refs (sg 2)) (Reg.refs (gr 0)) :=
  ⟨inGroup (by decide), inGroup (by decide), inGroup (by decide), inGroup (by decide), inGroup (by decide), inGroup (by decide)⟩

theorem hyp_conversions :
    InGroup (.cvt bare .i64 .f32 .rz false (gp 0) (sg 2)) (Src.refs (sg 2)) (Reg.refs (gp 0)) ∧
    InGroup (.cvtPack bare .e4m3x4 .rn (gr 0) (sg 1) (sg 2) (sg 3)) (Src.refs (sg 1) ++ Src.refs (sg 2) ++ Src.refs (sg 3))
      (Reg.refs (gr 0)) ∧
    InGroup (.cvtPack bare .f16x2 .rn (gr 0) (sg 1) (sg 2) Src.unused) (Src.refs (sg 1) ++ Src.refs (sg 2)) (Reg.refs (gr 0)) :=
  ⟨inGroup (by decide), inGroup (by decide), inGroup (by decide)⟩

theorem hyp_packing :
    InGroup (.qpack bare (gr 0) (gr 8) (sg 16) (gr 1)) (eightRefs (gr 8) ++ Src.refs (sg 16)) (Reg.refs (gr 0) ++ Reg.refs (gr 1)) ∧
    InGroup (.qunpack bare .rn (gr 8) (sg 0) (sg 16)) (Src.refs (sg 0) ++ Src.refs (sg 16)) (eightRefs (gr 8)) ∧
    (∀ l ∈ active (bound false) (issue false [0, 1]) [] bare, tagFmt (((left (bound false) []).srcVal l (sg 16)).toNat % 2 ^ 16) = 0) ∧
    InGroup (.bsel bare (gr 0) (sg 1) (sg 2) (sg 3)) (Src.refs (sg 1) ++ Src.refs (sg 2) ++ Src.refs (sg 3)) (Reg.refs (gr 0)) ∧
    InGroup (.pack bare .i8 true (gr 0) (sg 1) (sg 2) (sg 3)) (Src.refs (sg 1) ++ Src.refs (sg 2) ++ Src.refs (sg 3)) (Reg.refs (gr 0)) ∧
    InGroup (.pack bare .i16 true (gr 0) (sg 1) (sg 2) Src.unused) (Src.refs (sg 1) ++ Src.refs (sg 2)) (Reg.refs (gr 0)) ∧
    InGroup (.unpack bare .n16 (gr 0) (sg 1) (sg 2)) (Src.refs (sg 1) ++ Src.refs (sg 2)) (Reg.refs (gr 0)) :=
  ⟨inGroup (by decide), inGroup (by decide), by decide, inGroup (by decide), inGroup (by decide), inGroup (by decide), inGroup (by decide)⟩

theorem hyp_predicates :
    InGroup (.setp bare .lt .i32 1 (sg 4) (.imm 0)) (Src.refs (sg 4)) [.p 1] ∧
    InGroup (.fsetp bare 9 15 (sg 4) (sg 5)) (Src.refs (sg 4) ++ Src.refs (sg 5)) [.p 15] ∧
    InGroup (.fclass bare 1 (sg 4) (sg 5)) (Src.refs (sg 4) ++ Src.refs (sg 5)) [.p 1] ∧
    InGroup (.pand bare 1 2 15 true false) [.p 2, .p 15] [.p 1] ∧ InGroup (.pnot bare 0 1) [.p 1] [.p 0] ∧
    InGroup (.pmov bare 1 0) [.p 0] [.p 1] ∧ InGroup (.pmovGet bare (gr 3)) ((List.range 16).map WRef.p) (Reg.refs (gr 3)) ∧
    InGroup (.pmovPut bare (gr 3) (.imm 0xFFF)) (Reg.refs (gr 3)) ((List.range 16).map WRef.p) :=
  ⟨inGroup (by decide), inGroup (by decide), inGroup (by decide), inGroup (by decide), inGroup (by decide), inGroup (by decide),
    inGroup (by decide), inGroup (by decide)⟩

theorem hyp_branches :
    InGroup (.bra bare (-28)) [] [] ∧ InGroup (.braInd bare (sg 1)) (Src.refs (sg 1)) [] ∧ InGroup (.call bare 24) [] [.g 15] ∧
    InGroup (.callInd bare (sg 1)) (Src.refs (sg 1)) [.g 15] ∧ InGroup (.ret bare) [.g 15] [] ∧ InGroup (.nop bare) [] [] :=
  ⟨inGroup (by decide), inGroup (by decide), inGroup (by decide), inGroup (by decide), inGroup (by decide), inGroup (by decide)⟩

theorem hyp_exits :
    InGroup (.exit bare) [] ((List.range 64).map WRef.g ++ (List.range 16).map WRef.p) ∧
    (∀ l ∈ active (bound false) (issue false [0, 1]) [] bare,
      (left (bound false) []).budget l.core l.t = 64 ∧ (left (bound false) []).drained l.core l.ctx = true) ∧
    (free.thread 0 0).st ≠ .none ∧ (free.thread 0 0).vfPkg = free.fabnum ∧ ((bound false).thread 0 1).group = some (0, 1) ∧
    (((bound false).exitThread 0 1).group 0 0).live = true :=
  ⟨inGroup (by decide), by decide, by decide, by decide, by decide, by decide⟩

theorem hyp_yieldStamp : InGroup (.yield bare) [] [] := inGroup (by decide)

/-- The state that an outcome goes on to. -/
def next (o : Host.Outcome State Fault Refusal) : State :=
  match o with
  | .next t => t
  | _ => default

theorem hyp_valueFrame : Writes (.add bare .n32 (gr 6) (sg 6) (sg 7)) bare (Reg.refs (gr 6)) ∧
    (bound false).issues = [issue false [0, 1]] ∧
    exec (.add bare .n32 (gr 6) (sg 6) (sg 7)) (bound false) = .next (next (exec (.add bare .n32 (gr 6) (sg 6) (sg 7)) (bound false))) ∧
    (next (exec (.add bare .n32 (gr 6) (sg 6) (sg 7)) (bound false))).nextUnit = (bound false).nextUnit :=
  ⟨.intBin .add, rfl, rfl, by decide⟩

/-- The group of two, whose lane 1 alone has predicate 1 true. -/
def halved : State := (bound false).modThread 0 1 fun t => t.setPred 1 true

theorem hyp_completedLanes : Together (lanesOf halved (issue false [0, 1]) [] (guarded 1)) ∧ (issue false [0, 1]).lanes.Nodup ∧
    (∀ l ∈ lanesOf halved (issue false [0, 1]) [] (guarded 1), l.t.st ≠ .none) ∧
    (active halved (issue false [0, 1]) [] (guarded 1)).map Lane.lane = [1] ∧
    WritesOnly [(.g 6, 5), (.p 1, 1)] (.g 6) 5 ∧ WritesOnly [(.g 6, 5), (.p 1, 1)] (.p 1) 1 ∧
    ∃ l ∈ lanesOf halved (issue false [0, 1]) [] (guarded 1), guardEmpty (guarded 1) l.t = false ∧ guardVal (guarded 1) l.t = false := by
  refine ⟨.inl ⟨⟨0, by decide⟩, by decide⟩, by decide, by decide, by decide, ⟨by decide, ?_⟩, ⟨by decide, ?_⟩, by decide⟩ <;>
    · intro v hv; simp at hv; exact hv

theorem hyp_uniformWrites :
    (∀ l ∈ lanesOf (bound false) (issue false [0, 1]) [] bare, l.t.group.map Prod.fst = some 0 ∧ l.t.st ≠ .none) ∧
    (lanesOf (bound false) (issue false [0, 1]) [] bare).Pairwise (fun a b => a.lane < b.lane) ∧
    ((active (bound false) (issue false [0, 1]) [] bare).getLast?.map Lane.lane = some 1) ∧ WritesOnly [(.s 31, 9)] (.s 31) 9 ∧
    active (bound false) (issue false [0, 1]) [] (guarded 1) = [] := by
  refine ⟨by decide, by decide, by decide, ⟨by decide, ?_⟩, by decide⟩
  intro v hv; simpa using hv

/-! ## Hypotheses of the statements, class 4 -/

/-- The checks of `Reaches`. -/
def reaches (s : State) (l : Lane) (x : Access) (g : Region) (hm : Home) : Bool :=
  decide (x.a < 2 ^ 56) && (match s.homeOf l.t.vf.toNat x.a l.core with | .ok r => r == (g, hm) | .error _ => false) &&
    x.a % x.size == 0 && (!AccKind.writes x.kind || !g.win) &&
    (l.t.group.isSome || hm == .core l.core || g.win || g.func == 4 || g.func == 5 || x.kind == .red) &&
    (hm != .core l.core || match s.homeCheck l.t.vf.toNat l.t.principal.toNat x.a x.kind x.tf l.core g with | .trap _ | .wait => false | _ => true)

theorem reaches_of {s : State} {l : Lane} {x : Access} {g : Region} {hm : Home} (h : reaches s l x g hm = true) :
    Reaches s l x g hm := by
  simp only [reaches, Bool.and_eq_true, Bool.or_eq_true, decide_eq_true_eq, beq_iff_eq, Bool.not_eq_true', bne_iff_ne] at h
  obtain ⟨⟨⟨⟨⟨h1, h2⟩, h3⟩, h4⟩, h5⟩, h6⟩ := h
  refine ⟨h1, ?_, h3, fun w => ?_, ?_, fun e => ?_⟩
  · split at h2
    · rename_i r hr; rw [hr, beq_iff_eq.mp h2]
    · cases h2
  · rcases h4 with h | h
    · rw [h] at w; cases w
    · exact h
  · rcases h5 with ((((h | h) | h) | h) | h) | h
    · exact .inl (by intro e; rw [e] at h; cases h)
    · exact .inr (.inl h)
    · exact .inr (.inr (.inl h))
    · exact .inr (.inr (.inr (.inl h)))
    · exact .inr (.inr (.inr (.inr (.inl h))))
    · exact .inr (.inr (.inr (.inr (.inr h))))
  · rcases h6 with h | h
    · exact absurd e h
    · constructor
      · intro t ht; rw [ht] at h; cases h
      · intro ht; rw [ht] at h; cases h

/-- What the statements on accesses ask of a state. -/
def AccessMade (s : State) (iss : Issue) (i : Instr) (rd wr : List WRef) (x : State → Lane → Access) (g : Region) (hm : Home) : Prop :=
  Fits s iss [] i rd wr ∧ ∀ l ∈ active s iss [] bare, let u := passed s iss [] bare
    Readable u l rd ∧ noAcquire u l ∧ Writable u l wr ∧ Reaches u l (x u l) g hm

theorem access_of {s : State} {iss : Issue} {i : Instr} {rd wr : List WRef} {x : State → Lane → Access} {g : Region} {hm : Home}
    (hi : s.issues = [iss]) (hf : fits s iss [] i rd wr = true)
    (h : (lanesOf s iss [] bare).all (fun l => l.t.acq.isEmpty && reaches (left s []) l (x (left s []) l) g hm) = true) :
    AccessMade s iss i rd wr x g hm := by
  have f := fits_of hi hf
  refine ⟨f, ?_⟩
  rw [active_bare, passed_bare]
  intro l hl
  have a := f.able l (by rw [← active_bare] at hl; exact hl)
  have b := List.all_eq_true.mp h l hl
  simp only [Bool.and_eq_true, List.isEmpty_iff] at b
  exact ⟨a.1, by simp [noAcquire, b.1], a.2, reaches_of b.2⟩

/-- Region 0 of `base`, at core 0. -/
def region0 : Region := { (default : Region) with func := 3, size := 16 }
/-- Region 1 of `base`, at core 1. -/
def region1 : Region := { (default : Region) with func := 3, base := 0x100000, size := 16, core0 := 1 }
/-- Region 2 of `base`, replicated on die 0. -/
def region2 : Region := { (default : Region) with func := 4, base := 0x200000, size := 16, npkg := 1, dieMask := 1 }

/-- The group of two, with g4 an address. -/
def aimed (rel : Bool) (a : Word) : State := group2 rel (withRegs [(4, a)])

theorem hyp_accessesIssued :
    AccessMade (bound false) (issue false [0, 1]) (.ldG bare .b32 false (gr 8) (gp 4) 0x40) (Reg.refs (gp 4)) (Reg.refs (gr 8))
      (fun s l => { accessOf .load (address s l (gp 4) 0x40) .b32 false with dst := some (gr 8) }) region0 (.core 0) ∧
    AccessMade (aimed false 0x100000) (issue false [0, 1]) (.ldAcq bare .n32 false (gr 8) (gp 4) 0) (Reg.refs (gp 4)) (Reg.refs (gr 8))
      (fun s l => { accessOf .load (address s l (gp 4) 0) .n32 false with dst := some (gr 8), acq := true }) region1 (.core 1) ∧
    AccessMade (aimed false 0x100000) (issue false [0, 1]) (.stG bare .i8 false (sg 6) (gp 4) 0x1FF) (Reg.refs (gp 4) ++ Src.refs (sg 6)) []
      (fun s l => { accessOf .store (address s l (gp 4) 0x1FF) .i8 false with data := stored .i8 (s.srcVal l (sg 6)) }) region1 (.core 1) ∧
    AccessMade (bound false) (issue false [0, 1]) (.atomG bare .cas .n32 false (gr 8) (gp 4) 0x10 (sg 9))
      (Reg.refs (gp 4) ++ casRefs .cas (gr 8) ++ Src.refs (sg 9)) (Reg.refs (gr 8))
      (fun s l => { accessOf .atomic (address s l (gp 4) 0x10) .n32 false with
        op := .cas, data := stored .n32 (s.srcVal l (sg 9)), expected := if AtomOp.cas = .cas then s.regVal l (gr 8) else 0
        dst := some (gr 8) }) region0 (.core 0) ∧
    AccessMade { ((base.setThread 0 0 (withRegs [(4, 0x100000)] (thread none)))) with issues := [issue false [0]] } (issue false [0])
      (.redG bare .add .f32 false (sg 6) (gp 4) 0) (Reg.refs (gp 4) ++ Src.refs (sg 6)) []
      (fun s l => { accessOf .red (address s l (gp 4) 0) .f32 false with op := .add, data := stored .f32 (s.srcVal l (sg 6)) })
      region1 (.core 1) ∧
    AccessMade (bound false) (issue false [0, 1]) (.stRel bare .fab .b32 false (sg 6) (gp 4) 0) (Reg.refs (gp 4) ++ Src.refs (sg 6)) []
      (fun s l => { accessOf .store (address s l (gp 4) 0) .b32 false with data := stored .b32 (s.srcVal l (sg 6)) }) region0 (.core 0) ∧
    ∀ l ∈ active (bound false) (issue false [0, 1]) [] bare,
      (left (bound false) []).fenceOpen .fab l.core l.ctx = false ∧ (left (bound false) []).flushPkgs l.t = [] :=
  ⟨access_of rfl (by decide) (by decide), access_of rfl (by decide) (by decide), access_of rfl (by decide) (by decide),
    access_of rfl (by decide) (by decide), access_of rfl (by decide) (by decide), access_of rfl (by decide) (by decide), by decide⟩

/-- The state with a sector of zeros in core 0's slice of the read-only cache. -/
def cached : State := (bound false).modCore 0 fun k => { k with ro := [⟨0, 0, 0, [(0, List.replicate 256 0)], none, false, 0⟩] }

/-- The check at the home answers no trap and does not wait. -/
def checks (s : State) (l : Lane) (a : Nat) (k : AccKind) (g : Region) : Bool :=
  match s.homeCheck l.t.vf.toNat l.t.principal.toNat a k false l.core g with
  | .trap _ | .wait => false
  | _ => true

theorem hyp_cachedAndReplicated :
    (Fits (bound false) (issue false [0, 1]) [] (.ldRo bare .b32 false (gr 8) (gp 4) 0) (Reg.refs (gp 4)) (Reg.refs (gr 8)) ∧
      ∀ l ∈ lanesOf (bound false) (issue false [0, 1]) [] bare, let u := left (bound false) []
        u.homeOf l.t.vf.toNat (address u l (gp 4) 0) l.core = .ok (region0, .core 0) ∧ l.t.acq = [] ∧
          u.roFind l.t.vf.toNat (address u l (gp 4) 0) l.core = none ∧ checks u l (address u l (gp 4) 0) .ro region0 = true) ∧
    (Fits cached (issue false [0, 1]) [] (.ldRo bare .b32 false (gr 8) (gp 4) 0) (Reg.refs (gp 4)) (Reg.refs (gr 8)) ∧
      ∀ l ∈ lanesOf cached (issue false [0, 1]) [] bare, let u := left cached []
        (u.roFind l.t.vf.toNat (address u l (gp 4) 0) l.core).isSome = true ∧ u.heldNow l false (some (address u l (gp 4) 0)) = false ∧
          u.lineHeld (sliceOf (address u l (gp 4) 0) l.core) (address u l (gp 4) 0) = false) ∧
    (Fits (bound false) (issue false [0, 1]) [] (.pfRo bare (gp 4) 0x1FF) (Reg.refs (gp 4)) [] ∧
      ∀ l ∈ lanesOf (bound false) (issue false [0, 1]) [] bare, let u := left (bound false) []
        u.homeOf l.t.vf.toNat (address u l (gp 4) 0x1FF) l.core = .ok (region0, .core 0) ∧
          u.sliceLive (sliceOf (address u l (gp 4) 0x1FF) l.core) = true ∧
          u.roFind l.t.vf.toNat (address u l (gp 4) 0x1FF) l.core = none) ∧
    (Fits (aimed false 0x200000) (issue false [0, 1]) [] (.mcst bare .b32 (sg 6) (gp 4) 0) (Reg.refs (gp 4) ++ Src.refs (sg 6)) [] ∧
      ∀ l ∈ lanesOf (aimed false 0x200000) (issue false [0, 1]) [] bare, let u := left (aimed false 0x200000) []
        u.homeOf l.t.vf.toNat (address u l (gp 4) 0) l.core = .ok (region2, .core 0) ∧ region2.func = 4 ∧
          u.primaryOf region2 (address u l (gp 4) 0) = .core l.core ∧ checks u l (address u l (gp 4) 0) .mcst region2 = true) := by
  refine ⟨⟨fits_of rfl (by decide), ?_⟩, ⟨fits_of rfl (by decide), by decide⟩, ⟨fits_of rfl (by decide), ?_⟩,
    ⟨fits_of rfl (by decide), ?_⟩⟩
  · intro l hl
    exact ⟨homeAt_of (by revert l; decide), by revert l; decide⟩
  · intro l hl
    exact ⟨homeAt_of (by revert l; decide), by revert l; decide⟩
  · intro l hl
    exact ⟨homeAt_of (by revert l; decide), by revert l; decide⟩

theorem hyp_requestIssued : ((bound false).thread 0 1).st ≠ .none ∧ (some (gr 63) : Option Reg) = some (.g 63 false) := by decide

theorem hyp_scratchpadAccesses :
    InGroup (.ldS bare .i16 (gr 8) (gr 4) 2) (Reg.refs (gr 4)) (Reg.refs (gr 8)) ∧
    InGroup (.stS bare .b64 (.reg (gp 8)) (gr 4) 8) (Src.refs (.reg (gp 8)) ++ Reg.refs (gr 4)) [] ∧
    InGroup (.atomS bare .cas .n32 (gr 8) (gr 4) 4 (sg 9)) (Reg.refs (gr 4) ++ casRefs .cas (gr 8) ++ Src.refs (sg 9)) (Reg.refs (gr 8)) ∧
    ∀ l ∈ lanesOf (bound false) (issue false [0, 1]) [] bare, let u := left (bound false) []
      l.t.acq = [] ∧ SpReaches u l false (spOffset u l (gr 4) 2) 2 ∧ SpReaches u l true (spOffset u l (gr 4) 8) 8 ∧
        SpReaches u l true (spOffset u l (gr 4) 4) 4 ∧ (u.team l.core (u.teamOf l)).spBad (spOffset u l (gr 4) 2) 2 = false ∧
        (u.team l.core (u.teamOf l)).spBad (spOffset u l (gr 4) 4) 4 = false :=
  ⟨inGroup (by decide), inGroup (by decide), inGroup (by decide), by unfold SpReaches; decide⟩

theorem hyp_spUpdate : ((left (bound false) []).spUpdate ((left (bound false) []).laneOf (issue false [0, 1]) 0 0) 0 (leBytes 4 5)).nextUnit =
    (left (bound false) []).nextUnit := by decide

theorem hyp_fenceCompletes : InGroup (.fence bare .fab) [] [] ∧ ∀ l ∈ lanesOf (bound false) (issue false [0, 1]) [] bare,
    (left (bound false) []).fenceOpen .fab l.core l.ctx = false ∧ (left (bound false) []).flushPkgs l.t = [] :=
  ⟨inGroup (by decide), by decide⟩

/-- A free thread whose g4 is an address. -/
def freeAt (a : Word) : State := { (base.setThread 0 0 (withRegs [(4, a)] (thread none))) with issues := [issue false [0]] }

theorem hyp_migration :
    InGroup (.mig bare (gp 4) 0) (Reg.refs (gp 4)) [] ∧
    (∀ l ∈ lanesOf (bound false) (issue false [0, 1]) [] bare, (left (bound false) []).mayMigrate l = true ∧ l.t.group ≠ none) ∧
    Fits (freeAt 0x200000) (issue false [0]) [] (.mig bare (gp 4) 0) (Reg.refs (gp 4)) [] ∧
    (∀ l ∈ lanesOf (freeAt 0x200000) (issue false [0]) [] bare,
      (left (freeAt 0x200000) []).addrCheck l (address (left (freeAt 0x200000) []) l (gp 4) 0) 0 = .ok (region2, .core 0) ∧ region2.func = 4) ∧
    Fits (freeAt 0x100000) (issue false [0]) [] (.mig bare (gp 4) 0) (Reg.refs (gp 4)) [] ∧
    ∀ l ∈ lanesOf (freeAt 0x100000) (issue false [0]) [] bare, let u := left (freeAt 0x100000) []
      l.t.group = none ∧ u.addrCheck l (address u l (gp 4) 0) 0 = .ok (region1, .core 1) ∧ region1.func ≠ 4 ∧ region1.win = false ∧
        Home.core 1 ≠ .core l.core ∧ u.mayRunAt l.t.vf.toNat (.core 1) = true ∧ u.allFull l.core l.t true = true ∧
        u.drained l.core l.ctx = true ∧ u.mayMigrate l = true := by
  refine ⟨inGroup (by decide), by decide, fits_of rfl (by decide), ?_, fits_of rfl (by decide), ?_⟩
  · intro l hl
    have e : (lanesOf (freeAt 0x200000) (issue false [0]) [] bare) = [(left (freeAt 0x200000) []).laneOf (issue false [0]) 0 0] := rfl
    rw [e] at hl
    obtain rfl := List.mem_singleton.mp hl
    exact ⟨rfl, rfl⟩
  · intro l hl
    have e : (lanesOf (freeAt 0x100000) (issue false [0]) [] bare) = [(left (freeAt 0x100000) []).laneOf (issue false [0]) 0 0] := rfl
    rw [e] at hl
    obtain rfl := List.mem_singleton.mp hl
    exact ⟨by decide, rfl, by decide, by decide, by decide, by decide, by decide, by decide, by decide⟩

/-! ## Hypotheses of the statements, class 5 -/

theorem hyp_crossLane :
    InSet (.shfl bare .xor .b32 (gr 5) (sg 4) (.imm 1) (.imm 0)) (Src.refs (sg 4)) (Reg.refs (gr 5)) ∧
    (∀ l ∈ active (bound true) (issue true [0, 1]) [] bare, widthPower (left (bound true) []) l 1) ∧
    InSet (.lpred bare .mask (.reg (gp 2)) 1) [.p 1] (VDst.refs (.reg (gp 2))) ∧
    InSet (.peers bare .leader .b64 (gr 2) (.reg (gp 4))) (Src.refs (.reg (gp 4))) (Reg.refs (gr 2)) ∧
    InSet (.lcompress bare .b32 (gr 2) (sg 4) 15 (gr 6)) (Src.refs (sg 4) ++ [.p 15]) (Reg.refs (gr 2) ++ Reg.refs (gr 6)) ∧
    InSet (.lexpand bare .b32 (gr 2) (sg 4) 1 (sg 6)) (Src.refs (sg 4) ++ Src.refs (sg 6) ++ [.p 1]) (Reg.refs (gr 2)) ∧
    InSet (.gwait bare) [] [] := by
  refine ⟨inSet (by decide), ?_, inSet (by decide), inSet (by decide), inSet (by decide), inSet (by decide), inSet (by decide)⟩
  intro l hl
  exact ⟨by decide, 0, by revert l; decide⟩

theorem hyp_reductions :
    InSet (.redux bare .add .f32 .rn (gr 9) (sg 8)) (Src.refs (sg 8)) (Reg.refs (gr 9)) ∧
    (∀ l ∈ active (bound true) (issue true [0, 1]) [] bare, widthPower (left (bound true) []) l 1) ∧
    InSet (.scan bare .min true .i32 .rn (gr 9) (sg 8)) (Src.refs (sg 8)) (Reg.refs (gr 9)) ∧
    InSet (.segscan bare false .b32 (gr 9) (sg 8) 2 (.imm 7)) (Src.refs (.imm 7) ++ Src.refs (sg 8) ++ [.p 2]) (Reg.refs (gr 9)) ∧
    InSet (.segred bare .f32 (gr 9) (sg 8) 15 (.imm 0)) (Src.refs (.imm 0) ++ Src.refs (sg 8) ++ [.p 15]) (Reg.refs (gr 9)) ∧
    segmentOp (active (bound true) (issue true [0, 1]) [] bare) (left (bound true) []) (.imm 7) = some .xor ∧
    RedOp.tyOk .b32 .xor = true ∧
    segmentOp (active (bound true) (issue true [0, 1]) [] bare) (left (bound true) []) (.imm 0) = some .add ∧
    RedOp.tyOk .f32 .add = true := by
  refine ⟨inSet (by decide), ?_, inSet (by decide), inSet (by decide), inSet (by decide), by decide⟩
  intro l hl
  exact ⟨by decide, 0, by revert l; decide⟩

/-- What the statement on the queue of the matrix engine asks of the released set. -/
def mayQueue (s : State) (grp lane : List Src) (o : MatOp) (ls : List Lane) : Bool :=
  (ls.take 1).all (fun l => ableOk s [l] (grp.flatMap Src.refs) []) &&
    ls.all (fun l => ableOk s [l] (lane.flatMap Src.refs ++ o.srcRegs.flatMap fun e => gRefs e.1 e.2)
      (o.emptyRegs (((o.lanes.find? fun m => m.lane == l.lane).map MLane.k).getD 0))) &&
    (o.kind != .mtopk || ls.all fun l => ableOk s [l] (o.emptyRegs (((o.lanes.find? fun m => m.lane == l.lane).map MLane.k).getD 0)) []) &&
    decide ((s.core 0).mq.length < 8)

/-- The active lanes of the released set. -/
abbrev setLanes : List Lane := active (bound true) (issue true [0, 1]) [] bare

/-- The group of two, whose registers g32 to g43 hold metadata that keep the elements 0 to 3 of each group (04 R113). -/
def pruned : State := group2 true (withRegs ((List.range 12).map fun k => (32 + k, [0x88688688, 0x86886886, 0x68868868].getD (k % 3) 0)))

/-- The `mma.sp` operation of its released set on the last rows of the grant. -/
def sparse : MatOp := { (left pruned []).matOp .mmaSp .i8 (active pruned (issue true [0, 1]) [] bare) with
  flag := true, row := 254, tile := 0, off := 1024, mdReg := 4 }

theorem hyp_matrixQueued :
    InSet (.mma bare false .bf16 0 0 (.imm 0) 0) [] [] ∧
    mayQueue (left (bound true) []) [.imm 0] []
      { (left (bound true) []).matOp .mma .bf16 setLanes with flag := false, row := 0, tile := 0, off := 0, mdReg := 0 } setLanes = true ∧
    InSet (.acst bare 62 (.imm 0) (.imm 2) 5) [] [] ∧
    mayQueue (left (bound true) []) [.imm 0, .imm 2] []
      { (left (bound true) []).matOp .acst .i32 setLanes with row := 62, off := 0, n := 2, tok := 5 } setLanes = true ∧
    setLanes ≠ [] ∧ (∀ l ∈ setLanes, l.core = 0 ∧ ((bound true).thread 0 l.ctx).st ≠ .none) ∧ (setLanes.map Lane.ctx).Nodup ∧
    (∀ r ∈ sourceWords { sparse with ty := .q4 }, (((bound true).thread 0 0).reg r).st = .full) ∧
    24 ∈ sourceWords ((left (bound true) []).matOp .mma .q4 setLanes) ++ sourceWords { sparse with ty := .q4, tile := 3 } :=
  ⟨inSet (by decide), by decide, inSet (by decide), by decide, by decide, by decide, by decide, by decide, by decide⟩

theorem hyp_matrixFits :
    MatFits { (left (bound true) []).matOp .mma .bf16 setLanes with flag := false, row := 0, tile := 0, off := 0, mdReg := 0 } setLanes
      ((bound true).team 0 0) ∧
    MatFits { (left (bound true) []).matOp .acst .i32 setLanes with row := 62, off := 0, n := 2, tok := 5 } setLanes
      ((bound true).team 0 0) ∧
    MatFits sparse (active pruned (issue true [0, 1]) [] bare) (pruned.team 0 0) :=
  ⟨⟨by decide, by decide, by decide, by decide, by decide, by decide, by decide⟩,
    ⟨by decide, by decide, by decide, by decide, by decide, by decide, by decide⟩,
    ⟨by decide, by decide, by decide, by decide, by decide, by decide, by decide +kernel⟩⟩

/-- The `mtopk` operation of the released set: lists of one entry, or of 16. -/
def listed (k : Nat) : MatOp := { (left (bound true) []).matOp .mtopk .i32 setLanes with
  flag := false, row := 0, tile := 4
  lanes := setLanes.map fun l => ⟨l.lane, l.ctx, 0, k, l.t.vals 32 k, l.t.vals 48 k⟩ }

theorem hyp_listsQueued :
    InSet (.mtopk bare false .i32 4 0 (sg 0) (.imm 1)) [] [] ∧
    ∀ k ∈ [1, 16], mayQueue (left (bound true) []) [] [sg 0, .imm 1] (listed k) setLanes = true ∧
      ((listed k).lanes.map MLane.lane).Nodup ∧ MatFits (listed k) setLanes ((bound true).team 0 0) := by
  refine ⟨inSet (by decide), ?_⟩
  intro k h
  fin_cases h <;> exact ⟨by decide, by decide, by decide, by decide, by decide, by decide, by decide, by decide, by decide⟩

theorem hyp_sparsePrune : InSet (.sprune bare .i8 0 4 2) (gRefs 32 32) (gRefs 0 16 ++ gRefs 16 8) := inSet (by decide)

/-! ## Hypotheses of the statements on a lone lane -/

/-- The first lane of an issue of one context, as an instruction without hints sees it. -/
def laneAt (s : State) (x : Nat) : Lane := (left s []).laneOf (issue false [x]) 0 x

/-- The checks of `Lone`. -/
def loneOk (s : State) (x : Nat) : Bool :=
  let l := laneAt s x
  decide (l.t.st = .ready) && decide (l.t.fork = none) &&
    match l.t.group with
    | none => true
    | some g => ((left s []).group l.core g.1).present.contains l.ctx &&
        ((left s []).group l.core g.1).present.all fun y => decide (((left s []).thread l.core y).fork.map Prod.fst ≠ some l.num)

theorem lone_of {s : State} {x : Nat} {i : Instr} {rd wr : List WRef} (hi : s.issues = [issue false [x]])
    (hf : fits s (issue false [x]) [] i rd wr = true) (hl : loneOk s x = true) :
    Lone s i bare (issue false [x]) [] (laneAt s x) ∧ WellFormed i = true ∧ Readable (left s []) (laneAt s x) rd ∧
      Writable (left s []) (laneAt s x) wr := by
  have f := fits_of hi hf
  simp only [loneOk, Bool.and_eq_true, decide_eq_true_eq] at hl
  have ho : active s (issue false [x]) [] bare = [laneAt s x] := active_bare _ _ _
  have a := f.able (laneAt s x) (by unfold active at ho; rw [ho]; exact List.mem_singleton.mpr rfl)
  refine ⟨⟨f.at_, f.unit, ho, hl.1.1, hl.1.2, ?_⟩, f.wf, a⟩
  intro g hg
  have m := hl.2
  simp only [hg, Bool.and_eq_true, List.all_eq_true, decide_eq_true_eq] at m
  exact ⟨List.contains_iff_mem.mp m.1, m.2⟩

/-- A member of a group of two that is alone in its issue; `f` changes the threads. -/
def alone (f : Thread → Thread) : State := { (group2 false f) with issues := [issue false [0]] }

/-- An instruction may execute in a lone lane. -/
abbrev InLone (s : State) (i : Instr) (rd wr : List WRef) : Prop :=
  Lone s i bare (issue false [0]) [] (laneAt s 0) ∧ WellFormed i = true ∧ Readable (left s []) (laneAt s 0) rd ∧
    Writable (left s []) (laneAt s 0) wr

/-- A thread that holds a reservation, with g4 an address at core 1. -/
def holder : State := alone fun t => { withRegs [(4, 0x100000)] t with resv := true }

theorem hyp_spawning :
    InLone holder (.spawn bare 60 15 false) (gRefs 0 16) (gRefs 0 16) ∧
    InLone holder (.spawnAt bare 60 (gp 4) 0 true) (gRefs 0 1 ++ Reg.refs (gp 4)) (gRefs 0 1) ∧
    (let u := left holder []
      let l := laneAt holder 0
      u.mayMigrate l = true ∧ l.t.depth ≠ 15 ∧ l.t.resv = true ∧ u.localOpen l.core l.ctx = false) ∧
    (let u := left holder []
      let a := (u.regVal (laneAt holder 0) (gp 4)).toNat
      a < 2 ^ 56 ∧ u.homeOf 0 a 0 = .ok (region1, .core 1) ∧ region1.win = false ∧ region1.func ≠ 5 ∧ u.mayRunAt 0 (.core 1) = true ∧
        u.flights = []) :=
  ⟨lone_of rfl (by decide) (by decide), lone_of rfl (by decide) (by decide), by decide, by decide, homeAt_of (by decide), by decide⟩

theorem hyp_detaching :
    InLone free (.detach bare false) [] [] ∧ (left free []).mayMigrate (laneAt free 0) = true ∧ (laneAt free 0).t.group = none ∧
    InLone holder (.detach bare false) [] (gRefs 0 64) ∧
    (let u := left holder []
      let l := laneAt holder 0
      u.mayMigrate l = true ∧ l.t.group = some (0, 0) ∧ l.t.resv = true ∧ u.budget l.core l.t = 64 ∧ u.drained l.core l.ctx = true ∧
        u.slotFree l.core = true ∧ l.t.vfPkg = holder.fabnum) :=
  ⟨lone_of rfl (by decide) (by decide), by decide, rfl, lone_of rfl (by decide) (by decide), by decide⟩

/-- A thread whose g4 is the address of a block at core 0; the chain records of VF 0 lie at 0x2000. -/
def launcher : State :=
  (alone (withRegs [(4, 0x1000)])).modVf 0 fun v => { v with chainBase := 0x2000 }

theorem hyp_launching :
    InLone launcher (.launch bare (gp 6) (.reg (gp 4)) (.imm 3)) (Src.refs (.reg (gp 4))) (Reg.refs (gp 6)) ∧
    (left launcher []).homeOf 0 0x1000 0 = .ok (region0, .core 0) ∧ (laneAt launcher 0).t.acq = [] ∧
    (left launcher []).localOpen 0 0 = false ∧ (left launcher []).appendWaits 0 3 0x1000 = false ∧ ((left launcher []).srcVal (laneAt launcher 0) (.reg (gp 4))).toNat = 0x1000 ∧
    DevReaches (left launcher []) 0 0x1000 true 0x1000 ∧
    (let s1 := (left launcher []).devPut 0x1000 (leBytes 8 0);
      DevReaches s1 0 (s1.chainAt 0 3) true 0x20C0 ∧ 0x20C0 % 64 = 0 ∧ devNat s1 0x20C0 8 % 2 ^ 56 = 0) :=
  ⟨lone_of rfl (by decide) (by decide), homeAt_of (by decide), rfl, by decide, by decide, by decide, dev_of region0 0 page0 (by decide),
    dev_of region0 0 page0 (by decide), by decide, by decide⟩

/-- The member, with bytes in its team's scratchpad. -/
def scratched (f : Thread → Thread) (a : Nat) (bs : List Byte) : State :=
  (alone f).modTeam 0 0 fun t => { t with sp := Mem.write t.sp a bs }

/-- A copy of four bytes from address 0 to offset 64, with a token or a counter; 04 R99. -/
def copying (done : Bool) : State := scratched id 1024
  (leBytes 16 (64 * 2 ^ 64 + if done then 2 ^ 112 else 0) ++ leBytes 16 4 ++ List.replicate 24 0 ++ leBytes 2 3)
/-- A gather of one row of 16 bytes to offset 0, with a token or a counter; 04 R106. -/
def gathering (done : Bool) : State := scratched id 64 (leBytes 16 0 ++ leBytes 4 1 ++ leBytes 8 0 ++ leBytes 4 (if done then 1 else 0))

theorem hyp_enginesIssued :
    (∀ done ∈ [true, false], InLone (copying done) (.tcopy bare 10 (.imm 1024)) [] [.g 10] ∧
      let u := left (copying done) []
      let l := laneAt (copying done) 0
      let d := CopyDesc.ofBytes (Mem.read (scratch u l).sp 1024 128)
      (l.t.acq = [] ∧ l.t.read = [] ∧ (u.core l.core).copies.length < 64 ∧ SpReaches u l true 1024 128 ∧
        (scratch u l).spBad 1024 128 = false) ∧ CopyFits d (scratch u l) ∧ PendingRoom u l d.ctroff d.total ∧ d.done = done ∧ d.total = 4) ∧
    (∀ done ∈ [true, false], InLone (gathering done) (.gather bare 15 (.imm 64)) [] [.g 15] ∧
      let u := left (gathering done) []
      let l := laneAt (gathering done) 0
      let d := GatherDesc.ofBytes (Mem.read (scratch u l).sp 64 64)
      (l.t.acq = [] ∧ l.t.read = [] ∧ (u.core l.core).copies.length < 64 ∧ SpReaches u l true 64 64 ∧
        (scratch u l).spBad 64 64 = false) ∧ GatherFits d (scratch u l) ∧ PendingRoom u l d.ctroff (d.count * d.rowSize) ∧ d.done = done) ∧
    InLone (alone id) (.spill bare true 6 1 (.imm 32) (.imm 7)) [] [.g 6] ∧
    InLone (alone id) (.fill bare false 63 0 (.reg (gp 62)) (.imm 1)) (Src.refs (.reg (gp 62))) (.g 63 :: gRefs 0 8) ∧
    (let u := left (alone id) []
      let l := laneAt (alone id) 0
      (l.t.acq = [] ∧ (u.core l.core).spills.length < 32 ∧
        ∀ r ∈ gRefs 8 56, u.isEmpty l.core l.t r = false ∧ (u.word l.core l.t r).token = none) ∧
        SpillFits u l false true 6 1 7 32 ∧ SpillFits u l true false 63 0 1 0) := by
  refine ⟨?_, ?_, lone_of rfl (by decide) (by decide), lone_of rfl (by decide) (by decide), by decide, ?_, ?_⟩
  · intro done h
    fin_cases h <;> exact ⟨lone_of rfl (by decide) (by decide), by unfold SpReaches; decide,
      ⟨by decide, by decide, by decide, by decide, by decide, by decide, by decide, by decide⟩, by unfold PendingRoom; decide, by decide⟩
  · intro done h
    fin_cases h <;> exact ⟨lone_of rfl (by decide) (by decide), by unfold SpReaches; decide,
      ⟨by decide, by decide, by decide, by decide, by decide, by decide⟩, by unfold PendingRoom; decide, by decide⟩
  · exact ⟨by decide, by decide, by decide, by decide, fun _ => by decide, fun h => absurd h (by decide)⟩
  · exact ⟨by decide, by decide, by decide, by decide, fun h => absurd h (by decide),
      fun _ => ⟨by decide, region0, .core 0, homeAt_of (by decide), fun h => absurd h (by decide)⟩⟩

/-- The member, with cursor 0 of its group open over an empty stream. -/
def opened (rel : Bool) (lanes : List Nat) : State :=
  let s := group2 rel id
  { ((s.putCursor 0 (Cursor.ofLane ((left s []).laneOf (issue false [0]) 0 0) 0
      (CState.start .enum (Stream.start 0 0 0 false) (Stream.start 0 0 0 false)) true 0 0)).getD s) with issues := [issue rel lanes] }

theorem hyp_cursorRecords :
    InLone (opened false [0]) (.crdSave bare true (.imm 0) (gr 4)) (Reg.refs (gr 4)) [] ∧
    InLone (opened false [0]) (.crdSave bare false (.imm 0) (gp 4)) (Reg.refs (gp 4)) [] ∧
    InLone (opened false [0]) (.crdLoad bare true (.imm 3) (gr 4)) (Reg.refs (gr 4)) [] ∧
    (let u := left (opened false [0]) []
      let l := laneAt (opened false [0]) 0
      (l.t.acq = [] ∧ l.t.read = [] ∧ u.spHeld l true 0 64 = false ∧ (scratch u l).spBad 0 64 = false) ∧ OpenIn u l 0 0 ∧
        RecordAt u l true (gr 4) 0 ∧ RecordAt u l false (gp 4) 0 ∧ u.homeOf 0 0 0 = .ok (region0, .core 0) ∧
        checks u l 0 .store region0 = true ∧ RecordFits (Mem.read (scratch u l).sp 0 64) ∧ SlotLeft u l 3 ∧ SlotLeft u l 0) :=
  ⟨lone_of rfl (by decide) (by decide), lone_of rfl (by decide) (by decide), lone_of rfl (by decide) (by decide), by decide,
    by unfold OpenIn; decide, ⟨by decide, fun _ => by decide, fun h => absurd h (by decide)⟩,
    ⟨by decide, fun h => absurd h (by decide), fun _ => ⟨by decide, by decide, region0, .core 0, homeAt_of (by decide)⟩⟩, homeAt_of (by decide),
    by decide, ⟨by decide, by decide, by decide, by decide⟩, .inr ⟨by decide, 1, by decide⟩, .inl ⟨0, by decide⟩⟩

theorem hyp_savedRecord : let k := { ((opened false [0]).cursor 0 0) with
      cur := { ((opened false [0]).cursor 0 0).cur with a := { (Stream.start 0 0 0 false) with idx := 255, left := 0xFFFFFFFF } } };
    k.cur.a.idx < 256 ∧ k.cur.a.left < 2 ^ 32 ∧ k.cur.b.idx < 256 ∧ k.cur.b.left < 2 ^ 32 := by decide

/-- The bytes of a record of zeros in memory. -/
def zeroRecord (s : State) : List Byte := (List.range 4).flatMap fun k => Mem.read (if page0.host then s.hostMem else s.mem) (placeOf page0 (16 * k) 0) 16

theorem hyp_cursorRecords_memory :
    InLone (opened false [0]) (.crdLoad bare false (.imm 3) (gp 4)) (Reg.refs (gp 4)) [] ∧
    (let u := left (opened false [0]) [];
      u.openReqs 0 0 = [] ∧ RecordFits (zeroRecord u) ∧ ∀ k < 4, u.homeOf 0 (16 * k) 0 = .ok (region0, .core 0) ∧
        Passes u 0 0 (16 * k) .load false 0 region0 page0) := by
  refine ⟨lone_of rfl (by decide) (by decide), by decide, ⟨by decide, by decide, by decide, by decide⟩, ?_⟩
  intro k hk
  interval_cases k <;> exact ⟨homeAt_of (by decide), passes_of (by decide)⟩

/-- An instruction may execute in the released set of a state. -/
abbrev InSetOf (s : State) (i : Instr) (rd wr : List WRef) : Prop := FitsSet s (issue true [0, 1]) [] i rd wr

theorem hyp_cursorOperations :
    InSet (.crdOpen bare .enum (.imm 3) (.imm 256) Src.unused) [] [] ∧ InSet (.crdOpen bare .union (.imm 0) (.imm 256) (.imm 256)) [] [] ∧
    (let u := left (bound true) [];
      (∀ k ∈ setLanes, k.t.acq = [] ∧ k.t.read = [] ∧ ∀ m ∈ (u.group k.core (groupOf k)).present, u.localOpen k.core m = false) ∧
        ∀ l, setLanes.head? = some l → StreamAt u l 256 ∧ SlotLeft u l 3) ∧
    InSetOf (opened true [0, 1]) (.crdClose bare (.imm 0)) [] [] ∧
    InSetOf (opened true [0, 1]) (.crdSplit bare (.imm 0) (.imm 1) (.imm 0)) [] [] ∧
    InSetOf (opened true [0, 1]) (.crdNext bare 20 (.imm 0) 4) [] (crdRefs 20 4) ∧
    (∀ k ∈ active (opened true [0, 1]) (issue true [0, 1]) [] bare, k.t.acq = [] ∧ k.t.st ≠ .none) ∧
    ∀ l, (active (opened true [0, 1]) (issue true [0, 1]) [] bare).head? = some l → OpenIn (left (opened true [0, 1]) []) l 0 0 := by
  refine ⟨inSet (by decide), inSet (by decide), ?_, fitsSet_of rfl (by decide) (by decide), fitsSet_of rfl (by decide) (by decide),
    fitsSet_of rfl (by decide) (by decide), by decide, ?_⟩
  · refine ⟨by decide, ?_⟩
    intro l hl
    obtain rfl := Option.some.inj hl
    exact ⟨⟨by decide, by decide, by decide, by decide, by decide⟩, .inr ⟨by decide, 0, by decide⟩⟩
  · intro l hl
    obtain rfl := Option.some.inj hl
    unfold OpenIn
    decide

/-- The group of two with a budget of 48 registers, or another one. -/
def budgeted (n : Nat) : State := (bound true).modGroup 0 0 fun g => { g with budget := n }

theorem hyp_registerClaims :
    InSetOf (budgeted 48) (.rclaim bare (.imm 0)) [] [] ∧ InSetOf (budgeted 48) (.rclaim bare (.imm 2)) [] [] ∧
    InSetOf (budgeted 48) (.rgive bare (.imm 0)) [] [] ∧ InSetOf (budgeted 48) (.rgive bare (.imm 5)) [] [] ∧
    registers 0 = 0 ∧ ((budgeted 48).group 0 0).budget + registers 2 = 64 ∧ 8 + registers 5 = ((budgeted 48).group 0 0).budget ∧
    ∀ l, (active (budgeted 48) (issue true [0, 1]) [] bare).head? = some l → l.t.group.map Prod.fst = some 0 ∧
      count ((left (budgeted 48) []).srcVal l (.imm 5)) = 5 := by
  refine ⟨fitsSet_of rfl (by decide) (by decide), fitsSet_of rfl (by decide) (by decide), fitsSet_of rfl (by decide) (by decide),
    fitsSet_of rfl (by decide) (by decide), by decide, by decide, by decide, ?_⟩
  intro l hl
  obtain rfl := Option.some.inj hl
  decide

/-- The team of the group of two with a second group of one thread, which has or has not arrived at both barriers; the route tag 7 serves
core 0. -/
def barred (arrived : Bool) : State :=
  let s := (bound true).setThread 0 2 (thread (some (1, 0)))
  let s := s.setGroup 0 1 { (default : Group) with
    live := true, width := 1, budget := 64, num := 1, members := [2], arrTeam := arrived, arrRole := arrived }
  let s := s.modTeam 0 0 fun t => { t with groups := [0, 1] }
  s.modTree 0 7 fun t => { t with valid := true, exp := [(0, 2)] }

theorem hyp_barriers : ∀ a, (a = true ∨ a = false) →
    InSetOf (barred a) (.barTeam bare) [] [] ∧ InSetOf (barred a) (.barRole bare) [] [] ∧ InSetOf (barred a) (.barTree bare (.imm 7)) [] [] ∧
    (∀ l, (active (barred a) (issue true [0, 1]) [] bare).head? = some l → l.t.group.map Prod.fst = some 0) ∧
    (left (barred a) []).groupLocal 0 0 = false ∧ Members (left (barred a) []) (active (barred a) (issue true [0, 1]) [] bare) ∧
    (∀ k ∈ active (barred a) (issue true [0, 1]) [] bare, k.t.st ≠ .none) ∧ ((barred a).team 0 0).groups.Nodup ∧
    (∀ q ∈ (left (barred a) []).liveGroups 0 0, q ≠ 0 → ((left (barred a) []).group 0 q).arrTeam = a ∧
      ((left (barred a) []).group 0 q).arrRole = a ∧ ((left (barred a) []).group 0 q).role = ((left (barred a) []).group 0 0).role) ∧
    (∃ q ∈ (left (barred a) []).liveGroups 0 0, q ≠ 0) ∧
    (left (barred a) []).partOf 0 = some 0 ∧ ((left (barred a) []).tree 0 7).serves 0 = true := by
  rintro a (rfl | rfl) <;>
  · refine ⟨fitsSet_of rfl (by decide) (by decide), fitsSet_of rfl (by decide) (by decide), fitsSet_of rfl (by decide) (by decide), ?_,
      by decide, by unfold Members; decide, by decide, by decide, by decide, by decide, by decide, by decide⟩
    intro l hl
    obtain rfl := Option.some.inj hl
    decide

theorem hyp_arrivalCounters :
    InGroup (.arrive bare (.imm 0x180) (.imm 1)) [] [] ∧ InGroup (.waitCtr bare (.imm 64) (.imm 0)) [] [] ∧
    InGroup (.waitCtr bare (.imm 64) (.imm 0xFFF)) [] [] ∧
    (∀ l ∈ lanesOf (bound false) (issue false [0, 1]) [] bare, let u := left (bound false) []
      l.t.acq = [] ∧ u.spCheck l 0x180 8 = none ∧ u.spCheck l 64 8 = none ∧ (scratch u l).spBad 64 8 = false ∧ (scratch u l).spBad 0x180 8 = false ∧
        u.localOpen l.core l.ctx = false ∧ u.counterWord l.core (u.teamOf l) 64 = 0 ∧ count (u.srcVal l (.imm 0)) = 0 ∧
        0 < count (u.srcVal l (.imm 0xFFF))) :=
  ⟨inGroup (by decide), inGroup (by decide), inGroup (by decide), by decide⟩

theorem hyp_trapInstructions : InGroup (.trap bare (.imm 0xFFF)) [] [] ∧ InGroup (.trap bare (sg 3)) (Src.refs (sg 3)) [] ∧
    InGroup (.brk bare) [] [] ∧ (active (bound false) (issue false [0, 1]) [] bare).head?.isSome = true :=
  ⟨inGroup (by decide), inGroup (by decide), inGroup (by decide), by decide⟩

/-- A firmware thread. -/
def firmware : State := { (base.setThread 0 0 { (thread none) with priv := true }) with issues := [issue false [0]] }

/-- An instruction may execute in the firmware thread. -/
abbrev InFirmware (i : Instr) (rd wr : List WRef) : Prop := Fits firmware (issue false [0]) [] i rd wr

theorem hyp_systemInstructions :
    InFirmware (.srd bare false (gr 2) 0x80F0) [] (Reg.refs (gr 2)) ∧ InGroup (.srd bare false (gr 3) 0x13) [] (Reg.refs (gr 3)) ∧
    InFirmware (.swr bare false 0x80F0 (sg 4)) (Src.refs (sg 4)) [] ∧ InFirmware (.halt bare) [] [] ∧
    InFirmware (.tlbinvAll bare (.imm 0)) [] [] ∧ InFirmware (.tlbinvPage bare (.imm 0x3FF) (.reg (gp 2))) (Src.refs (.reg (gp 2))) [] ∧
    InFirmware (.roinvAll bare (.imm 0)) [] [] ∧ InFirmware (.roinvPage bare (.imm 0x3FF) (.reg (gp 2))) (Src.refs (.reg (gp 2))) [] ∧
    (∀ l ∈ lanesOf firmware (issue false [0]) [] bare, let u := left firmware []
      (u.sysValue l false 0x80F0).isSome = true ∧ u.privView l.t.sel 0x80F0 = some (false, 1500) ∧
        count (u.srcVal l (.imm 0x3FF)) = 1023) ∧
    ∀ l ∈ lanesOf (bound false) (issue false [0, 1]) [] bare, ((left (bound false) []).sysValue l false 0x13).isSome = true :=
  ⟨fits_of rfl (by decide), inGroup (by decide), fits_of rfl (by decide), fits_of rfl (by decide), fits_of rfl (by decide),
    fits_of rfl (by decide), fits_of rfl (by decide), fits_of rfl (by decide), by decide, by decide⟩

theorem hyp_userView : (let u := left (bound false) [];
      let l := (left (bound false) []).laneOf (issue false [0, 1]) 0 0;
      UserReg u l false 0 0x71080100 ∧ u.partOf l.core = some 0 ∧ l.t.group = some (0, 0) ∧ l.t.vfPkg = u.fabnum) ∧
    (laneAt free 0).t.group = none ∧ (((left free []).modPart 0 fun p => { p with slotEnd := some 94000 }).part 0).slotEnd = some 94000 :=
  ⟨⟨.devid, by decide, by decide, by decide⟩, by decide, by decide⟩

/-! ## Hypotheses of the statements on events -/

/-- A request of context 0 of core 0 at its home. -/
def request (k : AccKind) (a : Nat) (hm : Home) : Req :=
  { (default : Req) with id := 5, kind := k, va := BitVec.ofNat 64 a, size := 4, ty := .n32, op := .add, stat := .sent, home := hm }

/-- A state with requests; its page 1 at core 0 belongs to class 5. -/
def asked (rs : List Req) : State :=
  { (free.modCore 0 fun k => { k with tlb := k.tlb ++ [⟨0, 1, 5 * 2 ^ 52 + 19, [(1, true)]⟩] }) with reqs := rs, issues := [] }

theorem due_of {s : State} {r : Req} {g : Region} (hr : s.reqs = [r]) (h1 : r.stat = .sent) (h2 : r.reps = [])
    (h3 : Req.turnsBack r r = false ∧ Req.precedes r r = false) (h4 : s.walled r = false)
    (h5 : s.regionOf r.vf.toNat r.va.toNat = some g) (h6 : s.turned = []) : Due s r.id r g :=
  ⟨⟨by rw [hr]; exact List.mem_singleton.mpr rfl, rfl, by rw [hr]; simp⟩, h1, h2,
    by rw [hr]; intro x hx; rw [List.mem_singleton.mp hx]; exact h3, by (rw [h6]; intro _ h; cases h), h4, h5⟩

theorem hyp_performing : ∀ k ∈ [AccKind.load, .ro, .prefetch, .store, .atomic, .red],
    (let s := asked [request k 0 (.core 0)];
      Due s 5 (request k 0 (.core 0)) region0 ∧ (request k 0 (.core 0)).engine = 0 ∧ Passes s 0 0 0 k false 0 region0 page0 ∧
        s.otherReps (request k 0 (.core 0)) region0 = []) ∧
    (let s := asked [request k 0x20000 (.core 0)];
      Due s 5 (request k 0x20000 (.core 0)) region0 ∧
        s.homeCheck 0 0 0x20000 k false 0 region0 = .trap ⟨.pageFault, 0, 0x20000, 0⟩) ∧
    (AccKind.writes k = false → let s := asked [request k 0x10000 (.core 0)];
      Due s 5 (request k 0x10000 (.core 0)) region0 ∧ ∃ e, s.homeCheck 0 0 0x10000 k false 0 region0 = .denied e) := by
  have d : ∀ k a, (asked [request k a (.core 0)]).walled (request k a (.core 0)) = false →
      (asked [request k a (.core 0)]).regionOf 0 (BitVec.ofNat 64 a).toNat = some region0 →
      Req.turnsBack (request k a (.core 0)) (request k a (.core 0)) = false ∧
        Req.precedes (request k a (.core 0)) (request k a (.core 0)) = false →
      Due (asked [request k a (.core 0)]) 5 (request k a (.core 0)) region0 :=
    fun k a h1 h2 h3 => due_of rfl rfl rfl h3 h1 h2 rfl
  intro k hk
  fin_cases hk <;>
    exact ⟨⟨d _ _ (by decide) rfl (by decide), rfl, passes_of (by decide), by decide⟩, ⟨d _ _ (by decide) rfl (by decide), rfl⟩,
      fun h => by first | exact ⟨d _ _ (by decide) rfl (by decide), _, rfl⟩ | cases h⟩

/-- One atomic of each kind of operand. -/
theorem hyp_atomics : (∀ b, AtomOp.tyOk b .n32 .add = true) ∧ AtomOp.tyOk false .n32 .cas = true ∧ AtomOp.tyOk true .f32 .add = true ∧ bytesOf .n32 = 4 ∧ bytesOf .f32 = 4 := by
  decide

theorem named_of {s : State} {r : Req} {id : Nat} (hr : s.reqs = [r]) (hi : r.id = id) : Named s id r :=
  ⟨by rw [hr]; exact List.mem_singleton.mpr rfl, hi, by rw [hr]; simp⟩

/-- A page table of core 3 that maps the first GiB. -/
def paged : State :=
  let s := base.modVf 0 fun v => { v with roots := [(3, 8192)] }
  let put := fun m (e : Nat × Nat) => Mem.write m (physAddr 3 e.1) (leBytes 8 e.2)
  { s with mem := [(8192, 16385), (16384, 24577), (24576, 2 * 2 ^ 50 + 3)].foldl put s.mem }

/-- A sector on its way to core 1's slice. -/
def filling : State := { base with fills := [⟨1, 0, 4, 0, List.replicate 256 7, 0, none⟩] }

/-- An `mcst` that has reached its primary replica and goes to die 0 still. -/
def spreading : Req := { (request .mcst 0x200000 (.core 64)) with reps := [0] }

theorem hyp_requestEvents :
    (∀ hm ∈ [Home.core 1, .host, .far 1 3], let r := { (request .load 0x100000 hm) with stat := .unsent };
      let s := asked [r];
      Named s 5 r ∧ r.kind ≠ .red ∧ s.maySend r = true ∧ s.isAway r.core 1 = false) ∧
    (let r := request .store 0 (.core 8);
      Named (asked [r]) 5 r ∧ ∃ q, (asked [r]).wallOf r = some q) ∧
    (paged.regionOf 0 (0xFFFFF : BitVec 64).toNat = some region0 ∧ paged.tlbFind 0 0xFFFFF 3 = none ∧ rootOf paged 0 3 = 8192 ∧
      Walks paged 3 0xFFFFF false 4 8192 ⟨0, 2, false, false, false, false, 0⟩ ∧
      ((paged.core 3).tlb.filter fun x => x.vf != 0).length < 2048) ∧
    (∃ f, filling.fills[0]? = some f ∧ filling.sliceLive f.slice = true ∧ filling.sliceSets f.slice ≠ 0 ∧ f.hint ≠ 3 ∧
      (filling.core f.slice).ro = []) ∧
    (let s := asked [spreading];
      Named s 5 spreading ∧ (0 : Nat) ∈ spreading.reps ∧ spreading.reps.Nodup ∧ 0 / 8 = s.fabnum.toNat ∧
        s.regionOf spreading.vf.toNat spreading.va.toNat = some region2 ∧
        s.walled { spreading with core := spreading.homeCore, home := .core 0, far := none } = false ∧
        Passes s 0 0 0x200000 .mcst false (64 * (0 % 8) + (0x200000 - region2.base) / 65536 % 64) region2 pageR) ∧
    (∀ st ∈ [RStat.performed, .faulted ⟨.pageFault, 0, 0, 0⟩],
      let r := { (request .load 0 (.core 0)) with stat := st, dst := some (gr 8), top := true };
      Named (asked [r]) 5 r ∧ ((asked [r]).thread 0 0).st ≠ .none ∧ (asked [r]).units = []) ∧
    (let r := { (request .load 0 (.core 0)) with stat := .performed };
      let x := { r with id := 6, lane := 1, ctx := 1 };
      Named (asked [r, x]) 5 r ∧ x ∈ (asked [r, x]).reqs ∧ Req.inUnit x r.core r.issue r.key = true ∧ x.known = false) ∧
    (let r := { (request .load 0 (.core 0)) with stat := .performed, known := true };
      let low := { r with id := 6, lane := 1, ctx := 1, stat := .faulted ⟨.pageFault, 0, 0, 0⟩ };
      unitReqs (asked [r, low]) 0 0 = [r, low] ∧ (∀ q ∈ [r, low], q.fails = true → q = low ∨ low.lane < q.lane) ∧
        r.ctx ≠ 8192 ∧ (asked [r, low]).units = [] ∧
        (∀ q ∈ [r, low], q.core = r.core ∧ (q.fails = true → q.known = true) ∧ ((asked [r, low]).thread 0 q.ctx).st ∈ [TState.ready, .none]) ∧ ∀ q ∈ (asked [r, low]).reqs, q.underway = false) := by
  refine ⟨?_, ⟨named_of rfl rfl, _, rfl⟩, ⟨by decide, by decide, by decide, ?_, by decide⟩, ⟨_, rfl, by decide, by decide, by decide, rfl⟩,
    ⟨named_of rfl rfl, by decide, by decide, by decide, rfl, by decide, passes_of (by decide)⟩, ?_,
    ⟨⟨by decide, rfl, by decide⟩, by decide, by decide, rfl⟩, by decide⟩
  · intro hm h
    fin_cases h <;> exact ⟨named_of rfl rfl, by decide, by decide, by decide⟩
  · exact .next 16385 (by decide) (by decide) (by decide) (by decide) (by decide) (by decide)
      (.next 24577 (by decide) (by decide) (by decide) (by decide) (by decide) (by decide)
        (.leaf (2 * 2 ^ 50 + 3) (by decide) (by decide) (by decide) (by decide) (by decide) (by decide) (by decide) (by decide)))
  · intro st h
    fin_cases h <;> exact ⟨named_of rfl rfl, by decide, rfl⟩

/-- A free thread that leaves for core 1. -/
def leaving : State := { (free.modThread 0 0 fun t => { t with st := .departing 0x100000 (.core 1) }) with issues := [] }

/-- A frame of VF 0 under kernel 1, and the state in which it flies to a core. -/
def frame : Frame := { (default : Frame) with khandle := 1, pc := 6, pred := 2, gregs := List.replicate 16 9 }
/-- The state in which it flies. -/
def flying (c : Nat) : State := { base with flights := [⟨frame, 0, c, 16, false⟩] }
/-- The calendar of partition 0 in a slot of VF 0. -/
def inSlot (s : State) : State := s.modPart 0 fun p => { p with run := true, slotWord := 0x40000000 }
theorem leastFree_zero {n : Nat} {p : Nat → Bool} (h : 0 < n) (hp : p 0 = true) : leastFree n p = some 0 :=
  List.find?_range_eq_some.mpr ⟨hp, List.mem_range.mpr h, fun _ hj => absurd hj (Nat.not_lt_zero _)⟩
/-- The state in which it waits at core 1; its kernel has code or none. -/
def queued (code : List (BitVec 16)) : State :=
  ((inSlot base).modVf 0 fun v =>
    { v with kernels := [(1, { (default : Kernel) with live := true, migratory := true, code := code })] }).modCore 1
    fun k => { k with queue := [⟨frame, 0, 16⟩] }

/-- A free thread that leaves for core 5 of package 3. -/
def leavingFar : State :=
  { (free.modThread 0 0 fun t => { t with st := .departing 0x100000 (.far 3 5) }) with issues := [], partpair := [(0, 0x8000000000000003)], fwctl := [(ethRouter 1, 0x8000000000400000)] }

theorem hyp_frames :
    ((leavingFar.thread 0 0).st = .departing 0x100000 (.far 3 5) ∧ leavingFar.isAway 0 3 = false ∧ leavingFar.engineOpen .fab 0 0 = false ∧
      leavingFar.migWall (leavingFar.mkFrame 0 (leavingFar.thread 0 0) 0x100000) (crossOut 0 (outPort 0 3) 3 5) = none) ∧
    ((leaving.thread 0 0).st = .departing 0x100000 (.core 1) ∧ leaving.flights = [] ∧ leaving.engineOpen .fab 0 0 = false) ∧
    (∃ f p, (flying 8).flights[0]? = some f ∧ InOrder (flying 8) 0 f ∧ (flying 8).frameWall f = some p ∧ f.frame.srcPkg = (flying 8).fabnum) ∧
    (∃ f, (flying 0).flights[0]? = some f ∧ f.frame.kind.toNat ≤ 2 ∧ ((flying 0).vf 0).rst = false ∧ InOrder (flying 0) 0 f ∧
      (flying 0).frameWall f = none ∧ ((flying 0).core 0).overflow = [] ∧ ((flying 0).core 0).queue.length < 512) ∧
    ∀ code ∈ [[], [0]], Admits (queued code) 1 0 ⟨frame, 0, 16⟩ ∧ ((queued code).frameTrap 1 frame = none ↔ code = [0]) := by
  refine ⟨by decide, by decide, ⟨_, _, rfl, by unfold InOrder; decide, rfl, by decide⟩, ⟨_, rfl, by unfold InOrder; decide⟩, ?_⟩
  intro code h
  fin_cases h <;> exact ⟨⟨by decide, by decide, by decide, by decide, by decide, by decide⟩, by decide⟩

/-- A free thread at a short parcel of a kernel with a dictionary of one word; loaded or not. -/
def shortened (ds : List Dict) : State :=
  (free.modVf 0 fun v => { v with kernels := [(1, { (default : Kernel) with live := true, dict := [0x33C000000000000000000000] })] }).modCore 0
    fun k => { k with dicts := ds }

/-- A dictionary of another kernel, used last at a count. -/
def dict (n : Nat) : Dict := ⟨0, n, true, n⟩

theorem hyp_issuing :
    (free.readyOf 0 0 = [(0, free.thread 0 0)] ∧ older (0, free.thread 0 0) (0, free.thread 0 0) = true ∧
      (free.thread 0 0).kept = none ∧ free.gapNow = false ∧ free.events = []) ∧
    (∀ ds ∈ [[], [⟨0, 1, false, 0⟩]], let s := shortened ds;
      s.issues = [issue false [0]] ∧ (s.kernelOf (s.thread 0 0)).dict[0]? = some 0x33C000000000000000000000 ∧
        (s.kernelOf (s.thread 0 0)).dict[1]? = none ∧ (s.dictLoaded 0 0 1 = true ↔ ds ≠ [])) ∧
    ((shortened []).dictLoaded 0 0 1 = false ∧ ((shortened []).core 0).dicts.length < 4) ∧
    (let s := shortened [dict 2, dict 3, dict 4, dict 5];
      s.dictLoaded 0 0 1 = false ∧ 4 ≤ (s.core 0).dicts.length ∧ ∃ d ∈ (s.core 0).dicts, d.used = true) := by
  refine ⟨⟨rfl, by decide⟩, ?_, by decide, by decide⟩
  intro ds h
  fin_cases h <;> decide

/-- The group of two halted, with a cursor open, in a partition without a calendar; its VF has a save area at core 0. -/
def halted : State :=
  let s := (group2 true fun t => { t with st := .halted none })
  let s := (s.putCursor 0 (Cursor.ofLane ((left s []).laneOf (issue false [0]) 0 0) 0
    (CState.start .enum (Stream.start 0 0 0 false) (Stream.start 0 0 0 false)) true 0 0)).getD s
  let s := s.modVf 0 fun v => { v with save := [(0, 0x10000)] }
  let s := s.modTeam 0 0 fun t => { t with rowNums := (List.range 64).map (351 - ·) }
  { (s.modCore 0 fun k => { k with rbuf := [(63, some 1)] }) with issues := [] }

/-- Its team with its units gone, in a slot of its VF. -/
def gone : State := (inSlot halted).modTeam 0 0 fun t => { t with rowNums := [288], rowsOut := 63, spGone := [0, 15], accGone := [3] }

/-- A free thread in the save area, in a slot of its VF. -/
def saved : State := inSlot ((base.setThread 0 65536 { (thread none) with st := .halted none }))

/-- A halted free thread whose slot lies in row 0. -/
def resting : State :=
  (base.setThread 0 0 { (thread none) with st := .halted none, slot := some 0 }).modVf 0 fun v => { v with save := [(0, 0x10000)] }

/-- The thread whose slot alone is in the save area, in a slot of its VF. -/
def rowless : State := inSlot (base.setThread 0 0 { (thread none) with st := .halted none, slot := some slotCount })

theorem hyp_eviction :
    (∀ u ∈ [EvictUnit.context 1, .row 351, .spBlock 0 15, .accBlock 0 3, .uniform 0, .cursor 0, .buffer 63], halted.claimable 0 u = true) ∧
    (halted.rowTeam 0 351 = some 0 ∧ resting.rowTeam 0 0 = none ∧ resting.claimable 0 (.row 0) = true) ∧
    (gone.restoreTurn 0 0 = true ∧ gone.lacks 0 (gone.askRestore 0 0) = []) ∧
    ((saved.thread 0 65536).still = true ∧ (saved.thread 0 65536).group = none ∧
      saved.vfActive (saved.thread 0 65536).vf.toNat 0 = true ∧ saved.slotFree 0 = true ∧
      leastFree 4096 (fun n => !(saved.core 0).taken n) = some 0) ∧
    (rowless.thread 0 0).slotOut = true ∧ (rowless.thread 0 0).still = true ∧ (rowless.thread 0 0).group = none ∧
      rowless.vfActive (rowless.thread 0 0).vf.toNat 0 = true ∧ rowless.slotFree 0 = true :=
  ⟨by decide, by decide, by decide +kernel, ⟨by decide, by decide, by decide, by decide, leastFree_zero (by decide) (by decide)⟩, by decide⟩

/-- A grid of one team of one group of one thread, with or without that team still to place. -/
def grid (next : Nat) : Grid :=
  { (default : Grid) with id := 9, tag := 1, khandle := 1, width := 1, gx := 1, gy := 1, gz := 1, roles := [⟨0, 8, 1⟩], teams := 1, next := next }
/-- A state with the grid. -/
def gridded (next : Nat) : State := { base with grids := [grid next] }

/-- The team of the group of two, blocked in `rclaim` with a claim of 8 registers and some bytes of its pool free. -/
def claiming (free : Nat) : State :=
  ((group2 true fun t => { t with st := .waiting (.claim 6) }).modGroup 0 0 fun g => { g with budget := 56 }).modTeam 0 0 fun t =>
    { t with claims := [(0, 8)], free := free }

theorem hyp_gridsAndTeams :
    (let s := gridded 0;
      (s.vf 0).rst = false ∧ s.toPlace 0 = [grid 0] ∧ s.placeTurn 0 (grid 0) 0 = true ∧ s.quotaOk 0 0 1 = true ∧ (grid 0).affinity = false ∧
        (s.core 0).teamWait = [] ∧ s.lacks 0 ((s.kernel 0 1).askTeam (grid 0)) = [] ∧ s.scanOrder 0 = [] ++ 0 :: (s.scanOrder 0).drop 1) ∧
    (let g := { (grid 0) with affinity := true, affs := [0] };
      let s := { base with grids := [g] };
      s.toPlace 0 = [g] ∧ s.placeTurn 0 g 0 = true ∧ s.quotaOk 0 0 1 = true ∧ s.affinityCore 0 0 = some 0) ∧
    (∀ n ∈ [0, 1], let s := { (base.modVf 0 fun v => { v with ftCap := n }) with resvQ := [⟨0, 0, 0, 0, 1, true⟩] };
      s.resvQ[0]? = some ⟨0, 0, 0, 0, 1, true⟩ ∧ 0 = s.fabnum.toNat ∧ (s.underCaps 0 1 = true ↔ n = 1)) ∧
    (∀ b ∈ [true, false], let s := { (base.setThread 0 0 { (thread none) with st := .waiting .reserve }) with grants := [⟨0, 0, b⟩] };
      s.grants[0]? = some ⟨0, 0, b⟩ ∧ (s.thread 0 0).st = .waiting .reserve) ∧
    (let s := { (gridded 1) with decs := [⟨0, 1, true, true⟩] };
      s.decs[0]? = some ⟨0, 1, true, true⟩ ∧ s.gridBy 0 1 = some (grid 1)) ∧
    ((gridded 1).grids.find? (fun x => x.id == 9) = some (grid 1) ∧ (gridded 1).gridOver (grid 1) = true ∧
        (gridded 1).devWaits 0 ((gridded 1).chainAt 0 (grid 1).chain) = false) ∧
    (((claiming 64).team 0 0).claims = [(0, 8)] ∧ ((claiming 64).group 0 0).width * 8 * 4 = ((claiming 64).team 0 0).free ∧
      ((claiming 64).team 0 0).releases = [] ∧ ((claiming 64).group 0 0).present.Nodup) ∧
    (let s := (bound true).modTeam 0 0 fun t => { t with releases := [⟨0, 64, 48⟩] };
      (s.team 0 0).releases = [⟨0, 64, 48⟩] ∧ ∀ x ∈ (s.group 0 0).present, ∀ i < 64 - 48, ((s.thread 0 x).reg (48 + i)).st = .full) ∧
    ((claiming 63).deadlocked 0 0 = true ∧ ((claiming 63).liveGroups 0 0).Nodup) ∧
    (let s := (group2 true fun t => { t with st := .waiting (.barTree 7) }).modTree 0 7 fun t =>
        { t with valid := true, exp := [(0, 1)], arrivals := [(0, 0, 0)], releases := [(0, 0)] };
      (s.tree 0 7).releases = [(0, 0)] ∧ (0 : DWord).toNat ≤ s.clk.toNat ∧ (0, 0, 0) ∈ (s.tree 0 7).arrivals ∧
        ∀ x ∈ (s.group 0 0).present, (s.thread 0 x).st = .waiting (.barTree 7)) := by
  decide +kernel

/-- The team of the group of two with a copy in its engine. -/
def copies (o : CopyOp) : State := (bound true).modCore 0 fun k => { k with copies := [o] }

theorem copyAt_of {s : State} {c : Nat} {o : CopyOp} (h : (s.core c).copies = [o]) (hf : s.forkHeld c o.ctx o.seq = false) :
    CopyAt s c o.id o :=
  ⟨by rw [h]; exact List.mem_singleton.mpr rfl, rfl, by rw [h]; simp, hf⟩

/-- A copy of three elements, of which two lie in the tensor, in or out, with a counter or a token, with tags or without. -/
def copyOf (out done tags : Bool) : CopyOp :=
  (left (bound true) []).newCopy (laneAt (bound true) 0) false
    (leBytes 12 0 ++ leBytes 4 ((if out then 2 ^ 28 else 0) + (if done then 2 ^ 16 else 0) + if tags then 2 ^ 27 + 5 * 2 ^ 22 else 0) ++
      leBytes 16 2 ++ List.replicate 24 0 ++ leBytes 2 2 ++ List.replicate 70 0)
    0 ([0, 2, 4] ++ if tags then [3] else []) 3 (if done then none else some 10)

/-- A gather of rows 0 and 7 of a table of one row. -/
def gatherOf : CopyOp :=
  (left (bound true) []).newCopy (laneAt (bound true) 0) true
    (leBytes 16 0 ++ leBytes 4 1 ++ leBytes 4 0 ++ leBytes 4 256 ++ leBytes 4 0x10000 ++ leBytes 4 64 ++ leBytes 4 16 ++ List.replicate 24 0)
    0 [0, 1] 32 (some 10)
/-- The state in which it runs. -/
def gathers : State := (copies gatherOf).modTeam 0 0 fun t => { t with sp := Mem.write t.sp 260 [7] }

theorem readsAt_of {s : State} {c : Nat} {o : CopyOp} {a : Nat} {k : AccKind} {p : Nat} (e : Pte) (g : Region) (d : Nat)
    (h : (homeAt s o.vf.toNat a c g (.core d) && passOk s o.vf.toNat a k d g e) = true)
    (h1 : a < 2 ^ 56 ∧ g.win = false ∧ s.engineWalled (o.asker c) g.win k d = false ∧ p = placeOf e a d) : ReadsAt s c o a k p e := by
  rw [Bool.and_eq_true] at h
  exact ⟨h1.1, g, .core d, d, homeAt_of h.1, fun w => by (rw [h1.2.1] at w; cases w), .inl ⟨rfl, h1.2.2.1⟩, h1.2.2.2, passes_of h.2⟩

/-- A spill or fill of two tile units, or of the one that is left, to the scratchpad or to memory. -/
def spills (fill sp : Bool) (units : List Nat) : SpillOp :=
  { (left (bound true) []).newSpill (laneAt (bound true) 0) fill sp 63 1 2 32 with left := units }

/-- The group of two with such an operation in its engine. -/
def spilling (fill sp : Bool) (units : List Nat) : State := (bound true).modCore 0 fun k => { k with spills := [spills fill sp units] }

theorem partAt_of {s : State} {c : Nat} {o : SpillOp} {a : Nat} {k : AccKind} {p : Nat} (e : Pte) (g : Region) (d : Nat)
    (h : (homeAt s o.vf.toNat a c g (.core d) && passOk s o.vf.toNat a k d g e && passOk s o.vf.toNat (a + 16) k d g e) = true)
    (h1 : (a % 32 = 0 ∧ a < 2 ^ 56) ∧ g.win = false ∧ s.engineWalled (o.asker c) g.win k d = false ∧ p = placeOf e a d) :
    PartAt s c o a k p e := by
  simp only [Bool.and_eq_true] at h
  exact ⟨h1.1.1, h1.1.2, g, .core d, d, homeAt_of h.1.1, fun w => by (rw [h1.2.1] at w; cases w), .inl ⟨rfl, h1.2.2.1⟩, h1.2.2.2,
    passes_of h.1.2, passes_of h.2⟩

theorem tbl_get_all {α : Type} (d : α) (p : α → Prop) (hd : p d) : ∀ t : Tbl α, (∀ e ∈ t, p e.2) → ∀ i, p (Tbl.get d t i)
  | [], _, _ => hd
  | e :: t, h, i => by
    unfold Tbl.get
    split
    · exact h e List.mem_cons_self
    · exact tbl_get_all d p hd t (fun e he => h e (List.mem_cons_of_mem _ he)) i

/-- No thread of a core waits. -/
theorem quiet_of {s : State} {c : Nat} (h : (s.core c).ctxs.all (fun e => e.2.st == .none || e.2.st == .ready) = true) (x : Nat) :
    s.counterOut c x = none := by
  have h1 : (s.thread c x).st = .none ∨ (s.thread c x).st = .ready :=
    tbl_get_all default (fun (t : Thread) => t.st = .none ∨ t.st = .ready) (.inl rfl) _ (fun e he => by
      have := List.all_eq_true.mp h e he
      simpa only [Bool.or_eq_true, beq_iff_eq] using this) x
  unfold State.counterOut
  rcases h1 with h | h <;> simp only [h]

theorem hyp_engineMoves :
    (∀ out ∈ [true, false], ∀ done ∈ [true, false], ∀ tags ∈ [true, false], let o := copyOf out done tags;
      let d := CopyDesc.ofBytes o.desc;
      let k : AccKind := if out then .store else .load;
      CopyAt (copies o) 0 o.id o ∧ (o.isGather = false ∧ 2 * 1 ∈ o.left ∧ 2 * 2 ∈ o.left ∧ o.counter = (if done then some 0 else none) ∧
        d.dir = (if out then 1 else 0) ∧ d.inside 1 = true ∧ d.inside 2 = false) ∧
        ReadsAt (copies o) 0 o (d.gAt 1) k (d.gAt 1) page0 ∧ ((copies o).team 0 0).spBad (d.sAt 1) d.es = false ∧
        (∀ x, (copies o).counterOut 0 x = none) ∧
        (tags = true → 2 * 1 + 1 ∈ o.left ∧ d.tagAt 1 = 2 ∧ ReadsAt (copies o) 0 o 2 k 2 page0 ∧
          (copies o).homeRead 2 page0 2 / 4096 % 16 < 4 ∧ ((copies o).team 0 0).spBad (d.tagsp + 2 * 1) 2 = false ∧
          Mem.readNat ((copies o).team 0 0).sp (d.tagsp + 2 * 1) 2 / 4096 % 16 < 4)) ∧
    (let d := GatherDesc.ofBytes gatherOf.desc;
      let x := fun n => Mem.readNat (gathers.team 0 0).sp (d.idxoff + 4 * n) 4;
      CopyAt gathers 0 gatherOf.id gatherOf ∧ (gatherOf.isGather = true ∧ 0 ∈ gatherOf.left ∧ 1 ∈ gatherOf.left ∧ gatherOf.index = []) ∧
        (∀ n < 2, (gathers.team 0 0).spBad (d.idxoff + 4 * n) 4 = false) ∧
        (x 0 < d.rows ∧ d.rowSize = 16 ∧ d.rows ≤ x 1 ∧ (gathers.team 0 0).spBad d.defoff d.rowSize = false) ∧
        (d.table + x 0 * d.stride) % 65536 + d.rowSize ≤ 65536 ∧
        ∀ u < 1, ReadsAt gathers 0 gatherOf (d.table + x 0 * d.stride + 16 * u) .load (16 * u) page0) ∧
    (∀ done ∈ [true, false], ∀ e ∈ [none, some Cause.poison], let o := { (copyOf false done false) with left := [], err := e };
      o.stuck = [] ∧ o.counter = (if done then some 0 else none) ∧ o.tok = (if done then none else some 10) ∧ ((copies o).core 0).copies = [o] ∧
        (copies o).units = [] ∧ ((copies o).thread 0 o.ctx).st ≠ .none ∧ (copies o).writesOut 0 (2 ^ 20 + o.id) = false) := by
  refine ⟨?_, ⟨copyAt_of rfl (by decide), by decide, by decide, by decide, by decide, ?_⟩, by decide⟩
  · intro out h done h' tags h''
    fin_cases h <;> fin_cases h' <;> fin_cases h'' <;>
      exact ⟨copyAt_of rfl (by decide), by decide, readsAt_of page0 region0 0 (by decide) (by decide), by decide, quiet_of (by decide),
        fun t => by first | exact ⟨by decide, by decide, readsAt_of page0 region0 0 (by decide) (by decide), by decide⟩ | cases t⟩
  · intro u h
    interval_cases u
    exact readsAt_of page0 region0 0 (by decide) (by decide)

theorem hyp_spillsMove :
    (∀ fill ∈ [true, false], ∀ sp ∈ [true, false], ∀ us ∈ [[1], [0, 1]], let o := spills fill sp us;
      let s := spilling fill sp us;
      (s.core 0).spills = [o] ∧ s.forkHeld 0 o.ctx o.seq = false ∧ o.err = none ∧ o.stuck = [] ∧ o.left = us ∧ o.toSp = sp ∧
        s.writesOut 0 (2 ^ 20 + o.id) = false ∧ (s.thread 0 o.ctx).st ≠ .none ∧ s.units = [] ∧ o.lane < o.width ∧ o.isFill = fill ∧
        o.tok = some 63 ∧ (∀ u ∈ us, 8 * (o.tile + u) + 8 ≤ 63) ∧ o.halves = [] ∧ o.n = 2 ∧ (fill = false → o.words.length = 8 * o.n)) ∧
    (∀ fill ∈ [true, false], PartAt (spilling fill false [1]) 0 (spills fill false [1]) 96 (if fill then .load else .store) 96 page0) ∧
    let s := spilling false false [1]
    let o := spills false false [1]
    PartAt (s.homeWrite 96 page0 (((o.words.drop (8 * 1)).take 4).flatMap fun w => leBytes 4 w.val.toNat)) 0 o 96 .store 96 page0 := by
  refine ⟨by decide, ?_, partAt_of page0 region0 0 (by decide) (by decide)⟩
  intro fill h
  fin_cases h <;> exact partAt_of page0 region0 0 (by decide) (by decide)

/-- The group of two with matrix operations queued. -/
def matrix (os : List MatOp) : State := (bound true).modCore 0 fun k => { k with mq := os }
/-- A matrix operation of the group. -/
def matOp (k : MKind) (t : Ty) (st : Option DWord) : MatOp :=
  { (left (bound true) []).matOp k t setLanes with row := 62, row2 := 0, off := 0, n := 2, start := st }
/-- Such an operation that has one unit of the scratchpad left to read or write. -/
def lastUnit (o : MatOp) : MatOp :=
  { o with units := (List.range ((footprint o + 15) / 16 - 1)).map fun u => (u, List.replicate 16 0, false) }

/-- A started operation of a type with variant 1. -/
def startedOp (k : MKind) (t : Ty) : MatOp := { matOp k t (some 0) with var := 1 }

/-- The members hold lists of two entries. -/
def topped : MatOp := { (listed 2) with
  start := some 0, lanes := setLanes.map fun l => ⟨l.lane, l.ctx, 64, 2, [7, 5], [1, 0xFFFFFFFF]⟩ }

/-- The group of two with a word LOCKED and poisoned, before its operation starts. -/
def lockedWord : State := (matrix [matOp .mma .i8 none]).modThread 0 0 fun t =>
  { t with regs := Tbl.set t.regs 3 { (default : RegWord) with st := .locked 1, poison := true } }

theorem hyp_matrixStarts :
    (∀ k ∈ [MKind.mma, .mmaSp, .mtopk], ((matrix [matOp k .q4 none]).core 0).mq = [matOp k .q4 none] ∧ (matOp k .q4 none).start = none ∧
      (matrix [matOp k .q4 none]).mayStart 0 = true ∧ ((matOp k .q4 none).lanes.map MLane.ctx).Nodup) ∧
    (3 ∈ sourceWords (matOp .mma .i8 none) ∧ ((lockedWord.thread 0 0).reg 3).st = .locked 1 ∧ ((lockedWord.thread 0 0).reg 3).poison = true ∧
      lockedWord.mayStart 0 = true) ∧
    (∀ k ∈ [MKind.mma, .acld], let o := matOp k .i8 (some 0);
      ((matrix [o]).core 0).mq = [o] ∧ o.start ≠ none ∧ 1 < o.left.length ∧ o.readsSp = true) ∧
    (let o := matOp .acz .i32 (some 0);
      let s := { (matrix [o, o]) with clk := 94000 };
      (s.core 0).mq = [o, o] ∧ o.start = some 0 ∧ (0 : DWord).toNat + 94000 ≤ s.clk.toNat ∧
        ∃ m ∈ s.membersOf 0 o.gset, (s.thread 0 m.2).st ≠ .none ∧ (s.thread 0 m.2).st ≠ .parked) := by
  decide +kernel

/-- What the end of an operation asks of it and of a state. -/
def mayEnd (o : MatOp) : Bool :=
  let tm := o.asRead ((matrix [o]).team 0 o.team)
  ((matrix [o]).core 0).mq == [o] && o.start.isSome && o.left.length ≤ 1 && o.off % 64 == 0 && !tm.spBad o.off (footprint o) &&
    (o.lanes.all fun l => !(tm.row (o.row + l.lane)).poison) && decide (o.lanes.map MLane.lane).Nodup && decide (o.lanes.map MLane.ctx).Nodup &&
    (List.range o.n).all fun i => !(tm.row (o.row + i)).poison && !(tm.row (o.row2 + i)).poison

/-- The tags of an operation over a scratchpad of zeros are of FMT 0. -/
def tagsOk (o : MatOp) : Bool :=
  o.lanes.all fun l => (List.range (rowLen o.ty (o.kind == .mmaSp) / 32)).all fun q =>
    tagOfA o l q / 4096 == 0 && (List.range 64).all fun j => tagOfB o [] q j / 4096 == 0

theorem zero_units (us : List Nat) : ∀ tm : Team, tm.sp = [] →
    ((us.map fun u => (u, List.replicate 16 (0 : Byte), false)).foldl (fun t e => Team.setUnit t e.1 e.2.1 e.2.2) tm).sp = [] := by
  induction us with
  | nil => exact fun _ h => h
  | cons u us ih => exact fun tm h => ih _ (by unfold Team.setUnit; simp only [h]; rfl)

theorem hyp_matrixEnds :
    (∀ k ∈ [MKind.mma, .mmaSp, .mdist], let o := lastUnit (startedOp k .i8); mayEnd o = true ∧ o.bad = false) ∧
    (let o := lastUnit (startedOp .mma .q4);
      mayEnd o = true ∧ (o.bad = false ∧ (o.asRead ((matrix [o]).team 0 o.team)).sp = []) ∧ tagsOk o = true ∧ tagsOk { o with lanes := o.lanes.map fun l => { l with md := [0x8000, 0] } } = false) ∧
    (let o := startedOp .mma .i8;
      { o with bad := true }.bad = true ∧ ∃ m ∈ (matrix [o]).membersOf 0 o.gset, ((matrix [o]).thread 0 m.2).st ≠ .none ∧
        ((matrix [o]).thread 0 m.2).st ≠ .parked) ∧
    (mayEnd topped = true ∧ topped.ty = .i32 ∧ ∀ l ∈ topped.lanes, l.a.length = l.k ∧ l.md.length = l.k ∧ l.k ≤ 16) ∧
    (∀ k ∈ [MKind.acz, .acld, .acst, .accp], mayEnd (lastUnit (startedOp k .i32)) = true) ∧
    ((startedOp .accp .f32).row2 + (startedOp .accp .f32).n ≤ (startedOp .accp .f32).row ∧ (startedOp .acsc .e5m2).var < 4 ∧
      ∀ t ∈ [Ty.e5m2, .q4, .f16], mayEnd (lastUnit (startedOp .acsc t)) = true) := by
  refine ⟨by decide +kernel, ⟨by decide +kernel, ⟨rfl, zero_units _ _ rfl⟩, by decide +kernel, by decide +kernel⟩, by decide +kernel, by decide +kernel,
    by decide +kernel, by decide +kernel⟩

/-- The start of a cursor over empty streams. -/
def atStart (op : CrdOp) : CState := CState.start op (Stream.start 0 0 0 false) (Stream.start 0 0 0 false)

/-- The group of two at a cursor over empty streams that decodes, or leaves a share, with or without an item decoded before. -/
def harvesting (op : CrdOp) (b : CrdBusy) (look : Option (Item × CState)) : State :=
  let s := group2 true fun t => { t with st := .waiting .harvest }
  (s.putCursor 0 { (Cursor.ofLane ((left s []).laneOf (issue false [0]) 0 0) 0 (atStart op) true 0 0) with
    busy := b, look := look }).getD s

/-- What `HarvestGoes` asks of cursor slot 0 and the members of the group. -/
def goesOk (s : State) : Bool :=
  (s.cursor 0 0).live && !(s.cursor 0 0).stuck && !(s.cursor 0 0).paused &&
    (s.group 0 (s.cursor 0 0).gset).present.all (fun x => !s.localOpen 0 x) &&
    [0, 1].all fun x => decide ((s.thread 0 x).st = .waiting .harvest)

theorem goes_of {s : State} (h : goesOk s = true) : HarvestGoes s 0 (s.cursor 0 0) [(0, 0), (1, 1)] := by
  simp only [goesOk, Bool.and_eq_true, Bool.not_eq_true', List.all_eq_true, decide_eq_true_eq] at h
  obtain ⟨⟨⟨⟨h1, h2⟩, h3⟩, h4⟩, h5⟩ := h
  refine ⟨⟨h1, h2, h3⟩, h4, by decide, ?_⟩
  intro m hm
  fin_cases hm <;> exact h5 _ (by decide)

theorem hyp_harvestCompletes :
    (let s := harvesting .enum (.next 6 [(0, 0), (1, 1)] 61 12 0 6) none;
      let k := s.cursor 0 0;
      k.busy = .next 6 [(0, 0), (1, 1)] 61 12 0 6 ∧ HarvestGoes s 0 k [(0, 0), (1, 1)] ∧ k.look = none ∧ AtEnd k.cur ∧ ∃ l st look ds,
        (s.henv 0 k 0).deliver 2 k = .ok ((l, st, look), ds)) ∧
    (let it : Item := ⟨5, 0, 1, true, false⟩;
      let s := harvesting .union (.next 6 [(0, 0), (1, 1)] 61 12 0 6) (some (it, atStart .union));
      let k := s.cursor 0 0;
      k.busy = .next 6 [(0, 0), (1, 1)] 61 12 0 6 ∧ HarvestGoes s 0 k [(0, 0), (1, 1)] ∧ k.look = some (it, atStart .union) ∧
        AtEnd (atStart .union)) ∧
    (∀ op ∈ [CrdOp.enum, .diff, .expand], let s := harvesting op (.split 6 [(0, 0), (1, 1)] 65536 65535 0 6) none;
      let k := s.cursor 0 0;
      k.busy = .split 6 [(0, 0), (1, 1)] 65536 65535 0 6 ∧ HarvestGoes s 0 k [(0, 0), (1, 1)] ∧ AtEnd k.cur) ∧
    (let s := harvesting .enum (.split 6 [(0, 0), (1, 1)] 65536 65535 0 6) none;
      let k := s.cursor 0 0;
      CrdOp.two k.cur.op = false ∧ ∃ st ds, (s.henv 0 k 0).shareOne 65536 65535 k.cur = .ok (st, ds)) ∧
    (let s := harvesting .union (.split 6 [(0, 0), (1, 1)] 65536 65535 0 6) none;
      let k := s.cursor 0 0;
      CrdOp.two k.cur.op = true ∧ ∃ st ds, (s.henv 0 k 0).shareTwo 65536 65535 k.cur = .ok (st, ds)) := by
  refine ⟨⟨rfl, goes_of (by decide), rfl, by unfold AtEnd; decide, _, _, _, _, rfl⟩,
    ⟨rfl, goes_of (by decide), rfl, by unfold AtEnd; decide⟩, ?_, ⟨rfl, _, _, rfl⟩, rfl, _, _, rfl⟩
  intro op h
  fin_cases h <;> exact ⟨rfl, goes_of (by decide), by unfold AtEnd; decide⟩

/-- The group of two parked at its instruction. -/
def parkedUnit : FUnit :=
  { (default : FUnit) with id := 3, seq := some 1, gset := some 0, threads := [(0, 0), (1, 1)], resume := .reexec }
/-- The state with that unit. -/
def parked : State := inSlot { (group2 true fun t => { t with st := .parked, units := [3] }) with units := [parkedUnit], issues := [] }

/-- A record that waits for room in a queue that has some. -/
def held : State :=
  { (base.modVf 0 fun v => { v with faultQ := 0x1000 }) with held := [⟨some 3, 0, none, List.replicate 120 0, 0⟩] }

theorem hyp_parkedUnits :
    ((parked.vf 0).rst = false ∧ parked.unitAt 0 1 = some parkedUnit ∧ parkedUnit.reqs = [] ∧ parkedUnit.saved = false ∧ (parkedUnit.threads.map Prod.snd).Nodup ∧
      ∀ e ∈ parkedUnit.threads, let h := parked.thread 0 e.2;
        h.st = .parked ∧ h.units = [parkedUnit.id] ∧ h.kept = none ∧ parked.mayRunNow 0 e.2 = true ∧ parked.reqs = []) ∧
    parked.unitAt 0 2 = none ∧
    (∃ h, held.held[0]? = some h ∧ h.retry.toNat ≤ held.clk.toNat ∧ HasRoom held h.vf 0x1000 ∧ SlotAt held h.vf 0x1000 0x1080) :=
  ⟨by decide, by decide, _, rfl, by decide, ⟨dev_of region0 0 page0 (by decide), by decide⟩, dev_of region0 0 page0 (by decide)⟩

/-- A partition in or out of its last slot. -/
def running (run idle : Bool) : State :=
  base.modPart 0 fun p => { p with run := run, idle := idle, slots := [(0, 0x40000000)], slotEnd := some 0, outgoing := [(0, 0)] }

theorem hyp_calendars :
    (calctlOk 0x1F01 = true ∧ (0x1F01 : Word).getLsbD 0 = true ∧ calctlOk 0 = true ∧ (0 : Word).getLsbD 0 = false) ∧
    (((running false false).part 0).run = false ∧ ((running false false).part 0).usedFrom 31 = some 0) ∧
    (((running true false).part 0).run = true ∧ ((running true false).part 0).slotEnd = some 0 ∧
      (0 : DWord).toNat ≤ (running true false).clk.toNat ∧ ((running true false).part 0).usedFrom 1 = some 0) ∧
    (let s := (running true false).setThread 0 0 (thread none);
      (0, 0) ∈ (s.part 0).outgoing ∧ s.partOf 0 = some 0 ∧ (s.thread 0 0).vf.toNat = 0 ∧ (s.thread 0 0).priv = false ∧
        (s.thread 0 0).st = .ready) ∧
    (slotOk 0x400000FF = true ∧ ((running true true).part 0).idle = true ∧ (0x400000FF : Word).toNat / 2 ^ 30 ≠ 0) := by
  decide

theorem hyp_virtualDeviceReset : (base.vf 1023).rst = false ∧
    (let s := base.modVf 0 fun v => { v with rst := true };
      (s.vf 0).rst = true ∧ (∀ f ∈ s.flights, f.frame.vf.toNat ≠ 0) ∧ s.frameOut 0 = false) := by
  decide

/-- The running package whose VF 0 keeps its chain records at 0x2000. -/
def chained : State :=
  { (base.modVf 0 fun v => { v with chainBase := 0x2000 }) with power := { (default : Power) with stage := .running } }

/-- A launch block of one team of one group (13 R314); or one with a wait, a role table, a principal and an affinity address besides. -/
def headBlock (full : Bool) : List Byte :=
  leBytes 8 0 ++ leBytes 8 (2 ^ 48 + if full then 2 ^ 39 + 2 ^ 37 + 2 ^ 32 else 0) ++ leBytes 4 1 ++ leBytes 4 1 ++ leBytes 4 1 ++
    if full then leBytes 20 0 ++ leBytes 8 0x3000 ++ leBytes 8 0x3100 ++ leBytes 16 0x3300 ++ leBytes 8 0x3200 else []

/-- The block heads chain 0; its kernel has one role of one group. -/
def heading (full : Bool) : State :=
  let s := chained.modVf 0 fun v => { v with kernels := [(1, { (default : Kernel) with
    live := true, widths := 15, code := [0], roles := [⟨0, 8, 1⟩] })] }
  let m := Mem.write s.mem 0x1000 (headBlock full)
  let m := Mem.write m 0x3300 (leBytes 8 (2 ^ 40 + 8 * 2 ^ 32))
  { s with mem := Mem.write m 0x2000 (leBytes 8 0x1000 ++ leBytes 8 0x1000 ++ leBytes 8 1) }

/-- The same chain with its block started. -/
def started : State := (heading false).modVf 0 fun v => { v with chains := [(0, { (default : Chain) with cur := some 0x1000 })] }

theorem recordHere_of {s : State} {v k p : Nat} (g : Region) (c : Nat) (e : Pte)
    (h : ∀ off < 64, devOk s v (s.chainAt v k + off) true (p + off) g c e = true) : RecordHere s v k p := fun off ho => dev_of g c e (h off ho)

theorem hyp_doorbell :
    (chained.power.stage = .running ∧ (heading false).power.stage = .running) ∧
    (chained.appendWaits 0 3 0x1000 = false ∧ (heading false).appendWaits 0 0 0x1100 = false ∧ chained.waitIn = [] ∧ (heading false).waitIn = []) ∧
    ((chained.vf 0).rst = false ∧ DevReaches chained 0 0x1000 true 0x1000 ∧
      let s1 := chained.devPut 0x1000 (leBytes 8 0);
      DevReaches s1 0 (s1.chainAt 0 3) true 0x20C0 ∧ 0x20C0 % 64 = 0 ∧ devNat s1 0x20C0 8 % 2 ^ 56 = 0) ∧
    (DevReaches (heading false) 0 0x1100 true 0x1100 ∧
      let s1 := (heading false).devPut 0x1100 (leBytes 8 0);
      let s2 := (s1.devPut 0x2010 (leBytes 8 (devNat s1 0x2010 8 + 1))).devPut 0x2008 (leBytes 8 0x1100);
      DevReaches s1 0 (s1.chainAt 0 0) true 0x2000 ∧ devNat s1 0x2000 8 % 2 ^ 56 ≠ 0 ∧
        DevReaches s2 0 (devNat s1 0x2008 8 % 2 ^ 56) true 0x1000) :=
  ⟨⟨rfl, rfl⟩, by decide, ⟨by decide, dev_of region0 0 page0 (by decide), dev_of region0 0 page0 (by decide), by decide, by decide⟩,
    dev_of region0 0 page0 (by decide), dev_of region0 0 page0 (by decide), by decide, dev_of region0 0 page0 (by decide +kernel)⟩

theorem hyp_controlPage : ¬((4 : Nat) = 8 ∧ 4 % 8 = 0 ∧ 4 < 4096) ∧ ¬((8 : Nat) = 8 ∧ 4096 % 8 = 0 ∧ 4096 < 4096) ∧
    ((0xFF8 : Nat) % 8 = 0 ∧ 0xFF8 < 4096 ∧ 0x200 ≤ 0xFF8) ∧ RecordHere chained 0 3 0x20C0 :=
  ⟨by decide, by decide, by decide, recordHere_of region0 0 page0 (by decide)⟩

/-- What `ChainFree` asks of the chain, where no grid is placed. -/
theorem chainFree_of {s : State} {v k p : Nat} (h : (s.vf v).enable = true ∧ (s.vf v).rst = false)
    (h2 : (Tbl.get (default : Chain) (s.vf v).chains k).stopped = false ∧ devNat s (p + 0x38) 8 < 2 ^ 48 ∧ s.devWaits v (s.chainAt v k) = false)
    (h3 : s.grids = []) : ChainFree s v k p := ⟨h, h2.1, h2.2.1, by (rw [h3]; intro _ h; cases h), h2.2.2⟩

/-- Core 0 has room for the team of either block. -/
theorem room_of {s : State} {w : Nat} {rs : List Role} {k : Kernel} (h : w * groupCount rs ≤ 4096 - 64 ∧
      ((rs.map fun r => r.groups * w * r.budget * 4).sum + k.reserve + 2047) / 2048 ≤ 352 - 2 ∧ k.acc ≤ 32 ∧
      k.scratch ≤ 16 * ((s.partOf 0).map fun p => (s.part p).s).getD 0) : RoomFor s 0 k w rs := ⟨h.1, h.2.1, h.2.2.1, h.2.2.2⟩

/-- The state in which STARTED is counted. -/
def startCounted (full : Bool) : State := (heading full).devPut 0x2018 (leBytes 8 1)

/-- A list of one number that the device reads. -/
theorem listed_one {s : State} {v a size q x : Nat} (h : DevReaches s v a false q) (hx : x = devNat s q size) : Listed s v a size [x] := by
  intro i y hy
  match i, hy with
  | 0, hy => obtain rfl := Option.some.inj hy; exact ⟨q, by simpa using h, hx⟩
  | _ + 1, hy => cases hy

theorem listed_nil {s : State} {v a size : Nat} : Listed s v a size [] := by
  intro i x h
  cases h

theorem hyp_blockStarts : ∀ full, (full = true ∨ full = false) →
    (let s := heading full;
      (Tbl.get (default : Chain) (s.vf 0).chains 0).cur = none ∧ s.devWaits 0 0x1000 = false ∧ ChainFree s 0 0 0x2000 ∧ RecordHere s 0 0 0x2000 ∧
        devNat s 0x2000 8 % 2 ^ 56 = 0x1000 ∧ DevReaches s 0 0x1000 false 0x1000) ∧
    (let b := LBlock.ofBytes ((heading full).stillBytes 0x1000 256);
      (b.waits.take b.nwait = if full then [(0x3200, 0)] else []) ∧ DevReaches (heading full) 0 0x3200 false 0x3200 ∧
        DevReaches (startCounted full) 0 0x1090 true 0x1090 ∧
        BlockFits (startCounted full) 0 b [⟨0, 8, 1⟩] (if full then [0] else []) (if full then [0] else [])) := by
  rintro full (rfl | rfl)
  · refine ⟨⟨by decide, by decide +kernel, chainFree_of (by decide +kernel) (by decide +kernel) rfl, recordHere_of region0 0 page0 (by decide +kernel), by decide +kernel,
      dev_of region0 0 page0 (by decide +kernel)⟩, by decide +kernel, dev_of region0 0 page0 (by decide +kernel),
      dev_of region0 0 page0 (by decide +kernel), ?_⟩
    refine ⟨by decide +kernel, .inr ⟨by decide +kernel, [2 ^ 40 + 8 * 2 ^ 32, 0, 0, 0], rfl, ?_, by decide +kernel⟩, by decide +kernel,
      ⟨by decide +kernel, listed_one (dev_of (p := 0x3000) region0 0 page0 (by decide +kernel)) (by decide +kernel), by decide⟩,
      by decide +kernel, ⟨by decide +kernel, listed_one (dev_of (p := 0x3100) region0 0 page0 (by decide +kernel)) (by decide +kernel)⟩,
      fun h => absurd h (by decide +kernel), by decide +kernel, ?_⟩
    · intro i x hx
      match i, hx with
      | 0, hx => obtain rfl := Option.some.inj hx; exact ⟨0x3300, dev_of region0 0 page0 (by decide +kernel), by decide +kernel⟩
      | 1, hx => obtain rfl := Option.some.inj hx; exact ⟨0x3308, dev_of region0 0 page0 (by decide +kernel), by decide +kernel⟩
      | 2, hx => obtain rfl := Option.some.inj hx; exact ⟨0x3310, dev_of region0 0 page0 (by decide +kernel), by decide +kernel⟩
      | 3, hx => obtain rfl := Option.some.inj hx; exact ⟨0x3318, dev_of region0 0 page0 (by decide +kernel), by decide +kernel⟩
      | _ + 4, hx => cases hx
    · intro a ha
      obtain rfl := List.mem_singleton.mp ha
      exact ⟨region0, 0, homeAt_of (by decide), by decide, by decide, by decide, by decide, room_of (by decide +kernel)⟩
  · refine ⟨⟨by decide, by decide +kernel, chainFree_of (by decide +kernel) (by decide +kernel) rfl, recordHere_of region0 0 page0 (by decide +kernel), by decide +kernel,
      dev_of region0 0 page0 (by decide +kernel)⟩, by decide +kernel, dev_of region0 0 page0 (by decide +kernel),
      dev_of region0 0 page0 (by decide +kernel), ?_⟩
    refine ⟨by decide +kernel, .inl ⟨by decide +kernel, by decide +kernel⟩, by decide +kernel,
      ⟨by decide +kernel, listed_nil, by decide⟩, by decide +kernel, ⟨by decide +kernel, listed_nil⟩,
      fun _ => ⟨0, by decide, by decide, room_of (by decide +kernel)⟩, by decide +kernel, fun a h => by cases h⟩

theorem hyp_chainAdvances : (Tbl.get (default : Chain) (started.vf 0).chains 0).cur = some 0x1000 ∧ ChainFree started 0 0 0x2000 ∧
    RecordHere started 0 0 0x2000 ∧ DevReaches started 0 0x1000 false 0x1000 ∧ devNat started 0x1000 8 % 2 ^ 56 = 0 ∧
    devNat started 0x2008 8 % 2 ^ 56 = 0x1000 :=
  ⟨by decide, chainFree_of (by decide) (by decide) rfl, recordHere_of region0 0 page0 (by decide +kernel), dev_of region0 0 page0 (by decide),
    by decide, by decide⟩

/-- The start of an image of one role whose code is one parcel (13 R305), in region 2; VF 0 registers it. -/
def registering (magic : Nat) : State :=
  let s := base.modVf 0 fun v => { v with kimg := 0x200000, kernels := [] }
  let h := leBytes 4 magic ++ leBytes 2 1 ++ leBytes 2 2 ++ leBytes 8 1 ++ leBytes 4 128 ++ leBytes 16 0 ++ leBytes 2 0 ++ leBytes 1 1 ++
    leBytes 9 0 ++ leBytes 8 (2 ^ 40 + 8 * 2 ^ 32)
  { s with mem := Mem.write s.mem 0 h }

theorem hyp_configuration :
    (octOk 0x80 = true ∧ ∀ j : Nat, j < 8 → (free.octBusy (8 * 7 + j) = false)) ∧
    ((1 : Word).toNat % 8 = 1 ∧ (6 : Word).toNat % 8 = 6) ∧ (7 : Word).toNat % 8 = 7 ∧
    (∀ c : Nat, c ∈ free.partCores 1 → (free.core c).occupied = false) ∧
    ((0x8001 : BitVec 16).extractLsb' 11 2 = 0 ∧ (0x8001 : BitVec 16).getLsbD 13 = false) ∧
    ((0xA7FF : BitVec 16).extractLsb' 11 2 = 0 ∧ (0xA7FF : BitVec 16).getLsbD 13 = true) ∧ base.ownerFree (511 * 32768 + 30719) = true ∧
    (base.owner (511 * 32768 + 30719)).init = false ∧ (State.reset.writeOwner 0 0 0xA000).owner 0 = ⟨true, false, true, 0⟩ ∧
    (1500 ≤ (1500 : DWord).toNat % 8192 ∧ (4200 : DWord).toNat % 8192 ≤ 4200 ∧ (1499 : DWord).toNat % 8192 < 1500) ∧
    ({ base with power := { (default : Power) with stage := .running } } : State).power.stage = .running ∧
    (∃ c x, ((base.setThread 0 0 { (thread none) with st := .waiting .firmware }).thread c x).st = .waiting .firmware) := by
  refine ⟨by decide, by decide, by decide, by decide +kernel, by decide, by decide, by decide, by decide, by decide, by decide, rfl, 0, 0, by decide⟩

/-- The checks of `ImageByte`, in a page of device memory at core 0. -/
def imageOk (s : State) (v a : Nat) (x : Byte) (g : Region) (e : Pte) : Bool :=
  let p := physAddr 0 (e.offset a)
  decide (a < 2 ^ 56) && homeAt s v a 0 g (.core 0) && heldEntry s v a 0 g e && e.cls == 0 && !e.host &&
    ((s.owner (frameOf p)).init || !s.poisoned p) && x.toNat == devNat s p 1

theorem image_of {s : State} {v a : Nat} {x : Byte} (g : Region) (e : Pte) (h : imageOk s v a x g e = true) : ImageByte s v a x := by
  simp only [imageOk, Bool.and_eq_true, Bool.or_eq_true, Bool.not_eq_true', beq_iff_eq, decide_eq_true_eq] at h
  obtain ⟨⟨⟨⟨⟨⟨h1, h2⟩, h3⟩, h4⟩, h5⟩, h6⟩, h7⟩ := h
  exact ⟨h1, g, .core 0, 0, e, homeAt_of h2, .inl rfl, entry_of h3, h4, .inr ⟨h5, h6, h7⟩⟩

/-- Its first bytes. -/
def image (i : Nat) : Byte := Mem.get (registering 0x58425751).mem i

theorem hyp_kernelRegistered :
    let s := registering 0x58425751
    let img := (s.vf 0).kimg.toNat
    let num := fun (off k : Nat) => ((List.range k).map fun i => (image (off + i)).toNat * 256 ^ i).sum
    let h := Header.ofNat (num 0 128)
    (∀ i, i < 128 ∨ h.codeOff ≤ i ∧ i < h.codeOff + 2 * h.codeLen ∨ h.dictOff ≤ i ∧ i < h.dictOff + 12 * h.dictLen ∨
      h.safeOff ≤ i ∧ i < h.safeOff + 32 * h.nsafe → ImageByte s 0 (img + i) (image i)) ∧
    h.magic = 0x58425751 ∧ h.version = 1 ∧ h.limitsOk = true ∧ h.inside img = true ∧ h.rolesOk = some [⟨0, 8, 1⟩] ∧ h.nsafe = 0 ∧
    s.handleFree 0 1 = true := by
  intro s img num h
  have hc : h.codeOff = 128 ∧ h.codeLen = 1 ∧ h.dictLen = 0 ∧ h.nsafe = 0 := by decide +kernel
  have hb : ∀ i < 130, imageOk s 0 (img + i) (image i) region2 pageR = true := by decide +kernel
  refine ⟨?_, by decide +kernel, by decide +kernel, by decide +kernel, by decide +kernel, by decide +kernel, hc.2.2.2, by decide +kernel⟩
  intro i hi
  rw [hc.1, hc.2.1, hc.2.2.1, hc.2.2.2] at hi
  exact image_of region2 pageR (hb i (by omega))

theorem test_kernel_read : (registering 0x58425751).readKernel 0 = .ok { (default : Kernel) with
    live := true, image := 0x200000, widths := 1, code := [0], roles := [⟨0, 8, 1⟩] } := by
  decide +kernel

theorem hyp_kernelRejected : (registering 0).readKernel 0 = .error 1 := by
  decide +kernel

/-- Window 1 in a state, with a page of its producer VF 0. -/
def windowed (st : WinState) : State :=
  let s := State.reset.setOwner 5 ⟨true, false, false, 1⟩
  { s with windows := [(1, { (default : Window) with state := st, pages := [6], cmd := 3 })] }

theorem hyp_windows :
    ((0x8000000000000005 : DWord).getLsbD 63 = true ∧ ((windowed .closed).owner 5).key = ((windowed .closed).window 1).producer + 1 ∧
      5 ∉ ((windowed .closed).window 1).pages) ∧
    (∀ c ∈ [1, 2, 3], winctlOk (BitVec.ofNat 64 (c * 2 ^ 60)) = true ∧ (BitVec.ofNat 64 (c * 2 ^ 60)).toNat / 2 ^ 60 % 4 = c) ∧
    ∀ st ∈ [WinState.closed, .opening, .isOpen, .closing], ((windowed st).window 1).state = st := by
  decide

/-- A running package whose frame 7 the host may not reach, with two packets unacknowledged at port 0 and a thread that awaits a marker. -/
def linked : State :=
  let s := { (State.reset.setOwner 7 ⟨false, false, false, 0⟩) with power := { (default : Power) with stage := .running } }
  let s := s.modPort 0 fun p => { p with cfg := 0x8000000100000000, unacked := [({ (default : Packet) with body := .marker 0 0 }, 0),
    ({ (default : Packet) with body := .frame frame 0 }, 7)] }
  let s := s.setThread 0 0 { (thread none) with st := .waiting .flush, flush := ⟨[1], false, some 1⟩ }
  { s with routers := [(0, { (default : Router) with since := [(7, 0)], lowMax := 0 })] }

/-- The package with a packet of class 4 waiting at Ethernet port 15. -/
def backed : State := ({ linked with clk := 100000 } : State).modPort 15 fun p => { p with cfg := 0x8000000100000000, queue := [({ (default : Packet) with cls := 4, dstPkg := 3 }, none)] }

/-- A packet that it takes. -/
def packet : Packet := { (default : Packet) with body := .frame frame 0 }

theorem hyp_hostAndLinks :
    (linked.hdmOpen (7 * 65536) 64 = true ∧ linked.hdmOk (7 * 65536) 64 = false) ∧
    (linked.hdmOpen 0xC0 64 = true ∧ linked.hdmOk 0xC0 64 = true ∧ linked.hdmBusy 0xC0 64 = false ∧ (List.replicate 64 (1 : Byte)) ≠ [] ∧
      0xC0 % 256 + 64 ≤ 256 ∧ ∀ i < 64, linked.poisoned (hdmAt (0xC0 + i)) = false) ∧
    (linked.takes 0 packet = true ∧ (∃ f core, packet.body = .frame f core) ∧ (Packet.source packet, packet.seq) ∉ (linked.port 0).rxSeen ∧
      let s := linked.modPort 0 fun p => { p with rxSeen := [(Packet.source packet, packet.seq)] };
      s.takes 0 packet = true ∧ (Packet.source packet, packet.seq) ∈ (s.port 0).rxSeen ∧ (Packet.source packet, packet.seq) ∉ (s.port 0).rxMarkers) ∧
    (∃ k0 k1, (linked.port 0).unacked[0]? = some k0 ∧ k0.2 < (linked.port 0).retryMax ∧ (linked.port 0).unacked[1]? = some k1 ∧
      (linked.port 0).retryMax ≤ k1.2 ∧ k1.1.body = .frame frame 0) ∧
    ((linked.thread 0 0).flush.out = some 1 ∧ linked.named 0 0 = 0 ∧ 1 ≤ markers linked 0 0) ∧ ethOk 0x8000000100000000 = true ∧
    ((∀ p ∈ [0, 1], ∀ n < 16, ethRouter n ≠ p) ∧ Tbl.has (linked.router 1).since 4 = false ∧ Tbl.has (linked.router 0).since 7 = true ∧
      (Tbl.get 0 (linked.router 0).since 7).toNat + (linked.router 0).lowMax ≤ linked.clk.toNat) ∧
    (let r := backed.router (ethRouter 15);
      ∃ e, (backed.port 15).queue[0]? = some e ∧ e.1.cls.toNat = 4 ∧ (Tbl.get 0 r.since 4).toNat + (r.rules 1).2 ≤ backed.clk.toNat ∧
        backed.isAway (64 * (15 / 2)) e.1.dstPkg.toNat = false) := by
  refine ⟨by decide, by decide, ⟨by decide, ⟨_, _, rfl⟩, by decide⟩, ⟨_, _, rfl, by decide, rfl, by decide, rfl⟩, by decide, by decide,
    by decide, _, rfl, by decide⟩

/-- The package at a stage of its start. -/
def powered (st : PowerStage) : State := { State.reset with power := { (default : Power) with
  stage := st, dies := 7, verified := [0, 1, 2, 3, 4, 5, 6], therm := st == .running } }

theorem hyp_powerAndHealth :
    (∀ st ∈ [PowerStage.off, .dies, .boot], (powered st).power.stage = st) ∧
    ((powered .dies).power.nextDie.toNat ≤ (powered .dies).clk.toNat ∧ (powered .dies).power.dies = 7) ∧
    (7 ∉ (powered .boot).power.verified ∧ (powered .boot).power.verified.length = 7) ∧
    ((powered .off).power.nextInterval.toNat ≤ (powered .off).clk.toNat ∧ (powered .off).clk.toNat < ({ (powered .off) with clk := 0, power := { (powered .off).power with nextInterval := 9400 } } : State).power.nextInterval.toNat) ∧
    ((powered .off).power.therm = false ∧ (powered .running).power.therm = true ∧ (powered .off).power.temp < 800) ∧
    (∀ b ∈ [(0, 0), (1, 0), (0, 1), (1, 1), (0, 2), (1, 2)], let s := { State.reset with tests := [⟨0, .hbm, 0, b.1, b.2, 0, 0⟩] };
      s.tests[0]? = some ⟨0, .hbm, 0, b.1, b.2, 0, 0⟩) ∧ (List.replicate 32 (0 : Byte)).length = 32 ∧
    (let s := { (powered .running) with clk := 940000, power := { (powered .running).power with hotSince := some 0 } };
      s.power.hotSince = some 0 ∧ (0 : DWord).toNat + 940000 ≤ s.clk.toNat) := by
  decide

theorem hyp_stepRunsDecoded :
    (let s := free.modVf 0 fun v => { v with kernels := [(1, { (default : Kernel) with live := true, code := (encode (.nop bare)).getD [] })] };
      s.issues = [issue false [0]] ∧ (issue false [0]).word = none ∧
        decodeParcels ((s.kernelOf (s.thread 0 0)).parcels 0) = .ok (.nop bare, 6)) ∧
    decodeWord 0x33C000000000000000000000 = .ok (.nop bare) ∧
    (∃ e, free.fetch (issue false [0]) = .error e) ∧
    ({ State.reset with events := [.powerOn] } : State).issues = [] ∧ (State.reset.issues = [] ∧ State.reset.events = []) :=
  ⟨by decide, by decide, ⟨_, rfl⟩, rfl, rfl, rfl⟩

theorem hyp_decodeEncode : WellFormed (.nop bare) = true ∧ encodeWord (.nop bare) = some 0x33C000000000000000000000 ∧
    WellFormed (.shortParcel 0x3FF) = true ∧ (encode (.shortParcel 0x3FF)).isSome = true := by
  decide

theorem hyp_memoryKept : MemInv { State.reset with mem := [(5, 1)] } ∧ ∃ t, step { State.reset with mem := [(5, 1)] } = .next t :=
  ⟨by unfold MemInv; decide, _, rfl⟩

/-- A record whose numbers stand at the ends of their fields. -/
def record : Rec := { (default : Rec) with
  cause := 65535, kind := 255, origin := 15, ctx := 4095, core := 511, gset := 511, buf := 255, role := 3 }

/-- The state whose VF 0 keeps a fault queue of 64 records at 0x1000, with n of them unread. -/
def queueing (n : Nat) : State :=
  let s := base.modVf 0 fun v => { v with faultQ := 0x1006 }
  { s with mem := Mem.write s.mem 0x1000 (leBytes 8 n) }

theorem hyp_faultRecords : InFields record ∧
    (leastFree 64 (fun n => (Tbl.get none ((bound false).core 0).rbuf n).isNone) = some 0 ∧ (0, 1) ∉ parkedUnit.threads) ∧
    (∀ n ∈ [0, 63], HasRoom (queueing n) 0 0x1000 ∧ SlotAt (queueing n) 0 0x1000 (0x1080 + 128 * n)) ∧
    (let s := queueing 64;
      DevReaches s 0 (s.vf 0).fqAddr true 0x1000 ∧
        (s.vf 0).fqSize ≤ (BitVec.ofNat 64 (devNat s 0x1000 8) - BitVec.ofNat 64 (devNat s (0x1000 + 8) 8)).toNat) := by
  refine ⟨⟨by decide, by decide, by decide, by decide, by decide, by decide, by decide, by decide⟩, by decide, ?_,
    dev_of region0 0 page0 (by decide), by decide⟩
  intro n h
  fin_cases h <;> exact ⟨⟨dev_of region0 0 page0 (by decide), by decide⟩, dev_of region0 0 page0 (by decide +kernel)⟩

/-! ## Ill-formed terms, one for each check of `wf4` and of `wf5` -/

/-- A lane pair. -/
def pairG (n : BitVec 6) : Src := .reg (gp n)

theorem test_wf4_types : ([
    .add bare .b32 (gr 6) (sg 6) (sg 7), .iadd3 bare .i8 (gr 6) (sg 6) (sg 7) (sg 8), .mulWide bare .i64 (gp 6) (sg 6) (sg 7),
    .abs bare .n32 (gr 6) (sg 6), .and bare .n32 (gr 6) (sg 6) (sg 7), .sar bare .n32 (gr 6) (sg 6) (sg 7),
    .addc bare .i32 (gr 6) (sg 6) (sg 7) 1, .fadd bare .f16 .rn (gr 6) (sg 6) (sg 7), .fdot2 bare .f32 .rn (gr 6) (sg 6) (sg 7) (sg 8),
    .unpack bare .i32 (gr 6) (sg 6) (sg 7), .pack bare .i32 false (gr 6) (sg 6) (sg 7) (sg 8), .setp bare .lt .b32 1 (sg 6) (sg 7),
    .ldG bare .e4m3 false (gr 6) (gp 4) 0, .atomG bare .add .b32 false (gr 6) (gp 4) 0 (sg 8),
    .redG bare .cas .n32 false (sg 8) (gp 4) 0, .shfl bare .xor .i32 (gr 6) (sg 6) (sg 7) (sg 8),
    .lcompress bare .n32 (gr 6) (sg 6) 1 (gr 9), .redux bare .minn .i32 .rn (gr 6) (sg 6), .segscan bare false .f16 (gr 6) (sg 6) 1 (sg 7),
    .mma bare false .f32 0 0 (.imm 0) 0, .mmaSp bare false .f32 0 0 (.imm 0) 2, .sprune bare .q4 0 4 2, .mtopk bare true .f16 0 0 (sg 8) (.imm 1),
    .acsc bare .f32 0 (.imm 0) 0 (.imm 1) (.imm 0)].all fun i => !Instr.wf4 i) = true := by decide

theorem test_wf4_codes : ([
    .cvt bare .f32 .f32 .rn false (gr 6) (sg 6), .cvt bare .f32 .n32 .rn true (gr 6) (sg 6), .cvt bare .f32 .b32 .rn false (gr 6) (sg 6),
    .cvtPack bare .f16x2 .rn (gr 6) (sg 6) (sg 7) (sg 8), .qpack bare (gr 7) (gr 57) (sg 6) (gr 9),
    .qpack bare (gr 7) (gr 8) (sg 6) (gr 7), .qunpack bare .rn (gr 57) (sg 6) (sg 7), .pack bare .i16 false (gr 6) (sg 6) (sg 7) (sg 8),
    .fsetp bare 0 1 (sg 6) (sg 7), .fsetp bare 15 1 (sg 6) (sg 7), .stRel bare .win .n32 false (sg 8) (gp 4) 0,
    .lcompress bare .b32 (gr 6) (sg 7) 1 (gr 6), .lcompress bare .b64 (gp 6) (pairG 8) 1 (gr 7), .redux bare .min .f32 .rz (gr 6) (sg 6),
    .scan bare .add false .n32 .ru (gr 6) (sg 6), .mma bare false .f16 0 0 (.imm 0) 4, .acsc bare .e4m3 2 (.imm 0) 0 (.imm 1) (.imm 0),
    .acsc bare .f16 1 (.imm 0) 0 (.imm 1) (.imm 0), .crdOpen bare .enum (.imm 0) (.imm 0) (.imm 8), .crdNext bare 62 (.imm 0) 4,
    .crdNext bare 8 (.imm 0) 0, .crdNext bare 8 (.imm 0) 13, .srd bare false (gr 6) 0x40, .srd bare false (gr 6) 0x15,
    .srd bare true (gp 6) 0x10000, .swr bare false 0x10000 (sg 6)].all fun i => !Instr.wf4 i) = true := by decide

theorem test_wf5_pairs : ([
    .add bare .n64 (gr 6) (pairG 6) (pairG 8), .addXi bare .n32 (gr 6) (pairG 6) 1, .subb bare .n64 (gp 6) (pairG 6) (sg 8) 1,
    .madLo bare .n64 (gp 6) (pairG 6) (pairG 7) (pairG 8), .mulWide bare .n32 (gr 6) (sg 6) (sg 7), .madWide bare .n32 (gp 6) (sg 6) (sg 7) (sg 8),
    .not bare .b64 (gp 7) (pairG 6), .shl bare .b64 (gp 6) (pairG 6) (pairG 8), .bfi bare .b64 (gp 6) (pairG 6) (pairG 8) (pairG 10),
    .popc bare .b64 (gp 6) (pairG 6), .lea bare .n32 (gp 6) (sg 6) (sg 7) (sg 8), .mov bare (gp 6) (sg 6), .movi bare (gp 7) 1,
    .sel bare (gp 6) (pairG 6) (.imm 0) 1, .fadd bare .f32 .rn (gp 6) (sg 6) (sg 7), .fabs bare .f32 (gr 6) (pairG 6),
    .ffma bare .f32 .rn (gr 6) (sg 6) (sg 7) (pairG 8), .cvt bare .f32 .n64 .rn false (gr 6) (sg 6), .qpack bare (gr 7) (gr 8) (pairG 6) (gr 17),
    .setp bare .lt .i64 1 (pairG 6) (.imm 0), .fclass bare 1 (pairG 6) (sg 7), .pmovGet bare (gp 6), .pmovPut bare (gr 6) (pairG 8),
    .braInd bare (pairG 6), .add bare .n64 (gp 6) (.special .lane true) (pairG 8)].all fun i => !Instr.wf5 i) = true := by decide

theorem test_wf5_memory : ([
    .ldG bare .n32 false (gr 6) (gr 4) 0, .ldS bare .n32 (gr 6) (gp 4) 0, .stG bare .n64 false (sg 8) (gp 4) 0, .stS bare .n32 (pairG 8) (gr 4) 0,
    .pfRo bare (gr 4) 0, .atomG bare .add .n64 false (gp 6) (gp 4) 0 (sg 8), .atomS bare .add .n32 (gr 6) (gp 4) 0 (sg 8),
    .redG bare .add .n32 false (pairG 8) (gp 4) 0, .spawnAt bare 0 (gr 2) 3 false, .launch bare (gr 2) (pairG 4) (sg 6),
    .srd bare true (gr 6) 0x40, .swr bare true 0x8000 (sg 6), .tlbinvPage bare (sg 6) (sg 8)].all
      fun i => !Instr.wf5 i) = true := by decide

theorem test_wf5_lanes_matrix_engines : ([
    .shfl bare .xor .b32 (gr 6) (sg 6) (pairG 8) (sg 7), .lpred bare .mask (.reg (gr 6)) 1, .lpred bare .count (.reg (gp 6)) 1,
    .lpred bare .every (.reg (gr 6)) 1, .lpred bare .count (.pred 2) 1, .redux bare .add .n64 .rn (gp 6) (sg 6), .segred bare .n32 (gr 6) (sg 6) 1 (pairG 8),
    .peers bare .mask .b32 (gr 6) (sg 6), .lcompress bare .b32 (gr 6) (sg 6) 1 (gp 8), .lexpand bare .b64 (gp 6) (pairG 8) 1 (sg 7),
    .mma bare false .f16 0 1 (.imm 0) 0, .mma bare false .q4 0 0 (.imm 0) 2, .mmaSp bare false .q4 0 0 (.imm 0) 1, .sprune bare .i8 1 4 2,
    .sprune bare .i8 0 2 2, .mdist bare false .i8 0 1 (.imm 0), .mtopk bare true .i32 2 0 (sg 8) (.imm 1), .acz bare 0 (pairG 8),
    .acld bare 0 (pairG 8) (.imm 1) 2, .acsc bare .f16 0 (.imm 0) 0 (.imm 1) (pairG 8), .tcopy bare 2 (pairG 8),
    .crdOpen bare .enum (.imm 0) (pairG 8) Src.unused, .crdSplit bare (.imm 0) (pairG 8) (.imm 0), .crdNext bare 8 (pairG 8) 4, .crdSave bare false (.imm 0) (gr 8),
    .crdLoad bare true (.imm 0) (gp 8), .spill bare true 2 0 (pairG 8) (.imm 1), .fill bare false 2 0 (sg 8) (.imm 1), .fill bare false 2 0 (.imm 8) (.imm 1),
    .rclaim bare (pairG 8), .arrive bare (pairG 8) (.imm 1)].all fun i => !Instr.wf5 i) = true := by decide

/-! ## Words written out from 08 R172 to R191 and the instructions' own encoding tables -/

theorem test_decode_int :
    decodeWord 0x008000100410041008602001 = .ok (.addc bare .n64 (gp 4) (pairG 4) (pairG 8) 1) ∧
    decodeWord 0x05440000110011A080480000 = .ok (.xor (guarded 2) .b32 (gr 17) (sg 17) (.imm 0x80)) := by decide

theorem test_decode_control :
    decodeWord 0x328000000000180000000000 = .ok (.call bare 24) ∧
    decodeWord 0x33C000000000000000000000 = .ok (.nop bare) := by decide

theorem test_decode_memory :
    decodeWord 0x4300000006100400004C0000 = .ok (.stRel bare .fab .b32 false (sg 6) (gp 4) 0) ∧
    decodeWord 0x418000000810020009304010 = .ok (.atomG bare .cas .n32 false (gr 8) (gp 2) 0x10 (sg 9)) ∧
    decodeWord 0x420000000610020000585800 = .ok (.redG bare .addComb .f32 false (sg 6) (gp 2) 0) ∧
    decodeWord 0x428000000000000000000030 = .ok (.fence bare .pkg) := by decide

theorem test_decode_memory_hints :
    decodeWord 0x4400000000003C1002300000 = .ok (.spawnAt bare 60 (gp 2) 3 false) ∧
    decodeWord 0x42C104001E10060000300000 = .ok (.ldAcq ⟨0, false, 0x104⟩ .n32 false (gr 30) (gp 6) 0) := by decide

theorem test_decode_lanes :
    decodeWord 0x504000100260010000000000 = .ok (.lpred bare .mask (.reg (gp 2)) 1) ∧
    decodeWord 0x514000000900086002A02C00 = .ok (.segred bare .f32 (gr 9) (sg 8) 2 (.imm 0)) := by decide

theorem test_decode_matrix :
    decodeWord 0x584000C0004000A400400504 = .ok (.mmaSp bare true .i8 0 0 (.imm 1024) 4) ∧
    decodeWord 0x58C000C00040040008000500 = .ok (.mdist bare true .i8 0 4 (sg 8)) ∧
    decodeWord 0x5902004000C008000CA01404 = .ok (.mtopk (guarded 1) false .i32 0 8 (sg 12) (.imm 4)) ∧
    decodeWord 0x588000400040040000400402 = .ok (.sprune bare .i8 0 4 2) := by decide

theorem test_decode_engines :
    decodeWord 0x600000000AA4000000000000 = .ok (.tcopy bare 10 (.imm 1024)) ∧
    decodeWord 0x604200000FA0400000000000 = .ok (.gather (guarded 1) 15 (.imm 64)) ∧
    decodeWord 0x6080000000A001A100A10120 = .ok (.crdOpen bare .intersect (.imm 1) (.imm 256) (.imm 288)) ∧
    decodeWord 0x60C0000000A000000D800001 = .ok (.crdSplit bare (.imm 0) (sg 13) (.special .grpX false)) := by decide

theorem test_decode_registers :
    decodeWord 0x624000001C4004101AA00004 = .ok (.fill bare false 28 4 (pairG 26) (.imm 4)) ∧
    decodeWord 0x62000000064001A000A00107 = .ok (.spill bare true 6 1 (.imm 0) (.imm 7)) ∧
    decodeWord 0x6280000000A0070000000000 = .ok (.rclaim bare (.imm 7)) ∧
    decodeWord 0x62C0000000A0070000000000 = .ok (.rgive bare (.imm 7)) := by decide

theorem test_decode_system :
    decodeWord 0x7080000000A0030000000000 = .ok (.barTree bare (.imm 3)) ∧
    decodeWord 0x70C2000000A180A001000000 = .ok (.arrive (guarded 1) (.imm 0x180) (.imm 1)) ∧
    decodeWord 0x7100000000A040000C000000 = .ok (.waitCtr bare (.imm 64) (sg 12)) := by decide

/-! ## Results that the spec works out -/

theorem test_bfe : bitExtract .n32 0x12345678 0x0804 = 0x67 ∧ bitExtract .i32 0x12345678 0x0804 = 0x67 := by decide

theorem test_div_truncates : intDiv .i32 0xFFFFFFF9 2 = 0xFFFFFFFFFFFFFFFD ∧ intRem .i32 0xFFFFFFF9 2 = 0xFFFFFFFFFFFFFFFF := by decide

/-- The sources of the example of 09 R214. -/
def quarters : List Word := [0x3E99999A, 0x3F800000, 0xC0A00000, 0x42C80000, 0, 0x80000000, 0x3E400000, 0x40100000]

theorem test_qpack : qpackWord 0x05FA quarters = (0x50807F31, 0x05FA) := by decide +kernel

theorem test_qpack_nan : (qpackWord 0x05FA (quarters.set 3 0x7FC00000)).2 = 0x07FC := by decide +kernel

theorem test_qunpack : (List.range 8).map (qunpackWord .rn 0x05FA 0x50807F31) =
    [0x3EC00000, 0x3F900000, 0xC0900000, 0x40900000, 0, 0x80000000, 0, 0x40100000] := by decide +kernel

theorem test_bsel : [0xAAA3, 0x0BC0, 0x5698].map (bselWord 0x88442211 0x00FF7F01) = [0xFFFFFF88, 0x11888811, 0x7FFFFF00] := by decide

theorem test_pack_sat : packWord .n8 true 0xFFFFFFFB 0 0 = 0xFF ∧ packWord .i8 true 0xFFFFFFFB 0 0 = 0xFB := by decide

theorem test_fsetp :
    fsetpHolds 13 0x7FC00000 0x3F800000 = true ∧ fsetpHolds 5 0x7FC00000 0x3F800000 = false ∧ fsetpHolds 2 0x80000000 0 = true := by decide

theorem test_ffma_rounds_once : toF32 .rn (fsum .rn [(f32v 0x3F800001).mul (f32v 0x3F800001), f32v 0xBF800002]) = 0x28800000 := by
  decide +kernel

theorem test_mma_group : mmaCol .q4 false false 0xB7 0 0x05FA (3 * 2 ^ 256 + 7) 0x0DFC 0 0x3E800000 = 0x424B8000 := by decide +kernel

theorem test_mma_nan_tag : mmaCol .q4 false false 0 0 0x05FC (2 ^ 256) 0x0DFC 0 0x3E800000 = 0x3E800000 := by decide +kernel

theorem test_sprune :
    (pruneRow .i8 0x05F902FE0007F903).1 % 2 ^ 32 = 0x05F907F9 ∧ (pruneRow .i8 0x05F902FE0007F903).2 % 2 ^ 12 = 0xF91 ∧
      (pruneRow .i8 0xFC0000010404FC04).2 % 2 ^ 12 = 0x688 := by decide +kernel

theorem test_delta_block :
    (List.range 5).map ((Blk.ofNat 0x10510000000003E8).find 0x2F13 · 0) =
      [some (1000, 0, 0), some (1003, 1, 0), some (1004, 2, 0), some (1019, 3, 0), some (1021, 4, 0)] ∧
    (Blk.ofNat 0x10510000000003E8).size 0 = 16 := by decide

/-- The message "abc" of the public standard of SHA-256. -/
theorem test_sha256 : (sha256 [0x61, 0x62, 0x63]).take 4 = [0xBA, 0x78, 0x16, 0xBF] := by decide +kernel

/-! ## One step on a group of eight -/

/-- A group of eight in contexts 0 to 7 of core 0, all present in a released set; `f` changes the thread of a lane. -/
def group8 (lanes : List Nat) (f : Nat → Thread → Thread) : State :=
  let s := (List.range 8).foldl (fun s j => s.setThread 0 j (f j (thread (some (0, j))))) base
  let s := s.setGroup 0 0 { (default : Group) with live := true, width := 8, budget := 64, members := List.range 8 }
  let s := s.modTeam 0 0 fun t => { t with
    live := true, groups := [0], spBlocks := 16, accBlocks := 4, poolRows := 64, free := 1024 }
  { s with issues := [issue true lanes] }

/-- A lane that holds a word in g1, and in p1 whether the word is in a list. -/
def holding (ws : List Word) (ps : List Nat) (j : Nat) (t : Thread) : Thread :=
  { withRegs [(1, ws.getD j 0)] t with preds := if ps.contains j then 3 else 1 }

/-- What an instruction leaves in a register of each lane. -/
def after (i : Instr) (s : State) (n : Nat) : List Word :=
  match exec i s with
  | .next u => (List.range 8).map fun j => ((u.thread 0 j).reg n).val
  | _ => []

/-- The values of the examples of 11 R264 and R265. -/
def peersState : State := group8 (List.range 8) (holding [5, 7, 5, 5, 7, 9, 5, 7] [])

theorem test_peers_mask : after (.peers bare .mask .b32 (gp 2) (sg 1)) peersState 2 = [0x4D, 0x92, 0x4D, 0x4D, 0x92, 0x20, 0x4D, 0x92] := by
  decide +kernel

theorem test_peers_rank : after (.peers bare .rank .b32 (gr 2) (sg 1)) peersState 2 = [0, 0, 1, 2, 1, 0, 3, 2] := by decide +kernel

theorem test_lcompress :
    let s := group8 (List.range 8) (holding [10, 11, 12, 13, 14, 15, 16, 17] [1, 4, 6])
    after (.lcompress bare .b32 (gr 2) (sg 1) 1 (gr 3)) s 2 = [11, 14, 16, 0, 0, 0, 0, 0] ∧
      after (.lcompress bare .b32 (gr 2) (sg 1) 1 (gr 3)) s 3 = List.replicate 8 3 := by decide +kernel

theorem test_lpred :
    let s := group8 (List.range 8) (holding [] [2, 3, 6])
    after (.lpred bare .mask (.reg (gp 2)) 1) s 2 = List.replicate 8 0x4C ∧
      after (.lpred bare .first (.reg (gr 2)) 1) s 2 = List.replicate 8 2 := by decide +kernel

theorem test_segred :
    let s := group8 [0, 1, 2, 3, 4, 5, 7] (holding [1, 2, 3, 4, 5, 6, 7, 8] [3, 5])
    after (.segred bare .i32 (gr 2) (sg 1) 1 (.imm 0)) s 2 = [6, 6, 6, 9, 9, 14, 0, 14] := by decide +kernel

theorem test_segscan_exclusive :
    let s := group8 [0, 1, 2, 3, 4, 5, 7] (holding [1, 2, 3, 4, 5, 6, 7, 8] [3, 5])
    after (.segscan bare true .i32 (gr 2) (sg 1) 1 (.imm 0)) s 2 = [0, 1, 3, 0, 4, 0, 0, 6] := by decide +kernel

theorem test_redux_tree :
    let s := group8 [0, 1, 2] (holding [0x3F800000, 0x3F800000, 0x4B800000] [])
    (after (.redux bare .add .f32 .rn (gr 2) (sg 1)) s 2).take 3 = [0x4B800001, 0x4B800001, 0x4B800001] := by decide +kernel

end Sys2Proof.Tests
end

/-! PROOFS. Chapter 01, the execution model: the frames of migrating threads (O40), and the placement, counts and ends of grids and
teams (O43). First what the state's operations do, then the events. -/

namespace Sys2Proof.Proofs

open Sys2Proof.Machine Sys2Proof.Safety Sys2Proof.Claims Sys2Proof.Laws

/-! ## Fields of byte lists (00 R4) -/

@[simp] theorem leBytes_length (n v : Nat) : (leBytes n v).length = n := by
  induction n generalizing v with
  | zero => rfl
  | succ n ih => simp [leBytes, ih]

/-- A number read back from its bytes, reduced to their number. -/
theorem leNat_leBytes (n v : Nat) : leNat (leBytes n v) = v % 256 ^ n := by
  induction n generalizing v with
  | zero => simp [leBytes, leNat, Nat.mod_one]
  | succ n ih =>
    rw [leBytes, leNat, ih, BitVec.toNat_ofNat, show 256 ^ (n + 1) = 2 ^ 8 * 256 ^ n from Nat.pow_succ', Nat.mod_mul]
    rfl

/-- A field that ends within the first part of a byte list is read there. -/
theorem fieldAt_append_left (a b : List Byte) {off n : Nat} (h : off + n ≤ a.length) :
    fieldAt (a ++ b) off n = fieldAt a off n := by
  unfold fieldAt
  rw [List.drop_append_of_le_length (by omega), List.take_append_of_le_length (by rw [List.length_drop]; omega)]

/-- A field that begins beyond the first part of a byte list is read in the second. -/
theorem fieldAt_append_right (a b : List Byte) {off n : Nat} (h : a.length ≤ off) :
    fieldAt (a ++ b) off n = fieldAt b (off - a.length) n := by
  unfold fieldAt
  rw [List.drop_append, List.drop_eq_nil_of_le h, List.nil_append]

theorem fieldAt_leBytes (n v : Nat) : fieldAt (leBytes n v) 0 n = v % 256 ^ n := by
  unfold fieldAt
  rw [List.drop_zero, List.take_of_length_le (by simp), leNat_leBytes]

/-- The n-th of a row of 32-bit words. -/
theorem fieldAt_words (l : List Nat) (g : Nat → Nat) {n : Nat} (h : n < l.length) :
    fieldAt (l.flatMap fun i => leBytes 4 (g i)) (4 * n) 4 = g l[n] % 256 ^ 4 := by
  induction l generalizing n with
  | nil => simp at h
  | cons i l ih =>
    rw [List.flatMap_cons]
    cases n with
    | zero => rw [fieldAt_append_left _ _ (by simp)]; exact fieldAt_leBytes _ _
    | succ n =>
      rw [fieldAt_append_right _ _ (by simp), leBytes_length, show 4 * (n + 1) - 4 = 4 * n by omega,
        ih (by simpa using h)]
      rfl

/-! ## Tables, teams and groups: reading after writing -/

@[simp] theorem tbl_get_del {α : Type} (d : α) (t : Tbl α) (i : Nat) : Tbl.get d (Tbl.del t i) i = d := by
  induction t with
  | nil => rfl
  | cons e t ih =>
    by_cases he : e.1 = i
    · simpa [Tbl.del, he] using ih
    · simpa [Tbl.del, Tbl.get, he] using ih

@[simp] theorem vf_modVf (s : State) (v : Nat) (f : Vf → Vf) : (s.modVf v f).vf v = f (s.vf v) := tbl_get_set _ _ _ _

theorem core_modTeam (s : State) (c t d : Nat) (f : Team → Team) :
    (s.modTeam c t f).core d = { s.core d with teams := ((s.modTeam c t f).core d).teams } := by
  unfold State.modTeam
  by_cases h : d = c
  · subst h; rw [core_modCore]
  · rw [core_modCore_other _ _ h]

theorem core_modGroup (s : State) (c g d : Nat) (f : Group → Group) :
    (s.modGroup c g f).core d = { s.core d with groups := ((s.modGroup c g f).core d).groups } := by
  unfold State.modGroup State.setGroup
  by_cases h : d = c
  · subst h; rw [core_modCore]
  · rw [core_modCore_other _ _ h]

@[simp] theorem team_modTeam (s : State) (c t : Nat) (f : Team → Team) : (s.modTeam c t f).team c t = f (s.team c t) := by
  rw [State.team, State.modTeam, core_modCore]
  exact tbl_get_set _ _ _ _

@[simp] theorem group_modGroup (s : State) (c g : Nat) (f : Group → Group) : (s.modGroup c g f).group c g = f (s.group c g) := by
  rw [State.group, State.modGroup, State.setGroup, core_modCore]
  exact tbl_get_set _ _ _ _

@[simp] theorem group_modTeam (s : State) (c t d g : Nat) (f : Team → Team) : (s.modTeam c t f).group d g = s.group d g := by
  unfold State.group; rw [core_modTeam]

@[simp] theorem thread_modTeam (s : State) (c t d x : Nat) (f : Team → Team) : (s.modTeam c t f).thread d x = s.thread d x := by
  unfold State.thread; rw [core_modTeam]

@[simp] theorem team_modGroup (s : State) (c g d t : Nat) (f : Group → Group) : (s.modGroup c g f).team d t = s.team d t := by
  unfold State.team; rw [core_modGroup]

@[simp] theorem thread_modGroup (s : State) (c g d x : Nat) (f : Group → Group) : (s.modGroup c g f).thread d x = s.thread d x := by
  unfold State.thread; rw [core_modGroup]

/-! ## Folds that reach each element of a list -/

/-- What one step of a fold brings about, and the later steps keep, holds at its end. -/
theorem foldl_reaches {σ α : Type} {f : σ → α → σ} {P Q : σ → Prop} {l : List α} {a : α} (ha : a ∈ l)
    (step : ∀ s b, P s → P (f s b)) (hit : ∀ s, P s → Q (f s a)) (stay : ∀ s b, Q s → Q (f s b)) {s : σ} (hs : P s) :
    Q (l.foldl f s) := by
  obtain ⟨pre, post, rfl⟩ := List.append_of_mem ha
  rw [List.foldl_append, List.foldl_cons]
  exact List.foldlRecOn post f (hit _ (List.foldlRecOn pre f hs fun u hu b _ => step u b hu)) fun u hu b _ => stay u b hu

/-- The same for an element that the list holds once: of the other steps it is asked only what they do apart from it. -/
theorem foldl_reaches_once {σ α : Type} {f : σ → α → σ} {P Q : σ → Prop} {l : List α} {a : α} (ha : a ∈ l) (hl : l.Nodup)
    (step : ∀ s b, b ≠ a → P s → P (f s b)) (hit : ∀ s, P s → Q (f s a)) (stay : ∀ s b, b ≠ a → Q s → Q (f s b)) {s : σ}
    (hs : P s) : Q (l.foldl f s) := by
  obtain ⟨pre, post, rfl⟩ := List.append_of_mem ha
  have hna : a ∉ pre ++ post := (List.nodup_cons.mp (List.nodup_middle.mp hl)).1
  rw [List.mem_append, not_or] at hna
  rw [List.foldl_append, List.foldl_cons]
  exact List.foldlRecOn post f
    (hit _ (List.foldlRecOn pre f hs fun u hu b hb => step u b (fun h => hna.1 (h ▸ hb)) hu))
    fun u hu b hb => stay u b (fun h => hna.2 (h ▸ hb)) hu

theorem onlyThreads_foldl {α : Type} (f : State → α → State) (hf : ∀ s a, OnlyThreads s (f s a)) (l : List α) (s : State) :
    OnlyThreads s (l.foldl f s) :=
  List.foldlRecOn l f (OnlyThreads.refl s) fun _ h a _ => h.trans (hf _ a)

/-! ## Threads that wake (01 R39, R40) -/

theorem modThread_modThread (s : State) (c x : Nat) (f g : Thread → Thread) :
    (s.modThread c x f).modThread c x g = s.modThread c x fun t => g (f t) := by
  simp [State.modThread, State.setThread, State.modCore, State.setCore, State.core, State.thread]

/-- What a wake can do: nothing, or a change of the thread that leaves its registers, and a ready thread ready. -/
theorem wakeAt_cases (s : State) (c x : Nat) (w : Wait) (pc : Option Word) :
    s.wakeAt c x w pc = s ∨ ∃ f, s.wakeAt c x w pc = s.modThread c x f ∧ (∀ t, (f t).regs = t.regs) ∧
      ((s.thread c x).st = .ready → (f (s.thread c x)).st = .ready) := by
  unfold State.wakeAt State.ready
  dsimp only
  split
  · refine .inr ⟨_, modThread_modThread _ _ _ _ _, fun t => ?_, fun _ => rfl⟩
    cases pc <;> rfl
  · split
    · rename_i h
      refine .inr ⟨_, modThread_modThread _ _ _ _ _, fun t => ?_, fun hr => absurd (hr.symm.trans h) (by simp)⟩
      cases pc <;> rfl
    · split
      · refine .inr ⟨_, modThread_modThread _ _ _ _ _, fun t => ?_, fun hr => ?_⟩
        · cases pc <;> rfl
        · cases pc <;> exact hr
      · exact .inl rfl

theorem onlyThreads_wakeAt (s : State) (c x : Nat) (w : Wait) (pc : Option Word) : OnlyThreads s (s.wakeAt c x w pc) := by
  rcases wakeAt_cases s c x w pc with h | ⟨f, h, -, -⟩ <;> rw [h]
  · exact OnlyThreads.refl s
  · exact onlyThreads_modThread s c x f

theorem thread_wakeAt_other (s : State) {c x d y : Nat} (w : Wait) (pc : Option Word) (hne : d ≠ c ∨ y ≠ x) :
    (s.wakeAt c x w pc).thread d y = s.thread d y := by
  rcases wakeAt_cases s c x w pc with h | ⟨f, h, -, -⟩ <;> rw [h]
  exact thread_modThread_other s f hne

theorem regs_wakeAt (s : State) (c x : Nat) (w : Wait) (pc : Option Word) :
    ((s.wakeAt c x w pc).thread c x).regs = (s.thread c x).regs := by
  rcases wakeAt_cases s c x w pc with h | ⟨f, h, hregs, -⟩ <;> rw [h]
  rw [thread_modThread, hregs]

/-- A thread that waits for what has come is ready. -/
theorem thread_wakeAt_waiting {s : State} {c x : Nat} {w : Wait} (h : (s.thread c x).st = .waiting w) :
    ∃ k : Nat, (s.wakeAt c x w none).thread c x = { s.thread c x with st := .ready, stamp := k } := by
  unfold State.wakeAt
  rw [if_pos h, thread_ready, thread_modThread]
  exact ⟨_, rfl⟩

/-- A thread that waits and goes on elsewhere is ready there. -/
theorem thread_wakeAt_moves {s : State} {c x : Nat} {w : Wait} (p : Word) (h : (s.thread c x).st = .waiting w) :
    ∃ k : Nat, (s.wakeAt c x w (some p)).thread c x = { (s.thread c x).moveTo p with st := .ready, stamp := k } := by
  unfold State.wakeAt
  rw [if_pos h, thread_ready, thread_modThread]
  exact ⟨_, rfl⟩

/-- A ready thread stays ready, whatever comes. -/
theorem wakeAt_keeps_ready {s : State} {c x : Nat} (d y : Nat) (w : Wait) (hr : (s.thread c x).st = .ready) :
    ((s.wakeAt d y w none).thread c x).st = .ready := by
  by_cases hxy : c ≠ d ∨ x ≠ y
  · rw [thread_wakeAt_other s w none hxy]; exact hr
  · obtain ⟨rfl, rfl⟩ : c = d ∧ x = y := by tauto
    rcases wakeAt_cases s c x w none with h | ⟨f, h, -, hst⟩ <;> rw [h]
    · exact hr
    · rw [thread_modThread]; exact hst hr

/-- A thread that waits, where others or itself wake for the same reason, waits on or is ready. -/
theorem wakeAt_keeps_waiting {s : State} {c x : Nat} {w : Wait} (d y : Nat)
    (h : (s.thread c x).st = .waiting w ∨ (s.thread c x).st = .ready) :
    ((s.wakeAt d y w none).thread c x).st = .waiting w ∨ ((s.wakeAt d y w none).thread c x).st = .ready := by
  rcases h with h | h
  · by_cases hxy : c ≠ d ∨ x ≠ y
    · rw [thread_wakeAt_other s w none hxy]; exact .inl h
    · obtain ⟨rfl, rfl⟩ : c = d ∧ x = y := by tauto
      obtain ⟨k, hk⟩ := thread_wakeAt_waiting h
      right; rw [hk]
  · exact .inr (wakeAt_keeps_ready d y w h)

theorem wakeAt_wakes {s : State} {c x : Nat} {w : Wait} (h : (s.thread c x).st = .waiting w ∨ (s.thread c x).st = .ready) :
    ((s.wakeAt c x w none).thread c x).st = .ready := by
  rcases h with h | h
  · obtain ⟨k, hk⟩ := thread_wakeAt_waiting h
    rw [hk]
  · exact wakeAt_keeps_ready c x w h

theorem onlyThreads_wakeMembers (s : State) (c g : Nat) (w : Wait) : OnlyThreads s (s.wakeMembers c g w) :=
  onlyThreads_foldl _ (fun _ _ => onlyThreads_wakeAt _ _ _ _ _) _ s

/-! ## Packets (21 R439) -/

/-- A packet put at a port stands last in its queue. -/
theorem port_putPacket (s : State) (p pkg dp : Nat) (cls : BitVec 3) (e : Option Nat) (b : Payload) :
    ((s.putPacket p pkg dp cls e b).port p).queue =
      (s.port p).queue ++ [(⟨s.fabnum, BitVec.ofNat 4 p, BitVec.ofNat 16 pkg, BitVec.ofNat 4 dp, cls, 0, 0, b⟩, e)] := by
  unfold State.putPacket
  split <;> simp [State.port]

theorem putPacket_only (s : State) (p pkg dp : Nat) (cls : BitVec 3) (e : Option Nat) (b : Payload) :
    s.putPacket p pkg dp cls e b =
      { s with routers := (s.putPacket p pkg dp cls e b).routers, ports := (s.putPacket p pkg dp cls e b).ports } := by
  unfold State.putPacket
  split <;> rfl

/-! ## What the device's own writes leave alone (18 R386, 20 R419) -/

/-- `u` is `s` but for memory with its keys, counters and poison, the links to other packages, interrupts and held records. -/
def OnlyDevice (s u : State) : Prop :=
  u = { s with
    tick := u.tick, mem := u.mem, enc := u.enc, ctrs := u.ctrs, retired := u.retired, worn := u.worn, poison := u.poison
    owners := u.owners, ports := u.ports, routers := u.routers, irqs := u.irqs, held := u.held }

namespace OnlyDevice

theorem of_fields (s : State) (tick : Nat) (mem : List Host.Cell) (enc : Tbl (Nat × Nat × Nat)) (ctrs : Tbl Ctr)
    (retired worn poison : List Nat) (owners : Tbl Owner) (ports : Tbl Port) (routers : Tbl Router) (irqs : List Irq)
    (held : List Held) : OnlyDevice s { s with
      tick := tick, mem := mem, enc := enc, ctrs := ctrs, retired := retired, worn := worn, poison := poison
      owners := owners, ports := ports, routers := routers, irqs := irqs, held := held } := rfl

theorem refl (s : State) : OnlyDevice s s := rfl

theorem trans {s t u : State} (a : OnlyDevice s t) (b : OnlyDevice t u) : OnlyDevice s u := by
  have h : u = _ := b
  rw [show t = _ from a] at h
  exact h

theorem cores {s u : State} (h : OnlyDevice s u) : u.cores = s.cores := by rw [show u = _ from h]
theorem vfs {s u : State} (h : OnlyDevice s u) : u.vfs = s.vfs := by rw [show u = _ from h]
theorem grids {s u : State} (h : OnlyDevice s u) : u.grids = s.grids := by rw [show u = _ from h]
theorem parts {s u : State} (h : OnlyDevice s u) : u.parts = s.parts := by rw [show u = _ from h]
theorem octmap {s u : State} (h : OnlyDevice s u) : u.octmap = s.octmap := by rw [show u = _ from h]
theorem units {s u : State} (h : OnlyDevice s u) : u.units = s.units := by rw [show u = _ from h]

/-- The parked units may be changed on both sides alike. -/
theorem withUnits {s u : State} (h : OnlyDevice s u) (us : List FUnit) :
    OnlyDevice { s with units := us } { u with units := us } := by
  unfold OnlyDevice
  conv_lhs => rw [show u = _ from h]

end OnlyDevice

theorem onlyDevice_physWrite (s : State) (p : Nat) (bs : List Byte) : OnlyDevice s (s.physWrite p bs) := rfl

theorem onlyDevice_endScrub (s : State) (f : Nat) : OnlyDevice s (s.endScrub f) := by
  unfold State.endScrub
  split
  · exact OnlyDevice.of_fields s _ _ _ _ _ _ _ _ _ _ _ _
  · rfl

theorem onlyDevice_devPut (s : State) (p : Nat) (bs : List Byte) : OnlyDevice s (s.devPut p bs) :=
  (onlyDevice_endScrub s _).trans (onlyDevice_physWrite _ _ _)

theorem onlyDevice_putPacket (s : State) (p pkg dp : Nat) (cls : BitVec 3) (e : Option Nat) (b : Payload) :
    OnlyDevice s (s.putPacket p pkg dp cls e b) := by
  unfold State.putPacket
  split <;> rfl

/-- What the device sends to another package for an address there is a packet, or is lost with that package. -/
theorem onlyDevice_devSend (s : State) (v pkg core : Nat) (op : DevOp) : OnlyDevice s (s.devSend v pkg core op) := by
  unfold State.devSend State.sendPacket State.sendAs
  split
  · rfl
  · exact OnlyDevice.trans (t := { s with tick := s.tick + 1 }) rfl (onlyDevice_putPacket _ _ _ _ _ _ _)

theorem onlyDevice_putAt (s : State) (v off : Nat) (bs : List Byte) (p : DevAt) : OnlyDevice s (s.putAt v off bs p) := by
  cases p with
  | here p => exact onlyDevice_devPut s _ bs
  | far pkg core a => exact onlyDevice_devSend s v pkg core _

theorem onlyDevice_devWrite {s u : State} {v a : Nat} {bs : List Byte} (h : s.devWrite v a bs = .ok u) : OnlyDevice s u := by
  unfold State.devWrite at h
  cases hp : s.devAt v a true with
  | error t => rw [hp] at h; cases h
  | ok p =>
    rw [hp] at h
    cases h
    exact onlyDevice_putAt s v 0 bs p

theorem onlyDevice_fqTake (s : State) (v head : Nat) (p : DevAt) : OnlyDevice s (s.fqTake v head p) := by
  cases p with
  | here p => exact onlyDevice_devPut s p _
  | far pkg core a => exact onlyDevice_devSend s v pkg core _

theorem onlyDevice_fqAppend {s u : State} {v : Nat} {body : List Byte} {q : DWord} (h : s.fqAppend v body = some (u, q)) :
    OnlyDevice s u := by
  unfold State.fqAppend at h
  dsimp only at h
  split at h
  · cases h
  · split at h
    · split at h
      · cases h
      · rename_i w hw
        have hs := (onlyDevice_fqTake s v _ _).trans (onlyDevice_devWrite hw)
        simp only [Option.some.injEq, Prod.mk.injEq] at h
        rw [← h.1]
        split
        · exact hs.trans rfl
        · exact hs
    · cases h

theorem onlyDevice_fqHeld (s : State) (v : Nat) : OnlyDevice s (s.fqHeld v) := by
  unfold State.fqHeld
  split
  · rename_i u hu
    exact onlyDevice_devWrite hu
  · exact OnlyDevice.refl s

/-- Every parked unit of `s` stands in `u`, with the number of its record or without. -/
def UnitsStand (s u : State) : Prop := ∀ v ∈ s.units, ∃ q, { v with seq := q } ∈ u.units

theorem UnitsStand.of_eq {s u : State} (h : u.units = s.units) : UnitsStand s u := fun v hv => ⟨v.seq, h ▸ hv⟩

theorem UnitsStand.trans {s t u : State} (a : UnitsStand s t) (b : UnitsStand t u) : UnitsStand s u := fun v hv => by
  obtain ⟨q, hq⟩ := a v hv
  obtain ⟨r, hr⟩ := b _ hq
  exact ⟨r, hr⟩

/-- A record that is written or held (20 R419) changes beside the device's writes the SEQ of its unit alone. -/
theorem postRecord_only (s : State) (v : Nat) (unit core : Option Nat) (body : List Byte) :
    OnlyDevice { s with units := (s.postRecord v unit core body).units } (s.postRecord v unit core body) ∧
      UnitsStand s (s.postRecord v unit core body) := by
  unfold State.postRecord
  split
  · rename_i u q hu
    have h := onlyDevice_fqAppend hu
    refine ⟨h.withUnits _, fun w hw => ?_⟩
    refine if hid : some w.id = unit then ⟨some q, ?_⟩ else ⟨w.seq, ?_⟩
    all_goals exact List.mem_map.mpr ⟨w, h.units ▸ hw, by simp [hid]⟩
  · set h : Held := ⟨unit, v, core, body, s.clk + 1024⟩
    have hd : OnlyDevice s (({ s with held := s.held ++ [h] } : State).fqHeld v) :=
      OnlyDevice.trans (t := { s with held := s.held ++ [h] }) rfl (onlyDevice_fqHeld _ v)
    refine ⟨?_, UnitsStand.of_eq hd.units⟩
    rw [hd.units]
    exact hd

/-! ## Parking (10 R247 to R249) -/

/-- `u` has the cores of `s` but for thread contexts, its tables of VFs, grids and partitions, and its parked units. -/
structure ParkFrame (s u : State) : Prop where
  core : ∀ c, u.core c = { s.core c with ctxs := (u.core c).ctxs }
  vfs : u.vfs = s.vfs
  grids : u.grids = s.grids
  parts : u.parts = s.parts
  octmap : u.octmap = s.octmap
  units : UnitsStand s u

namespace ParkFrame

theorem trans {s t u : State} (a : ParkFrame s t) (b : ParkFrame t u) : ParkFrame s u where
  core c := by rw [b.core c, a.core c]
  vfs := b.vfs.trans a.vfs
  grids := b.grids.trans a.grids
  parts := b.parts.trans a.parts
  octmap := b.octmap.trans a.octmap
  units := a.units.trans b.units

theorem of_onlyThreads {s u : State} (h : OnlyThreads s u) : ParkFrame s u where
  core := h.2
  vfs := h.vfs
  grids := h.grids
  parts := by rw [h.1]
  octmap := by rw [h.1]
  units := UnitsStand.of_eq (by rw [h.1])

theorem refl (s : State) : ParkFrame s s := of_onlyThreads (OnlyThreads.refl s)

theorem team {s u : State} (h : ParkFrame s u) (c t : Nat) : u.team c t = s.team c t := by
  unfold State.team; rw [h.core c]

end ParkFrame

theorem onlyThreads_keepSnap (s : State) (u : FUnit) (lane x : Nat) : OnlyThreads s (s.keepSnap u lane x) := by
  unfold State.keepSnap
  split
  · exact onlyThreads_modThread _ _ _ _
  · exact OnlyThreads.refl s

/-- The thread of a unit is parked, with what a replay of its instruction reads. -/
def parkThread (u : FUnit) (s : State) (e : Nat × Nat) : State :=
  (s.keepSnap u e.1 e.2).modThread u.core e.2 fun t => { t with st := .parked, units := u.id :: t.units, denied := false }

theorem onlyThreads_parkThread (u : FUnit) (s : State) (e : Nat × Nat) : OnlyThreads s (parkThread u s e) :=
  (onlyThreads_keepSnap s u e.1 e.2).trans (onlyThreads_modThread _ _ _ _)

/-- A unit with the number under which it parks in a state, without a replay buffer entry. -/
def numbered (s : State) (u : FUnit) : FUnit := { u with id := s.nextUnit, buf := none }

/-- The state in which the threads of a unit are parked. -/
def threadsParked (s : State) (u : FUnit) : State :=
  u.threads.foldl (parkThread (numbered s u)) { s with nextUnit := s.nextUnit + 1 }

/-- The state in which a unit and its threads are parked, before its record is written or held. -/
def parked (s : State) (u : FUnit) : State :=
  { threadsParked s u with units := (threadsParked s u).units ++ [numbered s u] }

theorem onlyThreads_threadsParked (s : State) (u : FUnit) : OnlyThreads { s with nextUnit := s.nextUnit + 1 } (threadsParked s u) :=
  onlyThreads_foldl _ (onlyThreads_parkThread (numbered s u)) u.threads _

/-- Of a unit that parks without a replay buffer entry, the record is all that follows (12 R302, 20 R419). -/
theorem park_only (s : State) (u : FUnit) :
    OnlyDevice { parked s u with units := (s.park u false).units } (s.park u false) ∧ UnitsStand (parked s u) (s.park u false) :=
  postRecord_only _ _ _ _ _

theorem park_core (s : State) (u : FUnit) (c : Nat) : (s.park u false).core c = (threadsParked s u).core c := by
  unfold State.core
  rw [(park_only s u).1.cores]
  rfl

theorem parkFrame_park (s : State) (u : FUnit) : ParkFrame s (s.park u false) := by
  have hd := (park_only s u).1
  have ht := onlyThreads_threadsParked s u
  have hf := ParkFrame.of_onlyThreads ht
  refine ⟨fun c => ?_, hd.vfs.trans hf.vfs, hd.grids.trans hf.grids, hd.parts.trans hf.parts, hd.octmap.trans hf.octmap,
    UnitsStand.trans (t := parked s u) (fun v hv => ?_) (park_only s u).2⟩
  · rw [park_core]
    exact ht.2 c
  · obtain ⟨q, hq⟩ := hf.units v hv
    exact ⟨q, List.mem_append_left _ hq⟩

/-- A unit that parks is among the parked units, under its number. -/
theorem park_mem (s : State) (u : FUnit) :
    ∃ q, { numbered s u with seq := q } ∈ (s.park u false).units :=
  (park_only s u).2 _ (List.mem_append_right _ (List.mem_singleton.mpr rfl))

theorem thread_keepSnap (s : State) (u : FUnit) (lane x : Nat) :
    ∃ k, (s.keepSnap u lane x).thread u.core x = { s.thread u.core x with snap := k } := by
  unfold State.keepSnap
  split
  · exact ⟨_, thread_modThread _ _ _ _⟩
  · exact ⟨_, rfl⟩

/-- The thread of a unit of one thread is parked with it, and keeps its registers. -/
theorem thread_park_single (s : State) (u : FUnit) {lane x : Nat} (h : u.threads = [(lane, x)]) :
    ∃ n k, (s.park u false).thread u.core x =
      { s.thread u.core x with st := .parked, units := n, denied := false, snap := k } := by
  obtain ⟨k, hk⟩ := thread_keepSnap { s with nextUnit := s.nextUnit + 1 } (numbered s u) lane x
  have hs : threadsParked s u = parkThread (numbered s u) { s with nextUnit := s.nextUnit + 1 } (lane, x) := by
    rw [threadsParked, h]; rfl
  have hp : (s.park u false).thread u.core x = (threadsParked s u).thread u.core x := by
    unfold State.thread; rw [park_core]
  refine ⟨s.nextUnit :: (s.thread u.core x).units, k, ?_⟩
  rw [hp, hs]
  refine (thread_modThread _ u.core x _).trans ?_
  rw [show u.core = (numbered s u).core from rfl, hk]
  rfl

/-! ## Units that park while a thread may be halted (01 R40) -/

theorem onlyThreads_keepWaits (s : State) (c : Nat) (xs : List Nat) : OnlyThreads s (s.keepWaits c xs) :=
  onlyThreads_foldl _ (fun _ _ => onlyThreads_modThread _ _ _ _) xs s

theorem parkFrame_parkWhen (s : State) (u : FUnit) : ParkFrame s (s.parkWhen u false) := by
  unfold State.parkWhen
  split
  · exact ⟨fun _ => rfl, rfl, rfl, rfl, rfl, fun v hv => ⟨v.seq, List.mem_append_left _ hv⟩⟩
  · exact (ParkFrame.of_onlyThreads (onlyThreads_keepWaits s _ _)).trans (parkFrame_park _ u)

/-- A unit that parks, now or when it is due, is among the parked units. -/
theorem parkWhen_mem (s : State) (u : FUnit) :
    ∃ w ∈ (s.parkWhen u false).units, w.gset = u.gset ∧ w.trap = u.trap ∧ w.origin = u.origin := by
  unfold State.parkWhen
  split
  · exact ⟨_, List.mem_append_right _ (List.mem_singleton.mpr rfl), rfl, rfl, rfl⟩
  · obtain ⟨q, hq⟩ := park_mem (s.keepWaits u.core (u.threads.map Prod.snd)) u
    exact ⟨_, hq, rfl, rfl, rfl⟩

/-! ## The layout of a frame (01 R26) -/

theorem bitN_le (b : Bool) (i : Nat) : bitN b i ≤ 2 ^ i := by
  unfold bitN
  split
  · exact Nat.le_refl _
  · exact Nat.zero_le _

/-- The bytes of a frame's fields lie one after another; each is read back from its place. -/
theorem frameLayout : FrameLayout := by
  intro f
  have words : ∀ n < 16, fieldAt (Frame.bytes f) (0x20 + 4 * n) 4 = (f.gregs.getD n 0).toNat := fun n hn => by
    rw [Frame.bytes, fieldAt_append_right _ _ (by simp)]
    simp only [List.length_append, leBytes_length, Nat.add_sub_cancel_left]
    rw [fieldAt_words _ (fun n => (f.gregs.getD n 0).toNat) (by simpa using hn), List.getElem_range]
    exact Nat.mod_eq_of_lt (BitVec.isLt _)
  refine ⟨by simp [Frame.bytes, List.length_flatMap], ?_, ?_, ?_, ?_, ?_, ?_, ?_, ?_, ?_, ?_, words⟩
  all_goals
    simp (disch := simp) only [Frame.bytes, fieldAt_append_right, fieldAt_append_left, leBytes_length, List.length_append,
      Nat.reduceAdd, Nat.reduceSub, fieldAt_leBytes]
    refine Nat.mod_eq_of_lt ?_
  case refine_2 => have := f.pred.isLt; omega
  case refine_3 => have := f.depth.isLt; have := f.principal.isLt; omega
  case refine_4 => have := f.kind.isLt; have := f.vf.isLt; omega
  case refine_7 => have := f.target.isLt; omega
  case refine_9 =>
    have := bitN_le f.bounce 15
    have := bitN_le f.poison 14
    have := f.srcCore.isLt
    omega
  case refine_10 => have := f.vfPkg.isLt; omega
  all_goals exact BitVec.isLt _

/-! ## Departure (01 R24, R25) -/

@[simp] theorem dropContext_isAway (s : State) (c x d p : Nat) : (s.dropContext c x).isAway d p = s.isAway d p := rfl
@[simp] theorem dropContext_migWall (s : State) (c x : Nat) (f : Frame) (w : List Crossing) :
    (s.dropContext c x).migWall f w = s.migWall f w := rfl

/-- A released context holds no thread (02 R68). -/
theorem thread_dropContext (s : State) (c x : Nat) : (s.dropContext c x).thread c x = default :=
  calc (s.dropContext c x).thread c x = Tbl.get default (Tbl.del (s.core c).ctxs x) x := by
        simp only [State.dropContext, State.thread, State.core, State.modCore, State.setCore, tbl_get_set]
    _ = default := tbl_get_del _ _ _

/-- The frame made of a thread carries it (01 R26). -/
theorem carries_mkFrame (s : State) (c : Nat) (h : Thread) (va : DWord) : Carries (s.mkFrame c h va.toNat) h va where
  pc := rfl
  who := ⟨rfl, rfl, rfl, rfl, rfl⟩
  target := BitVec.ofNat_toNat 56 va
  preds n hn h0 := by
    show (setBit16 h.preds 0 false).getLsbD n = _
    rw [setBit16_get _ _ _ _ hn, if_neg (by omega)]
  regs n hn := by simp [State.mkFrame, hn]

/-- The hop of a departing thread that finds link credit and has no engine operation left. -/
theorem execFirstHopAccept_departs {s : State} {c x : Nat} {va : DWord} {h : Home} (hst : (s.thread c x).st = .departing va h)
    (hstall : s.hopStalled h = false) (hopen : s.engineOpen .fab c x = false) :
    execFirstHopAccept c x s = .next ((s.dropContext c x).sendFrame c (s.mkFrame c (s.thread c x) va.toNat) h) := by
  simp [execFirstHopAccept, hst, hstall, hopen]

theorem hopAccepted : HopAccepted := by
  intro c x va d s hopen
  refine ⟨fun hst hcredit => ?_, fun pkg hst haway hwall => ?_⟩
  · have hstall : s.hopStalled (.core d) = false := by
      simpa [State.hopStalled] using hcredit
    refine ⟨_, execFirstHopAccept_departs hst hstall hopen, ?_, rfl, _, rfl, rfl, carries_mkFrame s c _ va⟩
    show ((s.dropContext c x).thread c x).st = .none
    rw [thread_dropContext]
    rfl
  · have hsend : (s.dropContext c x).sendFrame c (s.mkFrame c (s.thread c x) va.toNat) (.far pkg d) =
        (s.dropContext c x).putPacket (outPort c pkg) pkg (inPort d s.fabnum.toNat) 2 none
          (.frame (s.mkFrame c (s.thread c x) va.toNat) (BitVec.ofNat 9 d)) := by
      simp only [State.sendFrame, dropContext_migWall, hwall, State.sendPacket, State.sendAs, dropContext_isAway, haway]
      rfl
    refine ⟨_, execFirstHopAccept_departs hst rfl hopen, ?_⟩
    rw [hsend]
    refine ⟨?_, ?_, ?_, _, _, port_putPacket _ _ _ _ _ _ _, rfl, rfl, rfl, carries_mkFrame s c _ va⟩
    · rw [putPacket_only]
      show ((s.dropContext c x).thread c x).st = .none
      rw [thread_dropContext]
      rfl
    · rw [putPacket_only]; rfl
    · rw [putPacket_only]; rfl

/-! ## Flights (01 R25, R28, R30, 19 R391) -/

theorem overtaken_of_inOrder {s : State} {n : Nat} {f : Flight} (h : InOrder s n f) : s.overtaken n f = false := by
  unfold State.overtaken
  refine List.any_eq_false.mpr fun g hg => ?_
  have := h g hg
  simp only [Bool.and_eq_true, beq_iff_eq]
  tauto

theorem execFirewallBounce_turns {s : State} {n : Nat} {f : Flight} {p : Nat} (hf : s.flights[n]? = some f)
    (ho : s.overtaken n f = false) (hw : s.frameWall f = some p) :
    execFirewallBounce n s = .next ((({ s with flights := s.flights.eraseIdx n } : State).countBounce p).bounceBack f) := by
  simp [execFirewallBounce, hf, State.bounceAt, ho, hw]

theorem frameBounced : FrameBounced := by
  intro n s f p hf hin hw hsrc
  refine ⟨_, execFirewallBounce_turns hf (overtaken_of_inOrder hin) hw, ?_⟩
  have hback : (({ s with flights := s.flights.eraseIdx n } : State).countBounce p).bounceBack f =
      (({ s with flights := s.flights.eraseIdx n } : State).countBounce p).fly { f.frame with bounce := true }
        f.frame.srcCore.toNat f.port.toNat := if_pos hsrc
  rw [hback]
  refine ⟨?_, tbl_get_set _ _ _ _⟩
  simp [State.fly, State.countBounce]

/-- A frame whose turn it is, that no firewall stops and for which the queue has room, joins it (01 R30). -/
theorem execFrameArrival_joins {s : State} {n : Nat} {f : Flight} (hf : s.flights[n]? = some f) (hk : f.frame.kind.toNat ≤ 2)
    (hr : (s.vf f.frame.vf.toNat).rst = false) (hw : s.frameWall f = none) (ho : s.overtaken n f = false)
    (hov : (s.core f.core).overflow = []) (hq : (s.core f.core).queue.length < 512) :
    execFrameArrival n s = .next (({ s with flights := s.flights.eraseIdx n } : State).setCore f.core
      { s.core f.core with
        queue := (s.core f.core).queue ++ [⟨f.frame, (s.core f.core).arrSeq, f.ingress⟩]
        arrSeq := (s.core f.core).arrSeq + 1 }) := by
  have harr : (s.core f.core).arrive f = some { s.core f.core with
      queue := (s.core f.core).queue ++ [⟨f.frame, (s.core f.core).arrSeq, f.ingress⟩]
      arrSeq := (s.core f.core).arrSeq + 1 } := by
    simp [Core.arrive, hov, hq]
  have hgone : ({ s with flights := s.flights.eraseIdx n } : State).core f.core = s.core f.core := rfl
  simp [execFrameArrival, hf, Nat.not_lt.mpr hk, hr, State.frameWalled, hw, ho, harr, hgone]

theorem frameJoins : FrameJoins := by
  intro n s f hf hk hr hw hin hov hq
  refine ⟨_, execFrameArrival_joins hf hk hr hw (overtaken_of_inOrder hin) hov hq, rfl, ⟨f.frame, (s.core f.core).arrSeq, f.ingress⟩, ?_,
    rfl, rfl, rfl, ?_⟩
  · rw [core_setCore]
  · rw [core_setCore]

/-! ## Admission of a frame (01 R30) -/

theorem oldestSlot_none {l : List Machine.Slot} (h : oldestSlot l = none) : l = [] := by
  cases l with
  | nil => rfl
  | cons x xs =>
    unfold oldestSlot at h
    split at h <;> cases h

/-- The oldest slot of a list is in it, and none of the list came before it. -/
theorem oldestSlot_some {l : List Machine.Slot} {y : Machine.Slot} (h : oldestSlot l = some y) :
    y ∈ l ∧ ∀ z ∈ l, y.num.toNat ≤ z.num.toNat := by
  induction l generalizing y with
  | nil => cases h
  | cons x xs ih =>
    unfold oldestSlot at h
    split at h
    · rename_i hn
      cases h
      rw [oldestSlot_none hn]
      simp
    · rename_i w hw
      obtain ⟨hm, hle⟩ := ih hw
      cases h
      split
      · rename_i hx
        refine ⟨List.mem_cons_self, fun z hz => ?_⟩
        rcases List.mem_cons.mp hz with rfl | hz
        · exact Nat.le_refl _
        · exact hx.trans (hle z hz)
      · rename_i hx
        refine ⟨List.mem_cons_of_mem _ hm, fun z hz => ?_⟩
        rcases List.mem_cons.mp hz with rfl | hz
        · omega
        · exact hle z hz

/-- The frame that a core admits next is the oldest admissible one of its queue. -/
theorem oldestSlot_admits {s : State} {c x : Nat} {y : Machine.Slot} (h : Admits s c x y) :
    oldestSlot ((s.core c).queue.filter (s.admissible c)) = some y := by
  have hy : y ∈ (s.core c).queue.filter (s.admissible c) := List.mem_filter.mpr h.queued
  cases ho : oldestSlot ((s.core c).queue.filter (s.admissible c)) with
  | none => rw [oldestSlot_none ho] at hy; cases hy
  | some m =>
    obtain ⟨hm, hle⟩ := oldestSlot_some ho
    obtain ⟨hq, ha⟩ := List.mem_filter.mp hm
    rcases h.oldest m hq ha with rfl | hlt
    · rfl
    · exact absurd (hle y hy) (Nat.not_le.mpr hlt)

/-- The context that a frame takes is the lowest free one. -/
theorem leastFree_admits {s : State} {c x : Nat} {y : Machine.Slot} (h : Admits s c x y) :
    leastFree ctxCount (fun n => !(s.core c).taken n) = some x := by
  obtain ⟨hx, hfree, hlow⟩ := h.context
  refine List.find?_range_eq_some.mpr ⟨?_, List.mem_range.mpr hx, fun n hn => ?_⟩
  · simpa [Core.taken, State.thread] using hfree
  · simpa [Core.taken, State.thread] using hlow n hn

/-- The core's queue without the frame that it admits. -/
def unqueued (s : State) (c : Nat) (y : Machine.Slot) : State :=
  s.modCore c fun k => { k with queue := k.queue.filter (· != y) }

theorem admitOne_admits {s : State} {c x : Nat} {y : Machine.Slot} (h : Admits s c x y) :
    s.admitOne c = (unqueued s c y).admitFrame c x y.frame := by
  simp only [State.admitOne, oldestSlot_admits h, leastFree_admits h, h.slot, if_true]
  rfl

theorem frameTrap_unqueued (s : State) (c : Nat) (y : Machine.Slot) (f : Frame) :
    (unqueued s c y).frameTrap c f = s.frameTrap c f := by
  have hk : ((unqueued s c y).core c).khere = (s.core c).khere := by rw [unqueued, core_modCore]
  unfold State.frameTrap State.registered
  dsimp only
  rw [hk]
  rfl

/-! ### The thread of a frame -/

/-- The words of a list, numbered from k on, as a table of FULL registers. -/
theorem get_zipIdx (ws : List Word) (k n : Nat) {w : Word} (h : ws[n]? = some w) :
    Tbl.get RegWord.zero ((ws.zipIdx k).map fun e => (e.2, RegWord.ofVal e.1)) (k + n) = RegWord.ofVal w := by
  induction ws generalizing k n with
  | nil => simp at h
  | cons v ws ih =>
    rw [List.zipIdx_cons, List.map_cons, Tbl.get]
    cases n with
    | zero => simp at h; simp [h]
    | succ n =>
      rw [if_neg (by simp), show k + (n + 1) = k + 1 + n by omega]
      exact ih (k + 1) n (by simpa using h)

theorem reg_freeThread (s : State) (c x : Nat) (f : Frame) {n : Nat} {w : Word} (h : f.gregs[n]? = some w) :
    (s.freeThread c x f).reg n = RegWord.ofVal w := by
  have := get_zipIdx f.gregs 0 n h
  rwa [Nat.zero_add] at this

theorem pred_freeThread (s : State) (c x : Nat) (f : Frame) {n : Nat} (hn : n < 16) (h0 : 0 < n) :
    (s.freeThread c x f).pred n = f.pred.getLsbD n := by
  have h : n ≠ 0 := by omega
  show (n == 0 || (setBit16 f.pred 0 false).getLsbD n) = _
  rw [setBit16_get _ _ _ _ hn, if_neg h]
  simp [h]

/-! ### The state after an admission -/

/-- A thread of a frame enters its context, and its dictionary is asked for (13 R310). -/
def seated (s : State) (c x : Nat) (f : Frame) : State :=
  (s.setThread c x (s.freeThread c x f)).wantDict c f.vf.toNat f.khandle.toNat

/-- A dictionary that is asked for changes the core's list of them alone. -/
theorem wantDict_eq (s : State) (c v h : Nat) :
    s.wantDict c v h = s ∨ ∃ w, s.wantDict c v h = s.modCore c fun k => { k with dictWant := w } := by
  unfold State.wantDict
  split
  · exact .inl rfl
  · exact .inr ⟨_, rfl⟩

theorem seated_core (s : State) (c x : Nat) (f : Frame) :
    ∃ w, (seated s c x f).core c =
      { s.core c with ctxs := Tbl.set (s.core c).ctxs x (s.freeThread c x f), dictWant := w } := by
  rcases wantDict_eq (s.setThread c x (s.freeThread c x f)) c f.vf.toNat f.khandle.toNat with h | ⟨w, h⟩
  · exact ⟨(s.core c).dictWant, by rw [seated, h, State.setThread, core_modCore]⟩
  · exact ⟨w, by rw [seated, h, core_modCore, State.setThread, core_modCore]⟩

theorem seated_only (s : State) (c x : Nat) (f : Frame) : seated s c x f = { s with cores := (seated s c x f).cores } := by
  rcases wantDict_eq (s.setThread c x (s.freeThread c x f)) c f.vf.toNat f.khandle.toNat with h | ⟨w, h⟩
  all_goals rw [seated, h]; rfl

theorem thread_seated (s : State) (c x : Nat) (f : Frame) : (seated s c x f).thread c x = s.freeThread c x f := by
  obtain ⟨w, h⟩ := seated_core s c x f
  rw [State.thread, h]
  exact tbl_get_set _ _ _ _

/-- The unit of a frame whose thread parks. -/
def frameUnit (c x : Nat) (f : Frame) (e : Trap) : FUnit :=
  FUnit.atIssue c f.vf.toNat none [(0, x)] e [0] f.pc f.pc 2 .reexec

theorem admitFrame_none {s : State} {c x : Nat} {f : Frame} (h : s.frameTrap c f = none) : s.admitFrame c x f = seated s c x f := by
  unfold State.admitFrame
  rw [h]
  rfl

theorem admitFrame_some {s : State} {c x : Nat} {f : Frame} {e : Trap} (h : s.frameTrap c f = some e) :
    s.admitFrame c x f = (seated s c x f).park (frameUnit c x f e) false := by
  unfold State.admitFrame
  rw [h]
  rfl

theorem parkFrame_admitFrame (s : State) (c x : Nat) (f : Frame) : ParkFrame (seated s c x f) (s.admitFrame c x f) := by
  cases h : s.frameTrap c f with
  | none => rw [admitFrame_none h]; exact ParkFrame.refl _
  | some e => rw [admitFrame_some h]; exact parkFrame_park _ _

/-- The thread of an admitted frame is ready, or parked with what a replay reads. -/
theorem thread_admitFrame (s : State) (c x : Nat) (f : Frame) :
    ∃ st n d k, (s.admitFrame c x f).thread c x = { s.freeThread c x f with st := st, units := n, denied := d, snap := k } ∧
      (s.frameTrap c f = none → st = .ready) ∧ ∀ e, s.frameTrap c f = some e → st = .parked := by
  cases h : s.frameTrap c f with
  | none =>
    rw [admitFrame_none h, thread_seated]
    exact ⟨_, _, _, _, rfl, fun _ => rfl, fun _ he => (by cases he)⟩
  | some e =>
    obtain ⟨n, k, ht⟩ := thread_park_single (seated s c x f) (frameUnit c x f e) (lane := 0) (x := x) rfl
    rw [admitFrame_some h]
    refine ⟨.parked, n, false, k, ?_, fun he => (by cases he), fun _ _ => rfl⟩
    rw [← thread_seated s c x f]
    exact ht

/-- The team that a core admits next is read from its waiting teams, the grids, and what is active (01 R16). -/
theorem nextTeam_congr {s u : State} (c : Nat) (hw : (u.core c).teamWait = (s.core c).teamWait) (hg : u.grids = s.grids)
    (hv : u.vfs = s.vfs) (hp : u.parts = s.parts) (ho : u.octmap = s.octmap) : u.nextTeam c = s.nextTeam c := by
  unfold State.nextTeam State.waitingTeams State.vfActive State.partOf State.partOfOctant State.part State.vf
  rw [hw, hg, hv, hp, ho]

theorem refill_empty {s : State} {c : Nat} (h : (s.core c).overflow = []) : s.refill c = s := by
  unfold State.refill
  dsimp only
  rw [h]

theorem teamAdmission_none {s : State} {c : Nat} (h : s.nextTeam c = none) : s.teamAdmission c = s := by
  unfold State.teamAdmission
  rw [h]

/-- What an admission leaves of the core: the queue without the frame, and no more in the ring or of teams than before. -/
theorem admitFrame_core (s : State) (c x : Nat) (y : Machine.Slot) :
    let t := (unqueued s c y).admitFrame c x y.frame
    (t.core c).queue = (s.core c).queue.filter (· != y) ∧ (t.core c).overflow = (s.core c).overflow ∧ t.nextTeam c = s.nextTeam c := by
  have hf := parkFrame_admitFrame (unqueued s c y) c x y.frame
  obtain ⟨w, hc⟩ := seated_core (unqueued s c y) c x y.frame
  have hs := seated_only (unqueued s c y) c x y.frame
  have hu : (unqueued s c y).core c = { s.core c with queue := (s.core c).queue.filter (· != y) } := core_modCore _ _ _
  refine ⟨?_, ?_, nextTeam_congr c ?_ (hf.grids.trans ?_) (hf.vfs.trans ?_) (hf.parts.trans ?_) (hf.octmap.trans ?_)⟩
  · rw [hf.core c, hc, hu]
  · rw [hf.core c, hc, hu]
  · rw [hf.core c, hc, hu]
  all_goals rw [hs]; rfl

theorem execAdmit_admits {s : State} {c x : Nat} {y : Machine.Slot} (h : Admits s c x y) :
    execAdmit c s = .next ((unqueued s c y).admitFrame c x y.frame) := by
  obtain ⟨-, hov, hteam⟩ := admitFrame_core s c x y
  unfold execAdmit
  rw [admitOne_admits h, refill_empty (hov.trans h.ring), teamAdmission_none (hteam.trans h.teams)]

theorem lowSlot_unqueued (s : State) (c : Nat) (y : Machine.Slot) : ((unqueued s c y).core c).lowSlot = (s.core c).lowSlot := by
  rw [unqueued, core_modCore]
  rfl

theorem frameAdmitted : FrameAdmitted := by
  intro c x y s h
  refine ⟨_, execAdmit_admits h, ?_⟩
  obtain ⟨hq, -, -⟩ := admitFrame_core s c x y
  obtain ⟨st, n, d, k, ht, hready, hparked⟩ := thread_admitFrame (unqueued s c y) c x y.frame
  rw [frameTrap_unqueued] at hready hparked
  dsimp only
  rw [ht]
  refine ⟨?_, rfl, rfl, rfl, rfl, rfl, rfl, rfl, lowSlot_unqueued s c y, fun n w hw => reg_freeThread (unqueued s c y) c x _ hw,
    fun n hn h0 => pred_freeThread (unqueued s c y) c x _ hn h0, hready, fun e he => ⟨hparked e he, ?_⟩⟩
  · rw [hq]
    exact List.filter_congr fun z _ => by simp [bne, Bool.beq_eq_decide_eq]
  · rw [← frameTrap_unqueued s c y] at he
    rw [admitFrame_some he]
    obtain ⟨q, hq⟩ := park_mem (seated (unqueued s c y) c x y.frame) (frameUnit c x y.frame e)
    exact ⟨_, hq, rfl, rfl, rfl⟩

/-- Settles O40: the layout of a frame, and what each event of a frame's way does. -/
theorem frames : Obligations.Frames :=
  ⟨frameLayout, hopAccepted, frameBounced, frameJoins, frameAdmitted⟩

/-! ## Placement of teams (01 R20, 18 R383) -/

theorem mem_toPlace {s : State} {v : Nat} {g : Grid} (h : g ∈ s.toPlace v) : g ∈ s.grids ∧ g.vf = v := by
  obtain ⟨k, -, hk⟩ := List.mem_flatMap.mp h
  obtain ⟨hg, hp⟩ := List.mem_filter.mp hk
  simp only [Bool.and_eq_true, beq_iff_eq] at hp
  exact ⟨hg, hp.1.1⟩

/-- The first grid of a VF with a team to place gives the next placement where a core has room for it. -/
theorem nextPlace_head {s : State} {v c : Nat} {g : Grid} {gs : List Grid} (hr : (s.vf v).rst = false) (hp : s.toPlace v = g :: gs)
    (hc : s.placeFor g = some c) : s.nextPlace v = some (g, c) := by
  simp [State.nextPlace, hr, hp, State.dispatch, hc]

theorem placeFor_affinity {s : State} {g : Grid} {c : Nat} (ha : g.affinity = true)
    (hc : s.affinityCore g.vf (g.affs.getD g.next 0).toNat = some c) (hq : s.quotaOk g.vf c (g.width * groupCount g.roles) = true) :
    s.placeFor g = some c := by
  rw [State.placeFor, if_pos ha, hc, Option.filter_some, if_pos hq]

/-- Next-fit takes the first core of the scan order that has room. -/
theorem placeFor_scan {s : State} {g : Grid} {c : Nat} {pre post : List Nat} (ha : g.affinity = false)
    (ho : s.scanOrder g.vf = pre ++ c :: post) (hpre : ∀ d ∈ pre, s.roomAt g d = false) (hc : s.roomAt g c = true) :
    s.placeFor g = some c := by
  rw [State.placeFor, if_neg (by simp [ha]), ho]
  refine List.find?_eq_some_iff_append.mpr ⟨hc, pre, post, rfl, fun d hd => ?_⟩
  rw [hpre d hd]; rfl

/-- The core of a team that is placed: the team waits there, and its kernel's handle is registered. -/
def placedAt (g : Grid) (k : Core) : Core :=
  let h := (g.vf, g.khandle.toNat)
  { k with teamWait := k.teamWait ++ [(g.id, g.next)], khere := if k.khere.contains h then k.khere else h :: k.khere }

theorem mem_khere_placedAt (g : Grid) (k : Core) : (g.vf, g.khandle.toNat) ∈ (placedAt g k).khere := by
  unfold placedAt
  dsimp only
  split
  · rename_i h; simpa using h
  · exact List.mem_cons_self

theorem core_placeTeam (s : State) (g : Grid) (c : Nat) : (s.placeTeam g c).core c = placedAt g (s.core c) := by
  have hcores : (s.placeTeam g c).cores = (s.modCore c (placedAt g)).cores := by
    unfold State.placeTeam
    dsimp only
    split <;> rfl
  rw [State.core, hcores]
  exact core_modCore s c (placedAt g)

theorem grids_placeTeam (s : State) (g : Grid) (c : Nat) :
    (s.placeTeam g c).grids = s.grids.map fun x =>
      if x.id = g.id then { x with next := x.next + 1, live := x.live + g.width * groupCount g.roles } else x := by
  unfold State.placeTeam
  dsimp only
  split <;> rfl

theorem execTeamPlacement_places {s : State} {v c : Nat} {g : Grid} (hn : s.nextPlace v = some (g, c)) (ht : s.placeTurn v g c = true) :
    ∃ t, execTeamPlacement v s = .next t ∧ t.cores = (s.placeTeam g c).cores ∧ t.grids = (s.placeTeam g c).grids := by
  unfold execTeamPlacement
  rw [hn]
  dsimp only
  rw [if_pos ht]
  refine ⟨_, rfl, ?_⟩
  split <;> exact ⟨rfl, rfl⟩

theorem teamPlacement_places {v : Nat} {s : State} {g : Grid} {gs : List Grid} {c : Nat} (hr : (s.vf v).rst = false)
    (hp : s.toPlace v = g :: gs) (ht : s.placeTurn v g c = true) (hc : s.placeFor g = some c) :
    Gives (.teamPlacement v) s fun t =>
      (t.core c).teamWait = (s.core c).teamWait ++ [(g.id, g.next)] ∧ (g.vf, g.khandle.toNat) ∈ (t.core c).khere ∧
        ∃ x ∈ t.grids, x.id = g.id ∧ x.next = g.next + 1 ∧ x.live = g.live + g.width * groupCount g.roles := by
  obtain ⟨t, he, hcores, hgrids⟩ := execTeamPlacement_places (nextPlace_head hr hp hc) ht
  have hcore : t.core c = (s.placeTeam g c).core c := by rw [State.core, hcores]; rfl
  have hg := (mem_toPlace (hp ▸ List.mem_cons_self : g ∈ s.toPlace v)).1
  refine ⟨t, he, ?_, ?_, { g with next := g.next + 1, live := g.live + g.width * groupCount g.roles }, ?_, rfl, rfl, rfl⟩
  · rw [hcore, core_placeTeam]
    rfl
  · rw [hcore, core_placeTeam]
    exact mem_khere_placedAt g _
  · rw [hgrids, grids_placeTeam]
    exact List.mem_map.mpr ⟨g, hg, if_pos rfl⟩

/-! ## Reservations and counts (01 R21, R23) -/

theorem gridBy_some {s : State} {v : Nat} {tag : Word} {g : Grid} (h : s.gridBy v tag = some g) :
    g ∈ s.grids ∧ g.vf = v ∧ g.tag = tag := by
  have hp := List.find?_some h
  simp only [Bool.and_eq_true, beq_iff_eq] at hp
  exact ⟨List.mem_of_find?_eq_some h, hp.1, hp.2⟩

/-- A grid that a VF and a tag name is changed with them. -/
theorem mem_modGrid {s : State} {v : Nat} {tag : Word} {g : Grid} (f : Grid → Grid) (h : s.gridBy v tag = some g) :
    f g ∈ (s.modGrid v tag f).grids :=
  have ⟨hm, hv, ht⟩ := gridBy_some h
  List.mem_map.mpr ⟨g, hm, if_pos ⟨hv, ht⟩⟩

/-- The state in which a reservation is granted: both counts are raised. -/
def reserved (s : State) (n : Nat) (r : Resv) : State :=
  (({ s with resvQ := s.resvQ.eraseIdx n } : State).modVf r.vf fun v => { v with ftLive := v.ftLive + 1 }).modGrid r.vf r.grid fun g =>
    { g with live := g.live + 1, free := if g.ftcap = 0 then g.free else g.free + 1 }

theorem execReservationRequest_granted {s : State} {n : Nat} {r : Resv} (hr : s.resvQ[n]? = some r) (hc : s.underCaps r.vf r.grid = true) :
    execReservationRequest n s = .next ((reserved s n r).answerResv r true) := by
  unfold execReservationRequest
  rw [hr]
  dsimp only
  rw [if_pos hc]
  rfl

theorem execReservationRequest_denied {s : State} {n : Nat} {r : Resv} (hr : s.resvQ[n]? = some r)
    (hc : s.underCaps r.vf r.grid = false) (hf : r.tf = true) :
    execReservationRequest n s = .next (({ s with resvQ := s.resvQ.eraseIdx n } : State).answerResv r false) := by
  unfold execReservationRequest
  rw [hr]
  dsimp only
  rw [if_neg (by simp [hc]), if_pos hf]

theorem answerResv_here {s : State} {r : Resv} (ok : Bool) (h : r.pkg = s.fabnum.toNat) :
    s.answerResv r ok = { s with grants := s.grants ++ [⟨r.core, r.ctx, ok⟩] } := if_pos h

theorem reservationRequest_granted {n : Nat} {s : State} {r : Resv} (hr : s.resvQ[n]? = some r) (hp : r.pkg = s.fabnum.toNat)
    (hc : s.underCaps r.vf r.grid = true) : Gives (.reservationRequest n) s fun t =>
      t.resvQ = s.resvQ.eraseIdx n ∧ t.grants = s.grants ++ [⟨r.core, r.ctx, true⟩] ∧
        (t.vf r.vf).ftLive = (s.vf r.vf).ftLive + 1 ∧
          ∀ g, s.gridBy r.vf r.grid = some g → ∃ x ∈ t.grids, x.id = g.id ∧ x.live = g.live + 1 := by
  refine ⟨_, execReservationRequest_granted hr hc, ?_⟩
  rw [answerResv_here (s := reserved s n r) true hp]
  refine ⟨rfl, rfl, ?_, fun g hg => ⟨_, mem_modGrid _ hg, rfl, rfl⟩⟩
  exact congrArg Vf.ftLive (tbl_get_set _ _ _ _)

theorem reservationRequest_denied {n : Nat} {s : State} {r : Resv} (hr : s.resvQ[n]? = some r) (hp : r.pkg = s.fabnum.toNat)
    (hc : s.underCaps r.vf r.grid = false) (hf : r.tf = true) : Gives (.reservationRequest n) s fun t =>
      t.resvQ = s.resvQ.eraseIdx n ∧ t.grants = s.grants ++ [⟨r.core, r.ctx, false⟩] := by
  refine ⟨_, execReservationRequest_denied hr hc hf, ?_⟩
  rw [answerResv_here (s := { s with resvQ := s.resvQ.eraseIdx n }) false hp]
  exact ⟨rfl, rfl⟩

/-- What an answer leaves in its thread, beside its readiness (01 R23). -/
def answered (ok : Bool) (t : Thread) : Thread :=
  if ok then { t with resv := true, name := none } else { t with denied := true, name := none }

theorem reservationGrant_wakes {n : Nat} {s : State} {g : Grant} (hg : s.grants[n]? = some g)
    (hw : (s.thread g.core g.ctx).st = .waiting .reserve) : Gives (.reservationGrant n) s fun t =>
      t.grants = s.grants.eraseIdx n ∧ (t.thread g.core g.ctx).st = .ready ∧
        (g.ok = true → (t.thread g.core g.ctx).resv = true) ∧ (g.ok = false → (t.thread g.core g.ctx).denied = true) := by
  set s1 : State := ({ s with grants := s.grants.eraseIdx n } : State).modThread g.core g.ctx (answered g.ok) with hs1
  have hthread : s1.thread g.core g.ctx = answered g.ok (s.thread g.core g.ctx) := thread_modThread _ _ _ _
  have hst : (s1.thread g.core g.ctx).st = .waiting .reserve := by
    rw [hthread, answered]
    split <;> exact hw
  have he : execReservationGrant n s = .next (s1.wakeAt g.core g.ctx .reserve none) := by
    have hn : (s.thread g.core g.ctx).st ≠ .none := by rw [hw]; simp
    unfold execReservationGrant
    rw [hg]
    exact congrArg Host.Outcome.next (if_neg hn)
  obtain ⟨k, hk⟩ := thread_wakeAt_waiting hst
  refine ⟨_, he, ?_, ?_, fun hok => ?_, fun hok => ?_⟩
  · rw [(onlyThreads_wakeAt s1 _ _ _ _).1]; rfl
  · rw [hk]
  · rw [hk]; dsimp only; rw [hthread, hok]; rfl
  · rw [hk]; dsimp only; rw [hthread, hok]; rfl

/-- The state in which a decrement has lowered the counts of its grid. -/
def lowered (s : State) (n : Nat) (d : Decr) : State :=
  ({ s with decs := s.decs.eraseIdx n } : State).modGrid d.vf d.grid fun g =>
    { g with
      live := if d.count then g.live - 1 else g.live
      free := if d.units ∧ g.ftcap ≠ 0 then g.free - 1 else g.free }

theorem execGridCountDecrement_counts {s : State} {n : Nat} {d : Decr} {g : Grid} (hd : s.decs[n]? = some d)
    (hg : s.gridBy d.vf d.grid = some g) :
    execGridCountDecrement n s =
      .next (if d.units then (lowered s n d).modVf d.vf fun v => { v with ftLive := v.ftLive - 1 } else lowered s n d) := by
  have hg' : ({ s with decs := s.decs.eraseIdx n } : State).gridBy d.vf d.grid = some g := hg
  unfold execGridCountDecrement
  rw [hd]
  dsimp only
  rw [hg']
  rfl

theorem gridCountDecrement_counts {n : Nat} {s : State} {d : Decr} {g : Grid} (hd : s.decs[n]? = some d)
    (hg : s.gridBy d.vf d.grid = some g) : Gives (.gridCountDecrement n) s fun t =>
      t.decs = s.decs.eraseIdx n ∧ (t.vf d.vf).ftLive = (s.vf d.vf).ftLive - (if d.units then 1 else 0) ∧
        ∃ x ∈ t.grids, x.id = g.id ∧ x.live = g.live - if d.count then 1 else 0 := by
  have hx := mem_modGrid (s := { s with decs := s.decs.eraseIdx n }) (fun g =>
    { g with
      live := if d.count then g.live - 1 else g.live
      free := if d.units ∧ g.ftcap ≠ 0 then g.free - 1 else g.free }) hg
  have hlive : (if d.count then g.live - 1 else g.live) = g.live - if d.count then 1 else 0 := by split <;> rfl
  refine ⟨_, execGridCountDecrement_counts hd hg, ?_⟩
  split
  · exact ⟨rfl, congrArg Vf.ftLive (vf_modVf _ _ _), _, hx, rfl, hlive⟩
  · exact ⟨rfl, rfl, _, hx, rfl, hlive⟩

/-! ## The end of a grid (01 R21, 18 R384) -/

/-- The blocks that a chain has examined and not yet covered. -/
def chainBlocks (s : State) (v k : Nat) : List Block := (Tbl.get (default : Chain) (s.vf v).chains k).blocks

theorem chainBlocks_congr {s u : State} (v k : Nat) (h : u.vfs = s.vfs) : chainBlocks u v k = chainBlocks s v k := by
  unfold chainBlocks State.vf; rw [h]

theorem chainBlocks_modChain (s : State) (v k : Nat) (f : Chain → Chain) :
    chainBlocks (s.modChain v k f) v k = (f (Tbl.get default (s.vf v).chains k)).blocks := by
  rw [chainBlocks, State.modChain, vf_modVf]
  exact congrArg Chain.blocks (tbl_get_set _ _ _ _)

theorem chainBlocks_stopChain (s : State) (v k : Nat) : chainBlocks (s.stopChain v k) v k = chainBlocks s v k :=
  chainBlocks_modChain s v k _

/-- `u` has the grids of `s`, and of the blocks of a chain those from some one on. -/
def BlocksLeft (v k : Nat) (s u : State) : Prop := u.grids = s.grids ∧ ∃ n, chainBlocks u v k = (chainBlocks s v k).drop n

namespace BlocksLeft

theorem of_same {v k : Nat} {s u : State} (hg : u.grids = s.grids) (hb : chainBlocks u v k = chainBlocks s v k) : BlocksLeft v k s u :=
  ⟨hg, 0, hb⟩

theorem of_vfs {v k : Nat} {s u : State} (hg : u.grids = s.grids) (hv : u.vfs = s.vfs) : BlocksLeft v k s u :=
  of_same hg (chainBlocks_congr v k hv)

theorem refl (v k : Nat) (s : State) : BlocksLeft v k s s := of_same rfl rfl

theorem trans {v k : Nat} {s t u : State} (a : BlocksLeft v k s t) (b : BlocksLeft v k t u) : BlocksLeft v k s u := by
  obtain ⟨hg, n, hn⟩ := a
  obtain ⟨hg', m, hm⟩ := b
  exact ⟨hg'.trans hg, n + m, by rw [hm, hn, List.drop_drop]⟩

theorem of_device {v k : Nat} {s u : State} (h : OnlyDevice s u) : BlocksLeft v k s u := of_vfs h.grids h.vfs

end BlocksLeft

theorem blocksLeft_stopChain (s : State) (v k : Nat) : BlocksLeft v k s (s.stopChain v k) :=
  .of_same rfl (chainBlocks_stopChain s v k)

theorem blocksLeft_chainRecord (s : State) (v k : Nat) (t : Trap) : BlocksLeft v k s (s.chainRecord v k t) :=
  have h := (postRecord_only s v none none _).1
  .of_vfs h.grids h.vfs

theorem blocksLeft_chainErr (s : State) (v k : Nat) (c : Cause) : BlocksLeft v k s (s.chainErr v k c) := by
  unfold State.chainErr
  split
  · exact .refl v k s
  · refine BlocksLeft.trans ?_ (blocksLeft_stopChain _ v k)
    split
    · exact .of_device (onlyDevice_putAt s v _ _ _)
    · exact .refl v k s

theorem blocksLeft_chainFail (s : State) (v k : Nat) (t : Trap) : BlocksLeft v k s (s.chainFail v k t) :=
  ((blocksLeft_chainRecord s v k t).trans (blocksLeft_chainErr _ v k _)).trans (blocksLeft_stopChain _ v k)

theorem onlyDevice_chainPut {s u : State} {v k : Nat} {ws : List (Nat × Nat)} (h : s.chainPut v k ws = .ok u) : OnlyDevice s u := by
  unfold State.chainPut at h
  cases hp : s.devAt v (s.chainAt v k) true with
  | error t => rw [hp] at h; cases h
  | ok p =>
    rw [hp] at h
    cases h
    exact List.foldlRecOn ws _ (OnlyDevice.refl s) fun _ hb w _ => hb.trans (onlyDevice_putAt _ v _ _ p)

theorem blocksLeft_blockIrq (v k : Nat) (s : State) (b : Block) : BlocksLeft v k s (s.blockIrq v b) := by
  unfold State.blockIrq
  split
  · exact .refl v k s
  · split
    · exact .of_vfs rfl rfl
    · refine .of_same rfl ?_
      unfold chainBlocks
      rw [vf_modVf]

theorem blocksLeft_dropBlocks (s : State) (v k n : Nat) :
    BlocksLeft v k s (s.modChain v k fun x => { x with blocks := x.blocks.drop n }) :=
  ⟨rfl, n, chainBlocks_modChain s v k _⟩

/-- DONE rises over the blocks that it covers (18 R384), or the record cannot be written; the others stand. -/
theorem blocksLeft_raiseDone (s : State) (v k : Nat) : BlocksLeft v k s (s.raiseDone v k) := by
  unfold State.raiseDone
  dsimp only
  split
  · exact .refl v k s
  · split
    · exact blocksLeft_chainFail s v k _
    · rename_i u hu
      refine (BlocksLeft.of_device (onlyDevice_chainPut hu)).trans (BlocksLeft.trans
        (blocksLeft_dropBlocks u v k (coveredBlocks (Tbl.get default (s.vf v).chains k).blocks).length) ?_)
      exact List.foldlRecOn _ _ (BlocksLeft.refl v k _) fun _ hb b _ => hb.trans (blocksLeft_blockIrq v k _ b)

/-- A block that completes is marked so, and only blocks that DONE covers leave the chain's list (18 R384). -/
theorem blockDone_marks (s : State) (v k : Nat) (n : DWord) :
    (s.blockDone v k n).grids = s.grids ∧ ∀ b ∈ chainBlocks (s.blockDone v k n) v k, b.s = n → b.done = true := by
  obtain ⟨hg, m, hb⟩ := blocksLeft_raiseDone (s.modChain v k fun x =>
    { x with blocks := x.blocks.map fun b => if b.s = n then { b with done := true } else b }) v k
  rw [chainBlocks_modChain] at hb
  refine ⟨hg, fun b hm => ?_⟩
  unfold State.blockDone at hm
  rw [hb] at hm
  obtain ⟨b', -, rfl⟩ := List.mem_map.mp (List.mem_of_mem_drop hm)
  split
  · exact fun _ => rfl
  · exact fun hs => absurd hs ‹_›

theorem execGridComplete_over {s : State} {n : Nat} {g : Grid} (hf : s.grids.find? (fun x => x.id == n) = some g)
    (ho : s.gridOver g = true) (hw : s.devWaits g.vf (s.chainAt g.vf g.chain) = false) :
    execGridComplete n s =
      .next (({ s with grids := s.grids.filter fun x => x.id != n } : State).blockDone g.vf g.chain g.s) := by
  unfold execGridComplete
  rw [hf]
  dsimp only
  rw [ho, hw]
  rfl

theorem gridComplete_done {n : Nat} {s : State} {g : Grid} (hf : s.grids.find? (fun x => x.id == n) = some g)
    (ho : s.gridOver g = true) (hw : s.devWaits g.vf (s.chainAt g.vf g.chain) = false) : Gives (.gridComplete n) s fun t =>
      (∀ x ∈ t.grids, x.id ≠ n) ∧
        ∀ b ∈ (Tbl.get (default : Chain) (t.vf g.vf).chains g.chain).blocks, b.s = g.s → b.done = true := by
  obtain ⟨hgrids, hblocks⟩ := blockDone_marks { s with grids := s.grids.filter fun x => x.id != n } g.vf g.chain g.s
  refine ⟨_, execGridComplete_over hf ho hw, fun x hx => ?_, hblocks⟩
  rw [hgrids] at hx
  simpa using (List.mem_filter.mp hx).2

/-! ## Claims and releases (01 R17, R18) -/

theorem get_filter_below {α : Type} (d : α) (t : Tbl α) {n i : Nat} (h : n ≤ i) : Tbl.get d (t.filter fun e => e.1 < n) i = d := by
  induction t with
  | nil => rfl
  | cons e t ih =>
    by_cases he : e.1 < n
    · rw [List.filter_cons_of_pos (by simpa using he), Tbl.get, if_neg (by omega), ih]
    · rw [List.filter_cons_of_neg (by simpa using he), ih]

theorem claimReady_head {s : State} {c n : Nat} {e : Nat × Nat} {more : List (Nat × Nat)} (hc : (s.team c n).claims = e :: more)
    (hfit : (s.group c e.1).width * e.2 * 4 ≤ (s.team c n).free) (hrel : ∀ r ∈ (s.team c n).releases, r.gset ≠ e.1) :
    s.claimReady c n = some e := by
  have hb : s.claimBytes c e ≤ (s.team c n).free := hfit
  unfold State.claimReady
  rw [hc]
  simpa [hb] using hrel

/-- The thread of a member whose claim is served: its registers from the old budget on read as zero. -/
def zeroed (old : Nat) (t : Thread) : Thread := { t with regs := t.regs.filter fun w => w.1 < old }

/-- A claim is served to a member of its group, which goes on. -/
def serveMember (c old : Nat) (s : State) (x : Nat) : State := (s.modThread c x (zeroed old)).wakeClaim c x

/-- The state in which a claim has its bytes and its registers. -/
def granted (s : State) (c n : Nat) (e : Nat × Nat) : State :=
  (s.modTeam c n fun t => { t with claims := t.claims.drop 1, free := t.free - s.claimBytes c e }).modGroup c e.1 fun k =>
    { k with budget := (s.group c e.1).budget + e.2, claim := none }

theorem execClaimServed_ready {s : State} {c n : Nat} {e : Nat × Nat} (h : s.claimReady c n = some e) :
    execClaimServed c n s =
      .next (((granted s c n e).group c e.1).present.foldl (serveMember c (s.group c e.1).budget) (granted s c n e)) := by
  unfold execClaimServed
  rw [h]
  rfl

theorem wakeClaim_eq (s : State) (c x : Nat) : s.wakeClaim c x = s ∨ ∃ p, s.wakeClaim c x = s.wakeAt c x (.claim p) (some p) := by
  unfold State.wakeClaim
  dsimp only
  split
  · exact .inr ⟨_, rfl⟩
  · exact .inr ⟨_, rfl⟩
  · exact .inr ⟨_, rfl⟩
  · exact .inl rfl

theorem wakeClaim_waiting {s : State} {c x : Nat} {p : Word} (h : (s.thread c x).st = .waiting (.claim p)) :
    s.wakeClaim c x = s.wakeAt c x (.claim p) (some p) := by
  unfold State.wakeClaim
  dsimp only
  rw [h]

theorem onlyThreads_serveMember (c old : Nat) (s : State) (x : Nat) : OnlyThreads s (serveMember c old s x) := by
  refine (onlyThreads_modThread s c x (zeroed old)).trans ?_
  unfold serveMember
  rcases wakeClaim_eq (s.modThread c x (zeroed old)) c x with h | ⟨p, h⟩ <;> rw [h]
  · exact OnlyThreads.refl _
  · exact onlyThreads_wakeAt _ _ _ _ _

theorem thread_serveMember_other {c old x y : Nat} (s : State) (h : y ≠ x) : (serveMember c old s x).thread c y = s.thread c y := by
  unfold serveMember
  rcases wakeClaim_eq (s.modThread c x (zeroed old)) c x with hw | ⟨p, hw⟩ <;> rw [hw]
  · exact thread_modThread_other _ _ (.inr h)
  · rw [thread_wakeAt_other _ _ _ (.inr h), thread_modThread_other _ _ (.inr h)]

theorem reg_serveMember (c old : Nat) (s : State) (x : Nat) {r : Nat} (h : old ≤ r) :
    ((serveMember c old s x).thread c x).reg r = RegWord.zero := by
  have hregs : ((serveMember c old s x).thread c x).regs = (s.thread c x).regs.filter fun w => w.1 < old := by
    unfold serveMember
    rcases wakeClaim_eq (s.modThread c x (zeroed old)) c x with hw | ⟨p, hw⟩ <;> rw [hw]
    · rw [thread_modThread]; rfl
    · rw [regs_wakeAt, thread_modThread]; rfl
  rw [Thread.reg, hregs]
  exact get_filter_below _ _ h

theorem serveMember_wakes {c old x : Nat} {s : State} {p : Word} (h : (s.thread c x).st = .waiting (.claim p)) :
    ((serveMember c old s x).thread c x).st = .ready ∧ ((serveMember c old s x).thread c x).pc = p := by
  have hw : ((s.modThread c x (zeroed old)).thread c x).st = .waiting (.claim p) := by
    rw [thread_modThread]; exact h
  obtain ⟨k, hk⟩ := thread_wakeAt_moves p hw
  rw [serveMember, wakeClaim_waiting hw, hk]
  exact ⟨rfl, rfl⟩

/-- A member of a group with a served claim, as its thread stood before: registers from the old budget on are zero and FULL, and it goes on
after its `rclaim` (01 R18). -/
def Served (c old x : Nat) (before : Thread) (u : State) : Prop :=
  (∀ r, old ≤ r → (u.thread c x).reg r = ⟨0, .full, false, none⟩) ∧
    ∀ p, before.st = .waiting (.claim p) → (u.thread c x).st = .ready ∧ (u.thread c x).pc = p

/-- Every member of the group is served in its turn. -/
theorem served_foldl {c old x : Nat} {xs : List Nat} (s : State) (hx : x ∈ xs) (hnd : xs.Nodup) :
    Served c old x (s.thread c x) (xs.foldl (serveMember c old) s) := by
  refine foldl_reaches_once (P := fun (u : State) => u.thread c x = s.thread c x) (Q := Served c old x (s.thread c x)) hx hnd ?_ ?_ ?_ rfl
  · intro u y hy hu
    rw [thread_serveMember_other u hy.symm, hu]
  · intro u hu
    exact ⟨fun r hr => reg_serveMember c old u x hr, fun p hp => serveMember_wakes (hu ▸ hp)⟩
  · intro u y hy hu
    unfold Served
    rw [thread_serveMember_other u hy.symm]
    exact hu

theorem claimServed_serves {c n : Nat} {s : State} {e : Nat × Nat} {more : List (Nat × Nat)} (hc : (s.team c n).claims = e :: more)
    (hfit : (s.group c e.1).width * e.2 * 4 ≤ (s.team c n).free) (hrel : ∀ r ∈ (s.team c n).releases, r.gset ≠ e.1)
    (hnd : (s.group c e.1).present.Nodup) : Gives (.claimServed c n) s fun t =>
      (t.team c n).claims = (s.team c n).claims.drop 1 ∧
        (t.team c n).free = (s.team c n).free - (s.group c e.1).width * e.2 * 4 ∧
        (t.group c e.1).budget = (s.group c e.1).budget + e.2 ∧
        ∀ x ∈ (s.group c e.1).present, (∀ r, (s.group c e.1).budget ≤ r → (t.thread c x).reg r = ⟨0, .full, false, none⟩) ∧
          ∀ p, (s.thread c x).st = .waiting (.claim p) → (t.thread c x).st = .ready ∧ (t.thread c x).pc = p := by
  have hgroup : (granted s c n e).group c e.1 = { s.group c e.1 with budget := (s.group c e.1).budget + e.2, claim := none } := by
    rw [granted, group_modGroup, group_modTeam]
  have hteam : (granted s c n e).team c n =
      { s.team c n with claims := (s.team c n).claims.drop 1, free := (s.team c n).free - s.claimBytes c e } := by
    rw [granted, team_modGroup, team_modTeam]
  have hthread : ∀ x, (granted s c n e).thread c x = s.thread c x := fun x => by
    rw [granted, thread_modGroup, thread_modTeam]
  have hpresent : ((granted s c n e).group c e.1).present = (s.group c e.1).present := by rw [hgroup]; rfl
  have honly := onlyThreads_foldl _ (onlyThreads_serveMember c (s.group c e.1).budget) (s.group c e.1).present (granted s c n e)
  refine ⟨_, execClaimServed_ready (claimReady_head hc hfit hrel), ?_⟩
  rw [hpresent]
  dsimp only
  rw [honly.team, honly.group, hteam, hgroup]
  refine ⟨rfl, rfl, rfl, fun x hx => ?_⟩
  rw [← hthread x]
  exact served_foldl (granted s c n e) hx hnd

theorem releaseComplete_frees {c n : Nat} {s : State} {r : Release} (hr : (s.team c n).releases = [r])
    (hfull : ∀ x ∈ (s.group c r.gset).present, ∀ i < r.hi - r.lo, ((s.thread c x).reg (r.lo + i)).st = .full) :
    Gives (.releaseComplete c n) s fun t => (t.team c n).releases = [] ∧
        (t.team c n).free = (s.team c n).free + (s.group c r.gset).width * (r.hi - r.lo) * 4 := by
  have hdone : s.releaseFull c r = true := by
    simpa [State.releaseFull] using hfull
  refine ⟨s.takeReleases c n, rfl, ?_⟩
  dsimp only
  rw [State.takeReleases, team_modTeam]
  simp [hr, hdone, unitBytes]

/-! ## Deadlocks (01 R19) -/

theorem mem_insertPc (p : Nat) (qs : List Nat) : p ∈ insertPc p qs ∧ ∀ q ∈ qs, q ∈ insertPc p qs := by
  induction qs with
  | nil => simp [insertPc]
  | cons q qs ih =>
    unfold insertPc
    split
    · exact ⟨List.mem_cons_self, fun r hr => List.mem_cons_of_mem _ hr⟩
    · split
      · rename_i h
        exact ⟨h ▸ List.mem_cons_self, fun r hr => hr⟩
      · refine ⟨List.mem_cons_of_mem _ ih.1, fun r hr => ?_⟩
        rcases List.mem_cons.mp hr with rfl | hr
        · exact List.mem_cons_self
        · exact List.mem_cons_of_mem _ (ih.2 r hr)

theorem mem_foldl_insertPc {g : Nat} {l : List Nat} (h : g ∈ l) : g ∈ l.foldl (fun l g => insertPc g l) [] :=
  foldl_reaches (P := fun _ => True) h (fun _ _ _ => trivial) (fun qs _ => (mem_insertPc g qs).1)
    (fun qs b hq => (mem_insertPc b qs).2 g hq) trivial

theorem parkFrame_parkClaim (s : State) (c g : Nat) : ParkFrame s (s.parkClaim c g) := parkFrame_parkWhen s _

/-- A group stands parked by the deadlock of its team (12 R291). -/
def DeadlockParked (g : Nat) (t : State) : Prop :=
  ∃ u ∈ t.units, u.gset = some g ∧ u.trap.cause = .teamDeadlock ∧ u.origin = 4

theorem deadlockParked_parkClaim (s : State) (c g : Nat) : DeadlockParked g (s.parkClaim c g) := by
  obtain ⟨w, hw, hg, ht, ho⟩ := parkWhen_mem s (FUnit.atIssue c _ (some g) (s.claimLanes c g) (trapOf .teamDeadlock) _ _ _ 4 .claim)
  exact ⟨w, hw, hg, by rw [ht]; rfl, ho⟩

theorem DeadlockParked.stands {g : Nat} {s t : State} (h : DeadlockParked g s) (hu : UnitsStand s t) : DeadlockParked g t := by
  obtain ⟨u, hm, hg, ht, ho⟩ := h
  obtain ⟨q, hq⟩ := hu u hm
  exact ⟨_, hq, hg, ht, ho⟩

theorem teamDeadlock_parks {c n : Nat} {s : State} (h : s.deadlocked c n = true) : Gives (.teamDeadlock c n) s fun t =>
    (t.team c n).claims = [] ∧
      ∀ g ∈ s.liveGroups c n, ∃ u ∈ t.units, u.gset = some g ∧ u.trap.cause = .teamDeadlock ∧ u.origin = 4 := by
  set gs := (s.liveGroups c n).foldl (fun l g => insertPc g l) [] with hgs
  set s1 := s.modTeam c n fun t => { t with claims := [] } with hs1
  have hframe : ParkFrame s1 (gs.foldl (fun s g => s.parkClaim c g) s1) :=
    List.foldlRecOn gs _ (ParkFrame.refl s1) fun _ hb g _ => hb.trans (parkFrame_parkClaim _ c g)
  refine ⟨gs.foldl (fun s g => s.parkClaim c g) s1, ?_, ?_, fun g hg => ?_⟩
  · exact congrArg Host.Outcome.next (if_pos h)
  · rw [hframe.team, hs1, team_modTeam]
  · exact foldl_reaches (P := fun _ => True) (Q := DeadlockParked g) (mem_foldl_insertPc hg) (fun _ _ _ => trivial)
      (fun u _ => deadlockParked_parkClaim u c g) (fun u b hu => hu.stands (parkFrame_parkClaim u c b).units) trivial

/-! ## Tree rounds (01 R37) -/

theorem tree_modTree (s : State) (p n : Nat) (f : Tree → Tree) : (s.modTree p n f).tree p n = f (s.tree p n) := by
  unfold State.tree State.modTree State.part State.modPart
  dsimp only
  rw [tbl_get_set, tbl_get_set]
  rfl

/-- The groups that arrived in a round go on. -/
def wakeArrivals (tag : Nat) (s : State) (out : List (Nat × Nat × Nat)) : State :=
  out.foldl (fun s a => s.wakeMembers a.1 a.2.1 (.barTree tag)) s

theorem onlyThreads_wakeArrivals (tag : Nat) (s : State) (out : List (Nat × Nat × Nat)) : OnlyThreads s (wakeArrivals tag s out) :=
  onlyThreads_foldl _ (fun _ _ => onlyThreads_wakeMembers _ _ _ _) out s

theorem execTreeRelease_due {s : State} {p n : Nat} {e : Nat × DWord} {rest : List (Nat × DWord)}
    (hr : (s.tree p n).releases = e :: rest) (hclk : e.2.toNat ≤ s.clk.toNat) :
    execTreeRelease p n s = .next (wakeArrivals n
      (s.modTree p n fun t => { t with releases := t.releases.drop 1, arrivals := t.arrivals.filter fun a => a.2.2 != e.1 })
      ((s.tree p n).arrivals.filter fun a => a.2.2 == e.1)) := by
  unfold execTreeRelease
  rw [hr]
  exact congrArg Host.Outcome.next (if_pos hclk)

/-- A member waits at the tree's tag, or is past it. -/
def AtTree (n c x : Nat) (s : State) : Prop := (s.thread c x).st = .waiting (.barTree n) ∨ (s.thread c x).st = .ready

theorem atTree_wakeMembers {n c x : Nat} {s : State} (d g : Nat) (h : AtTree n c x s) : AtTree n c x (s.wakeMembers d g (.barTree n)) :=
  List.foldlRecOn _ _ h fun _ hb y _ => wakeAt_keeps_waiting d y hb

theorem ready_wakeMembers {c x : Nat} {s : State} (d g : Nat) (w : Wait) (h : (s.thread c x).st = .ready) :
    ((s.wakeMembers d g w).thread c x).st = .ready :=
  List.foldlRecOn (motive := fun (u : State) => (u.thread c x).st = .ready) _ _ h fun _ hb y _ => wakeAt_keeps_ready d y w hb

theorem wakeMembers_wakes {n c g x : Nat} {s : State} (hx : x ∈ (s.group c g).present) (h : AtTree n c x s) :
    ((s.wakeMembers c g (.barTree n)).thread c x).st = .ready :=
  foldl_reaches (P := AtTree n c x) (Q := fun (u : State) => (u.thread c x).st = .ready) hx (fun _ y hu => wakeAt_keeps_waiting c y hu)
    (fun _ hu => wakeAt_wakes hu) (fun _ y hu => wakeAt_keeps_ready c y _ hu) h

theorem wakeArrivals_wakes {n c g r x : Nat} {s : State} {out : List (Nat × Nat × Nat)} (ha : (c, g, r) ∈ out)
    (hx : x ∈ (s.group c g).present) (h : AtTree n c x s) : ((wakeArrivals n s out).thread c x).st = .ready := by
  unfold wakeArrivals
  refine foldl_reaches (P := fun (u : State) => u.group c g = s.group c g ∧ AtTree n c x u)
    (Q := fun (u : State) => (u.thread c x).st = .ready) ha ?_ ?_ ?_ ⟨rfl, h⟩
  · exact fun u a hu => ⟨((onlyThreads_wakeMembers u _ _ _).group c g).trans hu.1, atTree_wakeMembers _ _ hu.2⟩
  · exact fun u hu => wakeMembers_wakes (hu.1 ▸ hx) hu.2
  · exact fun u a hu => ready_wakeMembers _ _ _ hu

theorem treeRelease_wakes {p n : Nat} {s : State} {r : Nat} {at_ : DWord} {rest : List (Nat × DWord)}
    (hr : (s.tree p n).releases = (r, at_) :: rest) (hclk : at_.toNat ≤ s.clk.toNat) : Gives (.treeRelease p n) s fun t =>
      (t.tree p n).releases = rest ∧ ∀ c g x, (c, g, r) ∈ (s.tree p n).arrivals → x ∈ (s.group c g).present →
        (s.thread c x).st = .waiting (.barTree n) → (t.thread c x).st = .ready := by
  set s1 := s.modTree p n fun t =>
    { t with releases := t.releases.drop 1, arrivals := t.arrivals.filter fun a => a.2.2 != r } with hs1
  refine ⟨_, execTreeRelease_due hr hclk, ?_, fun c g x ha hx hst => ?_⟩
  · have hparts := congrArg State.parts (onlyThreads_wakeArrivals n s1 ((s.tree p n).arrivals.filter fun a => a.2.2 == r)).1
    have htree : s1.tree p n = _ := tree_modTree s p n _
    have := congrArg Tree.releases htree
    rw [hr] at this
    rw [State.tree, State.part, hparts]
    exact this
  · have hmem : (c, g, r) ∈ (s.tree p n).arrivals.filter fun a => a.2.2 == r := List.mem_filter.mpr ⟨ha, beq_self_eq_true _⟩
    exact wakeArrivals_wakes hmem hx (.inl hst)

/-- Settles O43: what each event of a grid, a team and a tree round does. -/
theorem gridsAndTeams : Obligations.GridsAndTeams := by
  refine ⟨?_, ?_, fun n s g hg hw => reservationGrant_wakes hg hw, fun n s d g hd hg => gridCountDecrement_counts hd hg,
    fun n s g hf ho hw => gridComplete_done hf ho hw, fun c n s e more hc hfit hrel hnd => claimServed_serves hc hfit hrel hnd,
    fun c n s r hr hfull => releaseComplete_frees hr hfull, fun c n s h _ => teamDeadlock_parks h,
    fun p n s r at_ rest hr hclk => treeRelease_wakes hr hclk⟩
  · intro v s g gs c hr hp ht hq hc
    obtain rfl : g.vf = v := (mem_toPlace (hp ▸ List.mem_cons_self)).2
    refine teamPlacement_places hr hp ht ?_
    rcases hc with ⟨ha, hcore⟩ | ⟨ha, hwait, hlacks, pre, post, horder, hpre⟩
    · exact placeFor_affinity ha hcore hq
    · refine placeFor_scan ha horder hpre ?_
      simp [State.roomAt, hwait, hlacks, hq]
  · intro n s r hr hp
    exact ⟨fun hc => reservationRequest_granted hr hp hc, fun hc hf => reservationRequest_denied hr hp hc hf⟩

end Sys2Proof.Proofs

/-! PROOFS. Chapter 05, Harvest: how `crd.next` and `crd.split` end (O46). First what a decode answers where its streams have ended, then
what the writes and wakes of an end leave in a member and in the cursor's slot. -/

namespace Sys2Proof.Proofs

open Sys2Proof.Machine Sys2Proof.Safety Sys2Proof.Claims Sys2Proof.Laws

/-! ## Decoding streams that have ended (05 R126, R128 to R130) -/

theorem head_ended (e : HEnv) (multi : Bool) (n : Nat) {x : Machine.Stream} (dn : Bool) (ds : List Denial) (h : x.left = 0) :
    e.head multi n x dn ds = .ok ((none, x, dn), ds) := by
  cases n with
  | zero => rfl
  | succ n => rw [HEnv.head]; exact if_pos h

theorem headA_ended (e : HEnv) {st : CState} (ds : List Denial) (h : st.a.left = 0) : e.headA st ds = .ok ((none, st), ds) := by
  rw [HEnv.headA, head_ended e _ _ _ _ h]
  simp

theorem headB_ended (e : HEnv) {st : CState} (ds : List Denial) (h : st.b.left = 0) : e.headB st ds = .ok ((none, st), ds) := by
  rw [HEnv.headB, head_ended e _ _ _ _ h]
  simp

theorem heads_ended (e : HEnv) {st : CState} (ds : List Denial) (ha : st.a.left = 0) (hb : st.b.left = 0) :
    e.heads st ds = .ok (((none, none), st), ds) := by
  rw [HEnv.heads, headA_ended e ds ha]
  dsimp only
  split
  · rfl
  · rw [headB_ended e ds hb]

theorem round_none (st : CState) : st.round none none = none := by
  unfold CState.round
  cases st.op <;> rfl

theorem nextTwo_ended (e : HEnv) (n : Nat) {st : CState} (ds : List Denial) (ha : st.a.left = 0) (hb : st.b.left = 0) :
    e.nextTwo n st ds = .ok (none, ds) := by
  cases n with
  | zero => rfl
  | succ n => rw [HEnv.nextTwo, heads_ended e ds ha hb]; dsimp only; rw [round_none st]

theorem nextRow_ended (e : HEnv) (n : Nat) {st : CState} (ds : List Denial) (ha : st.a.left = 0) (hk : ¬st.knext < st.kend) :
    e.nextRow n st ds = .ok (none, ds) := by
  cases n with
  | zero => rfl
  | succ n => rw [HEnv.nextRow, if_neg hk, headA_ended e ds ha]

/-- NextItem is none where the streams have ended. -/
theorem next_atEnd (e : HEnv) {st : CState} (ds : List Denial) (h : AtEnd st) : e.next st ds = .ok (none, ds) := by
  obtain ⟨ha, hb, hk⟩ := h
  unfold HEnv.next
  split
  · rename_i htwo
    exact nextTwo_ended e _ ds ha (hb htwo)
  · split
    · rfl
    · split
      · rename_i hop
        exact nextRow_ended e _ ds ha (hk hop)
      · rw [headA_ended e ds ha]

theorem take_atEnd (e : HEnv) (n : Nat) (l : List Item) {st : CState} (ds : List Denial) (h : AtEnd st) :
    e.take n l st ds = .ok ((l, st), ds) := by
  cases n with
  | zero => rfl
  | succ n => rw [HEnv.take, next_atEnd e ds h]

/-- Without a look-ahead item there is nothing to deliver at the end. -/
theorem deliver_atEnd (e : HEnv) (n : Nat) {k : Cursor} (hl : k.look = none) (h : AtEnd k.cur) :
    e.deliver n k = .ok (([], k.cur, none), []) := by
  unfold HEnv.deliver
  rw [hl]
  dsimp only
  rw [take_atEnd e n [] [] h]
  dsimp only
  rw [next_atEnd e [] h]
  exact ite_self _

/-- A look-ahead item after which the streams have ended is delivered, and nothing else. -/
theorem deliver_look_atEnd (e : HEnv) (n : Nat) {k : Cursor} {it : Item} {st : CState} (hl : k.look = some (it, st)) (h : AtEnd st) :
    e.deliver n k = .ok (([it], st, none), []) := by
  unfold HEnv.deliver
  rw [hl]
  dsimp only
  rw [take_atEnd e (n - 1) [it] [] h]
  dsimp only
  rw [next_atEnd e [] h]
  exact ite_self _

theorem countItems_atEnd (e : HEnv) (k n : Nat) {st : CState} (ds : List Denial) (h : AtEnd st) :
    e.countItems k n st ds = .ok (n, ds) := by
  cases k with
  | zero => rfl
  | succ k => rw [HEnv.countItems, next_atEnd e ds h]

theorem coords_ended (e : HEnv) (onB : Bool) (k : Nat) (l : List HCoord) {st : CState} (ds : List Denial) (ha : st.a.left = 0)
    (hb : st.b.left = 0) : e.coords onB k l st ds = .ok ((l, st), ds) := by
  cases k with
  | zero => rfl
  | succ k =>
    rw [HEnv.coords]
    cases onB
    · rw [if_neg Bool.false_ne_true, headA_ended e ds ha]
    · rw [if_pos rfl, headB_ended e ds hb]

theorem shareOne_atEnd (e : HEnv) (n i : Nat) {st : CState} (h : AtEnd st) :
    e.shareOne n i st = .ok ({ st with endAll := false, cEnd := 0 }, []) := by
  rw [HEnv.shareOne, countItems_atEnd e _ 0 [] h]
  dsimp only
  rw [take_atEnd e _ [] [] h]
  simp

theorem shareTwo_ended (e : HEnv) (n i : Nat) {st : CState} (ha : st.a.left = 0) (hb : st.b.left = 0) :
    e.shareTwo n i st = .ok ({ st with a := st.a.toEnd, b := st.b.toEnd, endAll := false, cEnd := 0 }, []) := by
  rw [HEnv.shareTwo, coords_ended e false _ [] [] ha hb]
  dsimp only
  rw [coords_ended e true _ [] [] ha hb]
  rfl

/-- A share of a cursor's remaining items, by its operation (05 R129). -/
def shareOf (e : HEnv) (n i : Nat) (st : CState) : HRes CState :=
  if CrdOp.two st.op then e.shareTwo n i st else e.shareOne n i st

/-- A share of streams that have ended is empty (05 R130). -/
theorem share_atEnd (e : HEnv) (n i : Nat) {st : CState} (h : AtEnd st) :
    ∃ st', shareOf e n i st = .ok (st', []) ∧ st'.endAll = false ∧ st'.cEnd = 0 := by
  obtain ⟨ha, hb, -⟩ := id h
  unfold shareOf
  split
  · rename_i htwo
    exact ⟨_, shareTwo_ended e n i ha (hb htwo), rfl, rfl⟩
  · exact ⟨_, shareOne_atEnd e n i h, rfl, rfl⟩

/-! ## Segment flags (05 R127) -/

/-- SEGS and SEGE as a `crd.next` computes them for its j-th member. -/
def flagsAt (k : Cursor) (l : List Item) (look : Option (Item × CState)) (j : Nat) : Bool × Bool :=
  segFlags k.cur.op k.outNew k.lastOut l (look.map Prod.fst) j

/-- The flags of a delivered item are those that its neighbours and the look-ahead item give it. -/
theorem segments_flagsAt (k : Cursor) {l : List Item} (look : Option (Item × CState)) {j : Nat} {it : Item} (h : l[j]? = some it) :
    Segments k l (look.map Prod.fst) j it (flagsAt k l look j).1 (flagsAt k l look j).2 := by
  unfold Segments flagsAt segFlags
  rw [h]
  dsimp only
  split
  · exact ⟨rfl, rfl⟩
  · refine ⟨?_, ?_⟩
    · by_cases hj : j = 0
      · cases k.outNew <;> simp [hj]
      · cases l[j - 1]? <;> simp [hj]
    · cases l[j + 1]? <;> cases look <;> simp

/-! ## Denial records leave the cores alone (02 R72) -/

theorem cores_dropDenial (s : State) (v : Nat) (d : Denial) : (s.dropDenial v d).cores = s.cores :=
  (postRecord_only s v none _ _).1.cores

theorem onlyDevice_denyCount (s : State) (v : Nat) (room : Bool) (p : DevAt) : OnlyDevice s (s.denyCount v room p) := by
  cases p with
  | here p => exact (onlyDevice_devPut s _ _).trans (onlyDevice_devPut _ _ _)
  | far pkg core a => exact onlyDevice_devSend s v pkg core _

theorem cores_appendDenial (s : State) (v : Nat) (d : Denial) : (s.appendDenial v d).cores = s.cores := by
  unfold State.appendDenial
  dsimp only
  split
  · exact cores_dropDenial s v d
  · split
    · exact cores_dropDenial s v d
    · rename_i p _
      have hcount := fun room => (onlyDevice_denyCount s v room p).cores
      split
      · split
        · rename_i hw
          exact (onlyDevice_devWrite hw).cores.trans (hcount _)
        · exact (cores_dropDenial _ v d).trans (hcount _)
      · exact hcount _

theorem cores_appendAll (s : State) (v : Nat) (ds : List Denial) : (s.appendAll v ds).cores = s.cores :=
  List.foldlRecOn (motive := fun (u : State) => u.cores = s.cores) ds _ rfl fun _ hu d _ => (cores_appendDenial _ v d).trans hu

/-- The state in which a decode that has ended has its denials recorded and its requests forgotten. -/
def recorded (s : State) (c slot : Nat) (k : Cursor) (ds : List Denial) : State :=
  (s.appendAll k.vf.toNat ds).dropAsks c (slotTag slot)

theorem thread_recorded (s : State) (c slot : Nat) (k : Cursor) (ds : List Denial) (d x : Nat) :
    (recorded s c slot k ds).thread d x = s.thread d x := by
  have h : (recorded s c slot k ds).cores = s.cores := cores_appendAll s _ ds
  unfold State.thread State.core
  rw [h]

/-! ## Cursor slots -/

@[simp] theorem cursor_setCursor (s : State) (c n : Nat) (k : Cursor) : (s.setCursor c n k).cursor c n = k := by
  simp [State.cursor, State.setCursor]

@[simp] theorem thread_setCursor (s : State) (c n : Nat) (k : Cursor) (d x : Nat) : (s.setCursor c n k).thread d x = s.thread d x := by
  unfold State.thread State.setCursor
  by_cases h : d = c
  · subst h; rw [core_modCore]
  · rw [core_modCore_other _ _ h]

theorem cursor_onlyThreads {s u : State} (h : OnlyThreads s u) (c n : Nat) : u.cursor c n = s.cursor c n := by
  unfold State.cursor; rw [h.2 c]

/-! ## Words written to a member -/

/-- A thread with a reference written; a uniform register is none of its own. -/
def putWord (t : Thread) (w : WRef × Word) : Thread :=
  match w.1 with
  | .g n => t.setReg n (RegWord.ofVal w.2)
  | .s _ => t
  | .p n => t.setPred n (w.2.getLsbD 0)

theorem thread_writeWord {s : State} {c x : Nat} (w : WRef × Word) (h : (s.thread c x).st ≠ .none) :
    (s.writeWord c x w.1 w.2).thread c x = putWord (s.thread c x) w := by
  obtain ⟨r, v⟩ := w
  unfold State.writeWord putWord
  cases r with
  | g n => rw [setWord_g _ _ _ _ _ h, thread_releaseA, thread_modThread]
  | s n =>
    cases hg : (s.thread c x).group with
    | none => simp [State.setWord, hg]
    | some g => rw [setWord_s s c x n g.1 g.2 _ h hg, thread_modGroup]
  | p n => rw [setWord_p _ _ _ _ _ h, thread_modThread]; rfl

@[simp] theorem setPred_reg (t : Thread) (n : Nat) (b : Bool) (m : Nat) : (t.setPred n b).reg m = t.reg m := by
  unfold Thread.setPred; split <;> rfl

@[simp] theorem setPred_st (t : Thread) (n : Nat) (b : Bool) : (t.setPred n b).st = t.st := by
  unfold Thread.setPred; split <;> rfl

@[simp] theorem putWord_st (t : Thread) (w : WRef × Word) : (putWord t w).st = t.st := by
  unfold putWord; split <;> simp

theorem foldl_putWord_st (ws : List (WRef × Word)) (t : Thread) : (ws.foldl putWord t).st = t.st :=
  List.foldlRecOn (motive := fun (u : Thread) => u.st = t.st) ws _ rfl fun u hu w _ => (putWord_st u w).trans hu

/-- Words written to a member one after another. -/
def writeWords (c x : Nat) (ws : List (WRef × Word)) (s : State) : State := ws.foldl (fun s w => s.writeWord c x w.1 w.2) s

theorem thread_writeWords {s : State} {c x : Nat} (ws : List (WRef × Word)) (h : (s.thread c x).st ≠ .none) :
    (writeWords c x ws s).thread c x = ws.foldl putWord (s.thread c x) := by
  induction ws generalizing s with
  | nil => rfl
  | cons w ws ih =>
    have hw := thread_writeWord w h
    have hlive : ((s.writeWord c x w.1 w.2).thread c x).st ≠ .none := by rw [hw, putWord_st]; exact h
    rw [List.foldl_cons, ← hw]
    exact ih hlive

theorem thread_writeWords_other {s : State} {c x y : Nat} (ws : List (WRef × Word)) (h : y ≠ x) :
    (writeWords c x ws s).thread c y = s.thread c y :=
  List.foldlRecOn (motive := fun (u : State) => u.thread c y = s.thread c y) ws _ rfl fun u hu w _ =>
    (thread_setWord_other u w.1 (RegWord.ofVal w.2) (.inr h)).trans hu

/-! ## The seven words (05 R127) -/

theorem boolWord_bit (b : Bool) : (boolWord b).getLsbD 0 = b := by cases b <;> rfl

theorem itemWords_eq (d p : Nat) (l : List Item) (fl : Bool × Bool) (exh : Bool) (j : Nat) :
    itemWords d p l fl exh j =
      [(.g d, (l[j]?.map Item.c).getD 0), (.g (d + 1), (l[j]?.map Item.a).getD noPos), (.g (d + 2), (l[j]?.map Item.b).getD noPos),
        (.p p, boolWord l[j]?.isSome), (.p (p + 1), boolWord (l[j]?.isSome && fl.1)), (.p (p + 2), boolWord (l[j]?.isSome && fl.2)),
        (.p (p + 3), boolWord exh)] := by
  unfold itemWords
  cases l[j]? <;> rfl

/-- A thread has the seven words of an item, or of none: the coordinate and the positions, VALID, SEGS, SEGE and EXH. -/
structure HasWords (h : Thread) (d p : Nat) (it : Option Item) (segs sege exh : Bool) : Prop where
  coord : (h.reg d).val = (it.map Item.c).getD 0
  posA : (h.reg (d + 1)).val = (it.map Item.a).getD noPos
  posB : (h.reg (d + 2)).val = (it.map Item.b).getD noPos
  valid : h.pred p = it.isSome
  segs : h.pred (p + 1) = (it.isSome && segs)
  sege : h.pred (p + 2) = (it.isSome && sege)
  exh : h.pred (p + 3) = exh

theorem hasWords_itemWords (t : Thread) (d p : Nat) (l : List Item) (fl : Bool × Bool) (exh : Bool) (j : Nat) (h0 : 0 < p)
    (h16 : p + 3 < 16) : HasWords ((itemWords d p l fl exh j).foldl putWord t) d p l[j]? fl.1 fl.2 exh := by
  have hsame : ∀ (t : Thread) n b, 0 < n → n < 16 → (t.setPred n b).pred n = b := fun t n b h hn => (pred_setPred t n b h hn).1
  have hother : ∀ (t : Thread) n m b, m ≠ n → m < 16 → (t.setPred n b).pred m = t.pred m := fun t n m b h hm =>
    (pred_setPred_other t b h hm).1
  rw [itemWords_eq]
  constructor <;>
    simp (disch := omega) only [List.foldl_cons, List.foldl_nil, putWord, setPred_reg, reg_setReg, reg_setReg_other, hsame, hother,
      RegWord.ofVal, boolWord_bit]

/-- The words stand when the thread goes on. -/
theorem HasWords.goesOn {h : Thread} {d p : Nat} {it : Option Item} {segs sege exh : Bool} (hw : HasWords h d p it segs sege exh)
    (pc : Word) (n : Nat) : HasWords { h.moveTo pc with st := .ready, stamp := n } d p it segs sege exh :=
  ⟨hw.coord, hw.posA, hw.posB, hw.valid, hw.segs, hw.sege, hw.exh⟩

/-! ## The end of a `crd.next` and of a `crd.split` -/

/-- `foldl_reaches_once` for an element whose key no other element of the list has. -/
theorem foldl_reaches_keyed {σ α κ : Type} {f : σ → α → σ} (key : α → κ) {P Q : σ → Prop} {l : List α} {a : α} (ha : a ∈ l)
    (hl : (l.map key).Nodup) (step : ∀ s b, key b ≠ key a → P s → P (f s b)) (hit : ∀ s, P s → Q (f s a))
    (stay : ∀ s b, key b ≠ key a → Q s → Q (f s b)) {s : σ} (hs : P s) : Q (l.foldl f s) := by
  obtain ⟨pre, post, rfl⟩ := List.append_of_mem ha
  rw [List.map_append, List.map_cons] at hl
  have hna : ∀ b, b ∈ pre ∨ b ∈ post → key b ≠ key a := fun b hb he =>
    (List.nodup_cons.mp (List.nodup_middle.mp hl)).1 (List.mem_append.mpr
      (hb.imp (fun h => he ▸ List.mem_map_of_mem h) fun h => he ▸ List.mem_map_of_mem h))
  rw [List.foldl_append, List.foldl_cons]
  exact List.foldlRecOn post f
    (hit _ (List.foldlRecOn pre f hs fun u hu b hb => step u b (hna b (.inl hb)) hu)) fun u hu b hb => stay u b (hna b (.inr hb)) hu

/-- Every member that waits for Harvest goes on where the operation ends. -/
theorem thread_crdDone {s : State} {c : Nat} {lanes : List (Nat × Nat)} {m : Nat × Nat} (pc : Word) (hm : m ∈ lanes)
    (hnd : (lanes.map Prod.snd).Nodup) (hst : (s.thread c m.2).st = .waiting .harvest) :
    ∃ n : Nat, (s.crdDone c lanes pc).thread c m.2 = { (s.thread c m.2).moveTo pc with st := .ready, stamp := n } := by
  refine foldl_reaches_keyed Prod.snd (P := fun (u : State) => u.thread c m.2 = s.thread c m.2)
    (Q := fun (u : State) => ∃ n : Nat, u.thread c m.2 = { (s.thread c m.2).moveTo pc with st := .ready, stamp := n }) hm hnd
    (fun u b hb hu => ?_) (fun u hu => ?_) (fun u b hb hu => ?_) rfl
  · rw [thread_wakeAt_other u _ _ (.inr hb.symm), hu]
  · rw [← hu]
    exact thread_wakeAt_moves pc (hu ▸ hst)
  · rw [thread_wakeAt_other u _ _ (.inr hb.symm)]
    exact hu

theorem onlyThreads_crdDone (s : State) (c : Nat) (lanes : List (Nat × Nat)) (pc : Word) : OnlyThreads s (s.crdDone c lanes pc) :=
  onlyThreads_foldl _ (fun _ _ => onlyThreads_wakeAt _ _ _ _ _) lanes s

/-- An operation that leaves a cursor in its slot: the cursor stands there, and the members go on with the registers that they had. -/
theorem crdDone_leaves {s : State} {c slot : Nat} {lanes : List (Nat × Nat)} (k : Cursor) (pc : Word)
    (hnd : (lanes.map Prod.snd).Nodup) (hst : ∀ m ∈ lanes, (s.thread c m.2).st = .waiting .harvest) :
    let t := (s.setCursor c slot k).crdDone c lanes pc
    t.cursor c slot = k ∧
      ∀ m ∈ lanes, ∃ n : Nat, t.thread c m.2 = { (s.thread c m.2).moveTo pc with st := .ready, stamp := n } := by
  refine ⟨?_, fun m hm => ?_⟩
  · rw [cursor_onlyThreads (onlyThreads_crdDone _ c lanes pc), cursor_setCursor]
  · have h := thread_crdDone (s := s.setCursor c slot k) pc hm hnd (by rw [thread_setCursor]; exact hst m hm)
    rwa [thread_setCursor] at h

theorem crdReady_of_goes {s : State} {c slot : Nat} {k : Cursor} {lanes : List (Nat × Nat)} (hslot : slot < 256)
    (h : HarvestGoes s c k lanes) : s.crdReady c slot k = true := by
  obtain ⟨hlive, hstuck, -⟩ := h.live
  simpa [State.crdReady, State.crdForked, hslot, hlive, hstuck] using h.forked

/-- The state in which each member has the words of its item. -/
def itemsWritten (c d p : Nat) (k : Cursor) (l : List Item) (look : Option (Item × CState)) (lanes : List (Nat × Nat)) (s : State) :
    State :=
  lanes.zipIdx.foldl (fun s e => writeWords c e.1.2
    (itemWords d p l (flagsAt k l look e.2) look.isNone e.2) s) s

/-- The thread of the j-th member changes by the writes of its own seven words alone. -/
theorem thread_itemsWritten {s : State} {c d p : Nat} (k : Cursor) (l : List Item) (look : Option (Item × CState))
    {lanes : List (Nat × Nat)} {j : Nat} {m : Nat × Nat} (hm : lanes[j]? = some m) (hnd : (lanes.map Prod.snd).Nodup)
    (hlive : (s.thread c m.2).st ≠ .none) :
    (itemsWritten c d p k l look lanes s).thread c m.2 =
      (itemWords d p l (flagsAt k l look j) look.isNone j).foldl putWord (s.thread c m.2) := by
  have hkeys : lanes.zipIdx.map (fun e => e.1.2) = lanes.map Prod.snd := by
    rw [← List.zipIdx_map_fst 0 lanes, List.map_map, List.zipIdx_map_fst]
    rfl
  refine foldl_reaches_keyed (fun e : (Nat × Nat) × Nat => e.1.2) (a := (m, j))
    (P := fun (u : State) => u.thread c m.2 = s.thread c m.2)
    (Q := fun (u : State) =>
      u.thread c m.2 = (itemWords d p l (flagsAt k l look j) look.isNone j).foldl putWord (s.thread c m.2))
    (List.mk_mem_zipIdx_iff_getElem?.mpr hm) (hkeys ▸ hnd) (fun u b hb hu => ?_) (fun u hu => ?_) (fun u b hb hu => ?_) rfl
  · rw [thread_writeWords_other _ hb.symm, hu]
  · rw [← hu]
    exact thread_writeWords _ (hu ▸ hlive)
  · rw [thread_writeWords_other _ hb.symm, hu]

/-- The cursor after it has delivered items (05 R128). -/
def deliveredCursor (k : Cursor) (l : List Item) (st : CState) (look : Option (Item × CState)) : Cursor :=
  { k.unread with
    cur := st, look := look, busy := .none, outNew := k.outNew && l.isEmpty
    lastOut := ((l.getLast?).map Item.c).getD k.lastOut, emitted := k.emitted + BitVec.ofNat 32 l.length }

/-- The cursor after a split (05 R130). -/
def sharedCursor (k : Cursor) (st : CState) : Cursor := { k.unread with cur := st, look := none, busy := .none, outNew := true }

section
variable {s : State} {c slot num d p len : Nat} {n i pc : Word} {lanes : List (Nat × Nat)} {k : Cursor} {l : List Item} {st : CState}
  {look : Option (Item × CState)} {ds : List Denial}

theorem execCrdNextComplete_delivers (hk : s.cursor c slot = k) (hb : k.busy = .next num lanes d p pc len) (hslot : slot < 256)
    (hgo : HarvestGoes s c k lanes) (hd : (s.henv c k pc).deliver lanes.length k = .ok ((l, st, look), ds)) :
    execCrdNextComplete c slot s = .next (((itemsWritten c d p k l look lanes (recorded s c slot k ds)).setCursor c slot
      (deliveredCursor k l st look)).crdDone c lanes (pc + BitVec.ofNat 32 len)) := by
  unfold execCrdNextComplete
  rw [hk]
  dsimp only
  rw [hb]
  dsimp only
  rw [crdReady_of_goes hslot hgo, hd, hgo.live.2.2]
  rfl

theorem execCrdSplitComplete_splits (hk : s.cursor c slot = k) (hb : k.busy = .split num lanes n i pc len) (hslot : slot < 256)
    (hgo : HarvestGoes s c k lanes) (hd : shareOf (s.henv c k pc) n.toNat i.toNat k.cur = .ok (st, ds)) :
    execCrdSplitComplete c slot s = .next (((recorded s c slot k ds).setCursor c slot (sharedCursor k st)).crdDone c
      lanes (pc + BitVec.ofNat 32 len)) := by
  unfold shareOf at hd
  unfold execCrdSplitComplete
  rw [hk]
  dsimp only
  rw [hb]
  dsimp only
  rw [crdReady_of_goes hslot hgo, hd, hgo.live.2.2]
  rfl

/-- A decode that finds its items (05 R127, R128): the cursor has delivered them, and each member goes on with its seven words. -/
theorem crdNextComplete_delivers (hk : s.cursor c slot = k) (hb : k.busy = .next num lanes d p pc len) (hslot : slot < 256)
    (hgo : HarvestGoes s c k lanes) (hd : (s.henv c k pc).deliver lanes.length k = .ok ((l, st, look), ds)) (h0 : 0 < p) (h16 : p + 3 < 16) :
    Gives (.crdNextComplete c slot) s fun t => t.cursor c slot = deliveredCursor k l st look ∧ ∀ j m, lanes[j]? = some m →
      let h := t.thread c m.2
      h.st = .ready ∧ h.pc = pc + BitVec.ofNat 32 len ∧
        HasWords h d p l[j]? (flagsAt k l look j).1 (flagsAt k l look j).2 look.isNone := by
  obtain ⟨hnd, hwait⟩ := hgo.members
  have hwait' : ∀ m ∈ lanes, ((recorded s c slot k ds).thread c m.2).st = .waiting .harvest := fun m hm => by
    rw [thread_recorded]; exact hwait m hm
  have hwritten := fun (j : Nat) (m : Nat × Nat) (hm : lanes[j]? = some m) =>
    thread_itemsWritten (d := d) (p := p) k l look hm hnd (by rw [hwait' m (List.mem_of_getElem? hm)]; simp)
  obtain ⟨hcur, hgone⟩ := crdDone_leaves (s := itemsWritten c d p k l look lanes (recorded s c slot k ds)) (slot := slot)
    (deliveredCursor k l st look) (pc + BitVec.ofNat 32 len) hnd (fun m hm => by
      obtain ⟨j, hj⟩ := List.mem_iff_getElem?.mp hm
      rw [hwritten j m hj, foldl_putWord_st]
      exact hwait' m hm)
  refine ⟨_, execCrdNextComplete_delivers hk hb hslot hgo hd, hcur, fun j m hm => ?_⟩
  obtain ⟨n, hn⟩ := hgone m (List.mem_of_getElem? hm)
  have hwords := hasWords_itemWords ((recorded s c slot k ds).thread c m.2) d p l (flagsAt k l look j) look.isNone j h0 h16
  rw [← hwritten j m hm] at hwords
  dsimp only
  rw [hn]
  exact ⟨rfl, rfl, hwords.goesOn _ n⟩

/-- A share that is decoded (05 R129, R130) stands in the cursor's slot, and the members go on. -/
theorem crdSplitComplete_splits (hk : s.cursor c slot = k) (hb : k.busy = .split num lanes n i pc len) (hslot : slot < 256)
    (hgo : HarvestGoes s c k lanes) (hd : shareOf (s.henv c k pc) n.toNat i.toNat k.cur = .ok (st, ds)) :
    Gives (.crdSplitComplete c slot) s fun t => (t.cursor c slot).busy = .none ∧ (t.cursor c slot).cur = st ∧
      (t.cursor c slot).look = none ∧ (t.cursor c slot).outNew = true ∧
      ∀ m ∈ lanes, (t.thread c m.2).st = .ready ∧ (t.thread c m.2).pc = pc + BitVec.ofNat 32 len := by
  obtain ⟨hnd, hwait⟩ := hgo.members
  obtain ⟨hcur, hgone⟩ := crdDone_leaves (s := recorded s c slot k ds) (slot := slot) (sharedCursor k st)
    (pc + BitVec.ofNat 32 len) hnd (fun m hm => by rw [thread_recorded]; exact hwait m hm)
  refine ⟨_, execCrdSplitComplete_splits hk hb hslot hgo hd, ?_⟩
  dsimp only
  rw [hcur]
  refine ⟨rfl, rfl, rfl, rfl, fun m hm => ?_⟩
  obtain ⟨n, hn⟩ := hgone m hm
  rw [hn]
  exact ⟨rfl, rfl⟩

/-- A member has received an item of a `crd.next` after which none follows, or none (05 R127), and goes on at an address. -/
def ReceivesLast (k : Cursor) (d p : Nat) (go : Word) (h : Thread) (it : Option Item) : Prop :=
  h.st = .ready ∧ h.pc = go ∧ (h.reg d).val = ((it.map Item.c).getD 0) ∧
    (h.reg (d + 1)).val = ((it.map Item.a).getD 0xFFFFFFFF) ∧ (h.reg (d + 2)).val = ((it.map Item.b).getD 0xFFFFFFFF) ∧
    h.pred p = it.isSome ∧ h.pred (p + 3) = true ∧ (it = none → h.pred (p + 1) = false ∧ h.pred (p + 2) = false) ∧
    ∀ x, it = some x → Segments k [x] none 0 x (h.pred (p + 1)) (h.pred (p + 2))

theorem receivesLast_none {k : Cursor} {d p : Nat} {go : Word} {h : Thread} {segs sege : Bool} (hst : h.st = .ready) (hpc : h.pc = go)
    (hw : HasWords h d p none segs sege true) : ReceivesLast k d p go h none :=
  ⟨hst, hpc, hw.coord, hw.posA, hw.posB, hw.valid, hw.exh, fun _ => ⟨hw.segs, hw.sege⟩, by simp⟩

theorem receivesLast_some {k : Cursor} {d p : Nat} {go : Word} {h : Thread} {it : Item} (hst : h.st = .ready) (hpc : h.pc = go)
    (hw : HasWords h d p (some it) (flagsAt k [it] none 0).1 (flagsAt k [it] none 0).2 true) : ReceivesLast k d p go h (some it) := by
  refine ⟨hst, hpc, hw.coord, hw.posA, hw.posB, hw.valid, hw.exh, by simp, fun x hx => ?_⟩
  obtain rfl := Option.some.inj hx
  rw [hw.segs, hw.sege]
  exact segments_flagsAt k none rfl

/-- At the end of its streams a `crd.next` without a look-ahead item delivers none. -/
theorem crdNextComplete_atEnd (hk : s.cursor c slot = k) (hb : k.busy = .next num lanes d p pc len) (hslot : slot < 256)
    (hgo : HarvestGoes s c k lanes) (h0 : 0 < p) (h16 : p + 3 < 16) (hl : k.look = none) (hend : AtEnd k.cur) :
    Gives (.crdNextComplete c slot) s fun t =>
      (t.cursor c slot).busy = .none ∧ (t.cursor c slot).cur = k.cur ∧
        ∀ m ∈ lanes, ReceivesLast k d p (pc + BitVec.ofNat 32 len) (t.thread c m.2) none := by
  obtain ⟨t, ht, hcur, hgets⟩ := crdNextComplete_delivers hk hb hslot hgo (deliver_atEnd _ _ hl hend) h0 h16
  refine ⟨t, ht, by rw [hcur]; rfl, by rw [hcur]; rfl, fun m hm => ?_⟩
  obtain ⟨j, hj⟩ := List.mem_iff_getElem?.mp hm
  obtain ⟨hst, hpc, hw⟩ := hgets j m hj
  exact receivesLast_none hst hpc hw

/-- A look-ahead item after which the streams have ended goes to the first member; the others receive none. -/
theorem crdNextComplete_look {m : Nat × Nat} {ms : List (Nat × Nat)} {it : Item}
    (hk : s.cursor c slot = k) (hb : k.busy = .next num (m :: ms) d p pc len) (hslot : slot < 256) (hgo : HarvestGoes s c k (m :: ms))
    (h0 : 0 < p) (h16 : p + 3 < 16) (hl : k.look = some (it, st)) (hend : AtEnd st) :
    Gives (.crdNextComplete c slot) s fun t =>
      (t.cursor c slot).busy = .none ∧ (t.cursor c slot).cur = st ∧ (t.cursor c slot).look = none ∧
        ReceivesLast k d p (pc + BitVec.ofNat 32 len) (t.thread c m.2) (some it) ∧
        ∀ m' ∈ ms, ReceivesLast k d p (pc + BitVec.ofNat 32 len) (t.thread c m'.2) none := by
  obtain ⟨t, ht, hcur, hgets⟩ := crdNextComplete_delivers hk hb hslot hgo (deliver_look_atEnd _ _ hl hend) h0 h16
  refine ⟨t, ht, by rw [hcur]; rfl, by rw [hcur]; rfl, by rw [hcur]; rfl, ?_, fun m' hm => ?_⟩
  · obtain ⟨hst, hpc, hw⟩ := hgets 0 m rfl
    exact receivesLast_some hst hpc hw
  · obtain ⟨j, hj⟩ := List.mem_iff_getElem?.mp hm
    obtain ⟨hst, hpc, hw⟩ := hgets (j + 1) m' hj
    exact receivesLast_none hst hpc hw

end

/-- The words of a member that is given an item, and of one that is not, as 05 R127 tables them. -/
theorem HasWords.given_or_not {h : Thread} {d p j : Nat} {k : Cursor} {l : List Item} {look : Option (Item × CState)}
    (hw : HasWords h d p l[j]? (flagsAt k l look j).1 (flagsAt k l look j).2 look.isNone) :
    (∀ it, l[j]? = some it → (h.reg d).val = it.c ∧ (h.reg (d + 1)).val = it.a ∧ (h.reg (d + 2)).val = it.b ∧ h.pred p = true ∧
        Segments k l (look.map Prod.fst) j it (h.pred (p + 1)) (h.pred (p + 2))) ∧
      (l.length ≤ j → (h.reg d).val = 0 ∧ (h.reg (d + 1)).val = 0xFFFFFFFF ∧ (h.reg (d + 2)).val = 0xFFFFFFFF ∧ h.pred p = false ∧
        h.pred (p + 1) = false ∧ h.pred (p + 2) = false) := by
  refine ⟨fun it hit => ?_, fun hj => ?_⟩
  · have hseg := segments_flagsAt k look hit
    rw [hit] at hw
    refine ⟨hw.coord, hw.posA, hw.posB, hw.valid, ?_⟩
    rw [hw.segs, hw.sege]
    exact hseg
  · rw [List.getElem?_eq_none hj] at hw
    exact ⟨hw.coord, hw.posA, hw.posB, hw.valid, hw.segs, hw.sege⟩

/-- Settles O46: a decode writes every member's seven words or leaves the share; where the streams have ended it answers at once. -/
theorem harvestCompletes : Obligations.HarvestCompletes := by
  refine ⟨fun c slot s num lanes d p pc len hb hslot hgo _ h0 h16 => ⟨fun hl hend => ?_, fun it st m ms hl hend hms => ?_⟩,
    fun c slot s num lanes n i pc len hb hslot hgo hend => ?_,
    fun c slot s num lanes d p pc len l st look ds hb hslot hgo hd _ h0 h16 => ?_,
    fun c slot s num lanes n i pc len st ds hb hslot hgo hd => crdSplitComplete_splits rfl hb hslot hgo hd⟩
  · exact crdNextComplete_atEnd rfl hb hslot hgo h0 h16 hl hend
  · subst hms
    exact crdNextComplete_look rfl hb hslot hgo h0 h16 hl hend
  · obtain ⟨st, hshare, hall, hcEnd⟩ := share_atEnd (s.henv c (s.cursor c slot) pc) n.toNat i.toNat hend
    obtain ⟨t, ht, hbusy, hcur, hlook, hnew, hgone⟩ := crdSplitComplete_splits rfl hb hslot hgo hshare
    exact ⟨t, ht, hbusy, hcur ▸ hall, hcur ▸ hcEnd, hlook, hnew, hgone⟩
  · obtain ⟨t, ht, hcur, hgets⟩ := crdNextComplete_delivers rfl hb hslot hgo hd h0 h16
    refine ⟨t, ht, by rw [hcur]; rfl, by rw [hcur]; rfl, by rw [hcur]; rfl, fun j m hm => ?_⟩
    obtain ⟨hst, hpc, hw⟩ := hgets j m hm
    exact ⟨hst, hpc, hw.exh, hw.given_or_not⟩

end Sys2Proof.Proofs

/-! PROOFS. Chapter 06, number formats: Round of a positive fraction (O5). First the model's integer arithmetic read as rationals, then the
grid of the codes of a format, then the quotient that each mode picks. -/

namespace Sys2Proof.Proofs

open Sys2Proof.Machine Sys2Proof.Safety Sys2Proof.Claims Sys2Proof.Laws

/-! ## Scaling and logarithms of fractions -/

theorem two_zpow_pos (i : Int) : (0 : ℚ) < 2 ^ i := zpow_pos two_pos i

theorem scaleRat_den_pos (num : Nat) {den : Nat} (hden : 0 < den) (i : Int) : 0 < (scaleRat num den i).2 := by
  unfold scaleRat
  split
  · exact hden
  · exact Nat.mul_pos hden (Nat.two_pow_pos _)

/-- `scaleRat` multiplies the fraction by 2^i. -/
theorem scaleRat_value (num den : Nat) (i : Int) :
    ((scaleRat num den i).1 / (scaleRat num den i).2 : ℚ) = num / den * 2 ^ i := by
  unfold scaleRat
  split
  case isTrue hi =>
    obtain ⟨k, rfl⟩ := Int.eq_ofNat_of_zero_le hi
    simp [mul_div_right_comm]
  case isFalse hi =>
    obtain ⟨k, hk⟩ := Int.eq_ofNat_of_zero_le (Int.neg_nonneg.mpr (Int.le_of_lt (Int.not_le.mp hi)))
    obtain rfl : i = -k := by omega
    simp [div_eq_mul_inv, mul_assoc, mul_comm]

/-- A fraction of positive numbers lies within one binade of the difference of their logarithms. -/
theorem fraction_within_binade {num den : Nat} (hnum : 0 < num) (hden : 0 < den) :
    (2 : ℚ) ^ ((num.log2 : Int) - den.log2 - 1) ≤ num / den ∧ (num / den : ℚ) < 2 ^ ((num.log2 : Int) - den.log2 + 1) := by
  have hden' : (0 : ℚ) < den := mod_cast hden
  have hn : (2 : ℚ) ^ num.log2 ≤ num := mod_cast Nat.log2_self_le hnum.ne'
  have hn' : (num : ℚ) < 2 ^ (num.log2 + 1) := mod_cast Nat.lt_log2_self
  have hd : (2 : ℚ) ^ den.log2 ≤ den := mod_cast Nat.log2_self_le hden.ne'
  have hd' : (den : ℚ) < 2 ^ (den.log2 + 1) := mod_cast Nat.lt_log2_self
  constructor
  · rw [le_div_iff₀ hden']
    calc (2 : ℚ) ^ ((num.log2 : Int) - den.log2 - 1) * den
        ≤ 2 ^ ((num.log2 : Int) - den.log2 - 1) * 2 ^ (den.log2 + 1) := by gcongr
      _ = 2 ^ num.log2 := by
        rw [← zpow_natCast, ← zpow_natCast, ← zpow_add₀ two_ne_zero]
        congr 1
        push_cast
        ring
      _ ≤ num := hn
  · rw [div_lt_iff₀ hden']
    calc (num : ℚ) < 2 ^ (num.log2 + 1) := hn'
      _ = 2 ^ ((num.log2 : Int) - den.log2 + 1) * 2 ^ den.log2 := by
        rw [← zpow_natCast, ← zpow_natCast, ← zpow_add₀ two_ne_zero]
        congr 1
        push_cast
        ring
      _ ≤ 2 ^ ((num.log2 : Int) - den.log2 + 1) * den := by gcongr

/-- The test of `floorLog2`: whether the fraction lies below 2^i. -/
theorem scaleRat_neg_lt_iff (num : Nat) {den : Nat} (hden : 0 < den) (i : Int) :
    (scaleRat num den (-i)).1 < (scaleRat num den (-i)).2 ↔ (num / den : ℚ) < 2 ^ i := by
  have hpos : (0 : ℚ) < (scaleRat num den (-i)).2 := mod_cast scaleRat_den_pos num hden (-i)
  rw [← Nat.cast_lt (α := ℚ), ← div_lt_one hpos, scaleRat_value, zpow_neg, ← div_eq_mul_inv, div_lt_one (two_zpow_pos i)]

/-- `a` lies in the binade from 2^i on exactly when its logarithm is i. -/
theorem log_eq_of_binade {a : ℚ} {i : Int} (hlo : 2 ^ i ≤ a) (hhi : a < 2 ^ (i + 1)) : Int.log 2 a = i := by
  have ha : 0 < a := (two_zpow_pos i).trans_le hlo
  have h1 := (Int.zpow_le_iff_le_log one_lt_two ha).mp (by exact_mod_cast hlo)
  have h2 := (Int.lt_zpow_iff_log_lt one_lt_two ha).mp (by exact_mod_cast hhi)
  omega

theorem log_fraction {num den : Nat} (hnum : 0 < num) (hden : 0 < den) :
    Int.log 2 (num / den : ℚ) = floorLog2 num den := by
  obtain ⟨hlo, hhi⟩ := fraction_within_binade hnum hden
  unfold floorLog2
  simp only [scaleRat_neg_lt_iff num hden]
  split
  case isTrue h => exact log_eq_of_binade hlo (by simpa using h)
  case isFalse h => exact log_eq_of_binade (not_lt.mp h) hhi

theorem log_mul_two_zpow {a : ℚ} (ha : 0 < a) (e : Int) : Int.log 2 (a * 2 ^ e) = Int.log 2 a + e := by
  have hlo : (2 : ℚ) ^ Int.log 2 a ≤ a := mod_cast Int.zpow_log_le_self one_lt_two ha
  have hhi : a < (2 : ℚ) ^ (Int.log 2 a + 1) := mod_cast Int.lt_zpow_succ_log_self one_lt_two a
  apply log_eq_of_binade
  · rw [zpow_add₀ two_ne_zero]
    gcongr
  · rw [add_right_comm, zpow_add₀ two_ne_zero _ e]
    gcongr

/-! ## The grid of a format's codes (06 R135) -/

/-- The magnitude that a code has where exponents go on without end: `magnitude` up to the largest finite code. -/
def gridValue (f : FForm) (c : Nat) : ℚ :=
  ((if c < 2 ^ f.frac then c else 2 ^ f.frac + c % 2 ^ f.frac : Nat) : ℚ) *
    2 ^ (((max (c / 2 ^ f.frac) 1 : Nat) : Int) - f.bias - f.frac)

theorem magnitude_eq_gridValue {f : FForm} {c : Nat} (hc : c ≤ f.maxCode) : magnitude f c = gridValue f c := by
  have hmod : c % 2 ^ f.signPos = c := Nat.mod_eq_of_lt (hc.trans_lt (by cases f <;> decide))
  unfold magnitude gridValue FForm.decode
  simp only [hmod, if_neg (not_lt.mpr hc), Nat.div_eq_zero_iff_lt (Nat.two_pow_pos f.frac)]
  by_cases hsub : c < 2 ^ f.frac
  · simp [hsub, Nat.mod_eq_of_lt hsub, Nat.div_eq_of_lt hsub]
  · have he : max (c / 2 ^ f.frac) 1 = c / 2 ^ f.frac :=
      max_eq_left (Nat.div_pos (not_lt.mp hsub) (Nat.two_pow_pos _))
    simp [hsub, he]

/-- The code k · 2^frac + q stands for q steps of binade k, the first step of the next binade included. -/
theorem gridValue_binade (f : FForm) {k q : Nat} (hq : q ≤ 2 * 2 ^ f.frac) (hk : k = 0 ∨ 2 ^ f.frac ≤ q) :
    gridValue f (k * 2 ^ f.frac + q) = q * 2 ^ (k + (1 - f.bias - f.frac)) := by
  have hpos := Nat.two_pow_pos f.frac
  unfold gridValue
  obtain hsub | hnorm := lt_or_ge q (2 ^ f.frac)
  · obtain rfl : k = 0 := hk.resolve_right (not_le.mpr hsub)
    simp [hsub, Nat.div_eq_of_lt hsub, sub_sub]
  have hge : ¬ k * 2 ^ f.frac + q < 2 ^ f.frac := by omega
  rw [if_neg hge]
  obtain ⟨r, rfl⟩ := Nat.exists_eq_add_of_le hnorm
  have hsplit : k * 2 ^ f.frac + (2 ^ f.frac + r) = r + 2 ^ f.frac * (k + 1) := by ring
  rw [hsplit, Nat.add_mul_mod_self_left, Nat.add_mul_div_left _ _ hpos]
  obtain hlt | rfl := lt_or_eq_of_le (show r ≤ 2 ^ f.frac by omega)
  · rw [Nat.mod_eq_of_lt hlt, Nat.div_eq_of_lt hlt, max_eq_left (by omega)]
    congr 2
    push_cast
    ring
  · rw [Nat.mod_self, Nat.div_self hpos, max_eq_left (by omega)]
    have hexp : ((1 + (k + 1) : Nat) : Int) - f.bias - f.frac = k + (1 - f.bias - f.frac) + 1 := by
      push_cast
      ring
    rw [hexp, zpow_add_one₀ two_ne_zero]
    push_cast
    ring

/-- Every code is a number of steps of some binade. -/
theorem code_eq_binade (f : FForm) (c : Nat) :
    ∃ k q, c = k * 2 ^ f.frac + q ∧ q < 2 * 2 ^ f.frac ∧ (k = 0 ∨ 2 ^ f.frac ≤ q) := by
  have hpos := Nat.two_pow_pos f.frac
  have hmod := Nat.mod_lt c hpos
  have hdiv := Nat.div_add_mod' c (2 ^ f.frac)
  cases hk : c / 2 ^ f.frac with
  | zero => exact ⟨0, c % 2 ^ f.frac, by rw [← hk, hdiv], by omega, .inl rfl⟩
  | succ k =>
    rw [hk, Nat.succ_mul] at hdiv
    exact ⟨k, 2 ^ f.frac + c % 2 ^ f.frac, by omega, by omega, .inr (by omega)⟩

theorem gridValue_strictMono (f : FForm) : StrictMono (gridValue f) := by
  refine strictMono_nat_of_lt_succ fun c => ?_
  obtain ⟨k, q, rfl, hq, hk⟩ := code_eq_binade f c
  rw [add_assoc, gridValue_binade f hq.le hk, gridValue_binade f hq (hk.imp_right Nat.le_succ_of_le)]
  have := two_zpow_pos (k + (1 - f.bias - f.frac))
  gcongr
  exact Nat.lt_succ_self q

/-! ## The step that each mode picks (06 R145) -/

/-- The exponent of the spacing of a format at a magnitude. -/
def stepExp (f : FForm) (a : ℚ) : Int := max (Int.log 2 a) (1 - f.bias) - f.frac

theorem div_le_roundQuot (m : Rnd) (neg : Bool) (num den : Nat) : num / den ≤ roundQuot m neg num den := by
  unfold roundQuot
  cases m <;> grind

theorem roundQuot_le_succ_div (m : Rnd) (neg : Bool) (num den : Nat) : roundQuot m neg num den ≤ num / den + 1 := by
  unfold roundQuot
  cases m <;> grind

/-- What lies above the whole steps of a fraction of the step q. -/
theorem steps_sub_floor {num den : Nat} (hden : 0 < den) (q : ℚ) :
    num / den * q - (num / den : Nat) * q = (num % den : Nat) / den * q := by
  have hd : (den : ℚ) ≠ 0 := mod_cast hden.ne'
  have hnum : (num : ℚ) = den * (num / den : Nat) + (num % den : Nat) := mod_cast (Nat.div_add_mod num den).symm
  rw [← sub_mul, div_sub' hd, hnum, add_sub_cancel_left]

section Steps

variable {num den : Nat} {q : ℚ} (hq : 0 < q)
include hq

theorem floor_steps : ⌊num / den * q / q⌋ = ((num / den : Nat) : Int) := by
  rw [mul_div_cancel_right₀ _ hq.ne', Rat.floor_natCast_div_natCast]
  rfl

variable (hden : 0 < den)
include hden

theorem steps_eq_floor_iff : num / den * q = (num / den : Nat) * q ↔ num % den = 0 := by
  rw [← sub_eq_zero, steps_sub_floor hden]
  simp [hq.ne', hden.ne']

theorem nearer_floor_iff :
    num / den * q - (num / den : Nat) * q < (num / den : Nat) * q + q - num / den * q ↔ 2 * (num % den) < den := by
  have hd : (0 : ℚ) < den := mod_cast hden
  rw [add_sub_right_comm, ← neg_sub (num / den * q), steps_sub_floor hden, lt_neg_add_iff_add_lt, ← two_mul, ← mul_assoc,
    mul_lt_iff_lt_one_left hq, ← mul_div_assoc, div_lt_one hd]
  norm_cast

theorem nearer_next_iff :
    (num / den : Nat) * q + q - num / den * q < num / den * q - (num / den : Nat) * q ↔ den < 2 * (num % den) := by
  have hd : (0 : ℚ) < den := mod_cast hden
  rw [add_sub_right_comm, ← neg_sub (num / den * q), steps_sub_floor hden, neg_add_lt_iff_lt_add, ← two_mul, ← mul_assoc,
    lt_mul_iff_one_lt_left hq, ← mul_div_assoc, one_lt_div hd]
  norm_cast

end Steps

/-- The tie of `.rn`: the even one of a number of steps and the next. -/
theorem even_steps (n : Nat) (q : ℚ) : ((n + n % 2 : Nat) : ℚ) * q = if (n : Int) % 2 = 0 then n * q else n * q + q := by
  obtain h | h := Nat.mod_two_eq_zero_or_one n
  · rw [h, if_pos (by omega), add_zero]
  · rw [h, if_neg (by omega), Nat.cast_succ, add_one_mul]

/-- The procedure's magnitude is `roundQuot` of the number of steps, times the step. -/
theorem chosen_eq_roundQuot (f : FForm) (m : Rnd) (neg : Bool) {a : ℚ} {num den : Nat} (hden : 0 < den)
    (ha : num / den * 2 ^ stepExp f a = a) : chosen f m neg a = roundQuot m neg num den * 2 ^ stepExp f a := by
  have hq := two_zpow_pos (stepExp f a)
  unfold chosen
  dsimp only
  rw [← stepExp]
  generalize (2 : ℚ) ^ stepExp f a = q at *
  subst ha
  simp only [floor_steps hq, Int.cast_natCast, steps_eq_floor_iff hq hden, nearer_floor_iff hq hden, nearer_next_iff hq hden]
  simp only [roundQuot]
  by_cases hr : num % den = 0
  · rw [if_pos hr, if_pos hr]
  rw [if_neg hr, if_neg hr]
  cases m with
  | rn => simp only [apply_ite (Nat.cast (R := ℚ)), ite_mul, even_steps, Nat.cast_succ, add_one_mul]
  | rz => rfl
  | rd | ru => simp only [apply_ite (Nat.cast (R := ℚ)), ite_mul, Nat.cast_succ, add_one_mul]

/-- A magnitude has fewer than 2 · 2^frac steps. -/
theorem lt_steps_of_binade (f : FForm) (a : ℚ) : a < 2 * 2 ^ f.frac * 2 ^ stepExp f a := by
  calc a < (2 : ℚ) ^ (Int.log 2 a + 1) := mod_cast Int.lt_zpow_succ_log_self one_lt_two a
    _ ≤ 2 ^ (1 + (f.frac : Int) + stepExp f a) := by
      refine zpow_le_zpow_right₀ one_le_two ?_
      unfold stepExp
      omega
    _ = 2 * 2 ^ f.frac * 2 ^ stepExp f a := by
      rw [zpow_add₀ two_ne_zero, zpow_add₀ two_ne_zero, zpow_one, zpow_natCast]

/-- A magnitude that is not subnormal has at least 2^frac steps. -/
theorem steps_le_of_normal {f : FForm} {a : ℚ} (ha : 0 < a) (hn : 1 - f.bias ≤ Int.log 2 a) :
    2 ^ f.frac * 2 ^ stepExp f a ≤ a := by
  calc (2 : ℚ) ^ f.frac * 2 ^ stepExp f a = 2 ^ Int.log 2 a := by
        rw [stepExp, max_eq_left hn, ← zpow_natCast, ← zpow_add₀ two_ne_zero, add_sub_cancel]
    _ ≤ a := mod_cast Int.zpow_log_le_self one_lt_two ha

/-- The magnitude that the procedure chooses has its place on the grid in the binade of the magnitude rounded. -/
theorem gridValue_eq_chosen (f : FForm) (m : Rnd) (neg : Bool) {a : ℚ} {num den : Nat} (hapos : 0 < a) (hden : 0 < den)
    (ha : num / den * 2 ^ stepExp f a = a) :
    gridValue f ((stepExp f a - (1 - f.bias - f.frac)).toNat * 2 ^ f.frac + roundQuot m neg num den) = chosen f m neg a := by
  have hstep := two_zpow_pos (stepExp f a)
  have hd : (0 : ℚ) < den := mod_cast hden
  have hlt : num < 2 * 2 ^ f.frac * den := by
    have h := lt_of_mul_lt_mul_right (ha.trans_lt (lt_steps_of_binade f a)) hstep.le
    exact_mod_cast (div_lt_iff₀ hd).mp h
  have hle : 1 - f.bias ≤ Int.log 2 a → 2 ^ f.frac * den ≤ num := fun hn => by
    have h := le_of_mul_le_mul_right ((steps_le_of_normal hapos hn).trans_eq ha.symm) hstep
    exact_mod_cast (le_div_iff₀ hd).mp h
  rw [chosen_eq_roundQuot f m neg hden ha, gridValue_binade]
  · congr 2
    unfold stepExp
    omega
  · exact (roundQuot_le_succ_div ..).trans ((Nat.div_lt_iff_lt_mul hden).mpr hlt)
  · obtain hsub | hn := lt_or_ge (Int.log 2 a) (1 - f.bias)
    · left
      unfold stepExp
      omega
    · exact .inr (((Nat.le_div_iff_mul_le hden).mpr (hle hn)).trans (div_le_roundQuot ..))

/-- The code that `roundMag` builds stands on the grid for the magnitude that the procedure chooses. -/
theorem gridValue_roundMag (f : FForm) (m : Rnd) (neg : Bool) {num den : Nat} (hnum : 0 < num) (hden : 0 < den) (e : Int) :
    gridValue f (roundMag f m neg num den e) = chosen f m neg (num / den * 2 ^ e : ℚ) := by
  have hfrac : (0 : ℚ) < num / den := by positivity
  have hstep : stepExp f (num / den * 2 ^ e) = max (floorLog2 num den + e) (1 - f.bias) - f.frac := by
    rw [stepExp, log_mul_two_zpow hfrac, log_fraction hnum hden]
  rw [← gridValue_eq_chosen f m neg (mul_pos hfrac (two_zpow_pos e)) (scaleRat_den_pos num hden (e - stepExp f (num / den * 2 ^ e)))
    (by rw [scaleRat_value, mul_assoc, ← zpow_add₀ two_ne_zero, sub_add_cancel]), hstep]
  rfl

/-- Settles O5: codes up to the largest finite one stand for their place on the grid, and the grid grows with the code, so the code
exceeds the largest finite one exactly when its magnitude does. -/
theorem roundingRule : Obligations.RoundingRule := by
  intro f sat m neg num den e hnum hden
  simp only [← gridValue_roundMag f m neg hnum hden e, magnitude_eq_gridValue le_rfl, gt_iff_lt, (gridValue_strictMono f).lt_iff_lt,
    roundRat, if_neg hnum.ne']
  split
  case isTrue hover => rfl
  case isFalse hfin => exact ⟨_, not_lt.mp hfin, rfl, magnitude_eq_gridValue (not_lt.mp hfin)⟩

end Sys2Proof.Proofs

/-! PROOFS. Chapter 08, the encoding: the round trip of decoder and encoder, for words and for parcels (O57), and words of the encoding
tables (O56). -/

namespace Sys2Proof.Proofs

open Sys2Proof.Laws

/-! ## Words (08 R171, R192) -/

theorem decodes_of_no_fields {i : Instr} (h : i.toFields = none) : Decodes.Statement i := fun _ f hf => by
  rw [h] at hf
  cases hf

/-- The long-word instructions by one lemma each; the machine's events have no fields. -/
theorem decodes (i : Instr) : Decodes.Statement i := by
  cases i with
  | shortParcel => apply Decodes.shortParcel | add => apply Decodes.add | addXi => apply Decodes.addXi | sub => apply Decodes.sub
  | subXi => apply Decodes.subXi | addc => apply Decodes.addc | subb => apply Decodes.subb | iadd3 => apply Decodes.iadd3
  | mulLo => apply Decodes.mulLo | mulLoXi => apply Decodes.mulLoXi | mulHi => apply Decodes.mulHi | mulWide => apply Decodes.mulWide
  | madLo => apply Decodes.madLo | madHi => apply Decodes.madHi | madWide => apply Decodes.madWide | div => apply Decodes.div
  | rem => apply Decodes.rem | min => apply Decodes.min | minXi => apply Decodes.minXi | max => apply Decodes.max | maxXi => apply Decodes.maxXi
  | abs => apply Decodes.abs | neg => apply Decodes.neg | saddSat => apply Decodes.saddSat | ssubSat => apply Decodes.ssubSat
  | and => apply Decodes.and | andXi => apply Decodes.andXi | or => apply Decodes.or | orXi => apply Decodes.orXi | xor => apply Decodes.xor
  | xorXi => apply Decodes.xorXi | not => apply Decodes.not | andn => apply Decodes.andn | shl => apply Decodes.shl | shr => apply Decodes.shr
  | sar => apply Decodes.sar | rol => apply Decodes.rol | ror => apply Decodes.ror | bfe => apply Decodes.bfe | bfi => apply Decodes.bfi
  | bfrev => apply Decodes.bfrev | popc => apply Decodes.popc | clz => apply Decodes.clz | ctz => apply Decodes.ctz | lea => apply Decodes.lea
  | mov => apply Decodes.mov | movi => apply Decodes.movi | sel => apply Decodes.sel | fadd => apply Decodes.fadd | faddXi => apply Decodes.faddXi
  | fsub => apply Decodes.fsub | fmul => apply Decodes.fmul | fmulXi => apply Decodes.fmulXi | ffma => apply Decodes.ffma
  | fmin => apply Decodes.fmin | fminXi => apply Decodes.fminXi | fmax => apply Decodes.fmax | fmaxXi => apply Decodes.fmaxXi
  | fminn => apply Decodes.fminn | fmaxn => apply Decodes.fmaxn | fabs => apply Decodes.fabs | fneg => apply Decodes.fneg
  | fsgn => apply Decodes.fsgn | fdiv => apply Decodes.fdiv | fsqrt => apply Decodes.fsqrt | frcp => apply Decodes.frcp
  | frsq => apply Decodes.frsq | fex2 => apply Decodes.fex2 | flg2 => apply Decodes.flg2 | fsin => apply Decodes.fsin | fcos => apply Decodes.fcos
  | ftanh => apply Decodes.ftanh | frnd => apply Decodes.frnd | ffrc => apply Decodes.ffrc | fscale => apply Decodes.fscale
  | fdot2 => apply Decodes.fdot2 | cvt => apply Decodes.cvt | cvtPack => apply Decodes.cvtPack | qpack => apply Decodes.qpack
  | qunpack => apply Decodes.qunpack | bsel => apply Decodes.bsel | pack => apply Decodes.pack | unpack => apply Decodes.unpack
  | setp => apply Decodes.setp | fsetp => apply Decodes.fsetp | fclass => apply Decodes.fclass | pand => apply Decodes.pand
  | por => apply Decodes.por | pxor => apply Decodes.pxor | pnot => apply Decodes.pnot | pmov => apply Decodes.pmov
  | pmovGet => apply Decodes.pmovGet | pmovPut => apply Decodes.pmovPut | bra => apply Decodes.bra | braInd => apply Decodes.braInd
  | call => apply Decodes.call | callInd => apply Decodes.callInd | ret => apply Decodes.ret | exit => apply Decodes.exit
  | yield => apply Decodes.yield | nop => apply Decodes.nop | ldG => apply Decodes.ldG | stG => apply Decodes.stG | ldS => apply Decodes.ldS
  | stS => apply Decodes.stS | ldRo => apply Decodes.ldRo | pfRo => apply Decodes.pfRo | atomG => apply Decodes.atomG
  | atomS => apply Decodes.atomS | redG => apply Decodes.redG | mcst => apply Decodes.mcst | fence => apply Decodes.fence
  | ldAcq => apply Decodes.ldAcq | stRel => apply Decodes.stRel | mig => apply Decodes.mig | detach => apply Decodes.detach
  | spawn => apply Decodes.spawn | spawnAt => apply Decodes.spawnAt | launch => apply Decodes.launch | shfl => apply Decodes.shfl
  | lpred => apply Decodes.lpred | redux => apply Decodes.redux | scan => apply Decodes.scan | segscan => apply Decodes.segscan
  | segred => apply Decodes.segred | peers => apply Decodes.peers | lcompress => apply Decodes.lcompress | lexpand => apply Decodes.lexpand
  | gwait => apply Decodes.gwait | mma => apply Decodes.mma | mmaSp => apply Decodes.mmaSp | sprune => apply Decodes.sprune
  | mdist => apply Decodes.mdist | mtopk => apply Decodes.mtopk | acz => apply Decodes.acz | acld => apply Decodes.acld
  | acst => apply Decodes.acst | accp => apply Decodes.accp | acsc => apply Decodes.acsc | tcopy => apply Decodes.tcopy
  | gather => apply Decodes.gather | crdOpen => apply Decodes.crdOpen | crdSplit => apply Decodes.crdSplit | crdNext => apply Decodes.crdNext
  | crdSave => apply Decodes.crdSave | crdLoad => apply Decodes.crdLoad | crdClose => apply Decodes.crdClose | spill => apply Decodes.spill
  | fill => apply Decodes.fill | rclaim => apply Decodes.rclaim | rgive => apply Decodes.rgive | barTeam => apply Decodes.barTeam
  | barRole => apply Decodes.barRole | barTree => apply Decodes.barTree | arrive => apply Decodes.arrive | waitCtr => apply Decodes.waitCtr
  | trap => apply Decodes.trap | brk => apply Decodes.brk | srd => apply Decodes.srd | swr => apply Decodes.swr | halt => apply Decodes.halt
  | tlbinvAll => apply Decodes.tlbinvAll | tlbinvPage => apply Decodes.tlbinvPage | roinvAll => apply Decodes.roinvAll
  | roinvPage => apply Decodes.roinvPage
  | _ => exact decodes_of_no_fields rfl

/-- Where every slot of a built instruction passed step 5, the fields that are compared with the word's are its own. -/
theorem fields_of_ok {r : Built} (hr : r.ok = true) (f : Fields) : r.fields f = r.i.toFields := by
  simp only [Built.ok, Bool.and_eq_true] at hr
  obtain ⟨⟨⟨hd, ha⟩, hb⟩, hc⟩ := hr
  simp only [Built.fields, hd, ha, hb, hc, if_true, Option.map_id']

/-- What `decodeWord` accepts: the word of the fields of a well-formed instruction that those fields build. -/
theorem decodeWord_eq_ok {w : BitVec 96} {i : Instr} : decodeWord w = .ok i ↔
    w.getLsbD 95 = false ∧ ∃ fmt r, formatOf (opcodeOf w) = some fmt ∧ build (Fields.unpack fmt w) = some r ∧
      (Fields.unpack fmt w).pack fmt = w ∧ i.toFields = some (Fields.unpack fmt w) ∧ r.ok = true ∧ WellFormed i = true ∧ r.i = i := by
  constructor
  · intro h
    unfold decodeWord at h
    split at h
    case isTrue => cases h
    case isFalse h95 =>
      split at h
      case h_1 => cases h
      case h_2 fmt hfmt =>
        dsimp only at h
        split at h
        case h_1 => cases h
        case h_2 r hb =>
          split at h
          case isTrue => cases h
          case isFalse h4 =>
            split at h
            case isTrue => cases h
            case isFalse h5 =>
              simp only [Bool.or_eq_true, bne_iff_ne, Bool.not_eq_true', not_or, ne_eq, not_not, Bool.not_eq_false] at h4 h5
              obtain ⟨⟨hp, hf⟩, hw4⟩ := h4
              obtain ⟨hok, hw5⟩ := h5
              rw [fields_of_ok hok] at hf
              cases h
              exact ⟨by simpa using h95, fmt, r, hfmt, hb, hp, hf, hok, by simp only [WellFormed, hw4, hw5, Bool.and_self], rfl⟩
  · rintro ⟨h95, fmt, r, hfmt, hb, hp, hf, hok, hw, rfl⟩
    obtain ⟨hw4, hw5⟩ := band hw
    have hf : r.fields (Fields.unpack fmt w) = _ := (fields_of_ok hok _).trans hf
    simp only [decodeWord, h95, hfmt, hb, hp, hf, hok, hw4, hw5]
    simp

/-- A word that decodes is the word of the instruction that it decodes to. -/
theorem encodeWord_of_decodeWord {w : BitVec 96} {i : Instr} (h : decodeWord w = .ok i) : WellFormed i = true ∧ encodeWord i = some w := by
  obtain ⟨-, fmt, r, hfmt, -, hp, hf, -, hw, -⟩ := decodeWord_eq_ok.mp h
  refine ⟨hw, ?_⟩
  simp only [encodeWord, hf, op_unpack, hfmt, Option.map_some, hp]

/-- The word of a well-formed instruction decodes to it. -/
theorem decodeWord_of_encodeWord {i : Instr} {w : BitVec 96} (hw : WellFormed i = true) (h : encodeWord i = some w) :
    decodeWord w = .ok i := by
  unfold encodeWord at h
  split at h
  case h_1 => cases h
  case h_2 f hf =>
    obtain ⟨fmt, r, hfmt, hfit, hb, hi, hok⟩ := decodes i hw f hf
    rw [hfmt, Option.map_some, Option.some.injEq] at h
    have hu : Fields.unpack fmt w = f := h ▸ unpack_pack fmt f hfit
    have hop : opcodeOf w = f.op := by rw [← op_unpack fmt, hu]
    exact decodeWord_eq_ok.mpr ⟨h ▸ pack_bit95 fmt f, fmt, r, hop ▸ hfmt, hu ▸ hb, hu.symm ▸ h, hu.symm ▸ hf, hok, hw, hi⟩

/-! ## Parcels (08 R170 to R172) -/

/-- Bit 15 of a long word is reserved, so that its first parcel is none of the short ones. -/
theorem pack_bit15 (fmt : Fmt) (f : Fields) : (f.pack fmt).getLsbD 15 = false := by
  cases fmt <;> simp only [Fields.pack, BitVec.getLsbD_append] <;> rfl

theorem encodeWord_bit15 {i : Instr} {w : BitVec 96} (h : encodeWord i = some w) : w.getLsbD 15 = false := by
  unfold encodeWord at h
  split at h
  · cases h
  · obtain ⟨fmt, -, rfl⟩ := Option.map_eq_some_iff.mp h
    exact pack_bit15 fmt _

/-- The parcels of an instruction that has a long word are those of the word. -/
theorem encode_of_encodeWord {i : Instr} {w : BitVec 96} (h : encodeWord i = some w) : encode i = some (wordParcels w) := by
  unfold encode
  split
  · cases h
  · rw [h, Option.map_some]

theorem longWord_wordParcels (w : BitVec 96) :
    longWord (w.extractLsb' 0 16) (w.extractLsb' 16 16) (w.extractLsb' 32 16) (w.extractLsb' 48 16) (w.extractLsb' 64 16)
      (w.extractLsb' 80 16) = w := by
  unfold longWord
  simp (disch := decide) only [BitVec.extractLsb'_append_extractLsb'_eq_extractLsb', extract_all]

theorem wordParcels_longWord (p0 p1 p2 p3 p4 p5 : BitVec 16) : wordParcels (longWord p0 p1 p2 p3 p4 p5) = [p0, p1, p2, p3, p4, p5] := by
  simp (disch := decide) only [wordParcels, longWord, extract_hi, extract_lo, extract_all, Nat.reduceSub]

theorem shortParcel_bit15 (n : BitVec 10) : (1#1 ++ 0#5 ++ n).getLsbD 15 = true := by
  simp only [BitVec.getLsbD_append]
  rfl

theorem decodeShort_shortParcel (n : BitVec 10) : decodeShort (1#1 ++ 0#5 ++ n) = .ok (.shortParcel n) := by
  simp (disch := decide) only [decodeShort, extract_hi, extract_lo, extract_all]
  rfl

theorem ok_of_map {ε α β : Type} {x : Except ε α} {f : α → β} {b : β} (h : x.map f = .ok b) : ∃ a, x = .ok a ∧ f a = b := by
  cases x with
  | error => cases h
  | ok a => exact ⟨a, rfl, Except.ok.inj h⟩

/-- A short parcel that decodes is that of its index: bit 15 set, bits 14 to 10 clear. -/
theorem shortParcel_of_decodeShort {p : BitVec 16} {i : Instr} (h15 : p.getLsbD 15 = true) (h : decodeShort p = .ok i) :
    ∃ n, i = .shortParcel n ∧ p = 1#1 ++ 0#5 ++ n := by
  unfold decodeShort at h
  split at h
  case isFalse => cases h
  case isTrue h0 =>
    cases h
    refine ⟨_, rfl, ?_⟩
    have h1 : p.extractLsb' 15 1 = 1#1 := by
      apply BitVec.eq_of_getLsbD_eq
      intro i hi
      obtain rfl : i = 0 := by omega
      simpa using h15
    rw [← h1, ← beq_iff_eq.mp h0]
    simp (disch := decide) only [BitVec.extractLsb'_append_extractLsb'_eq_extractLsb', extract_all]

/-- The parcels of an instruction decode to it, whatever follows them. -/
theorem decodeParcels_of_encode {i : Instr} {ps : List (BitVec 16)} (rest : List (BitVec 16)) (hw : WellFormed i = true)
    (h : encode i = some ps) : decodeParcels (ps ++ rest) = .ok (i, ps.length) := by
  unfold encode at h
  split at h
  case h_1 n =>
    cases h
    simp only [List.cons_append, decodeParcels, shortParcel_bit15, if_true, decodeShort_shortParcel]
    rfl
  case h_2 =>
    obtain ⟨w, he, rfl⟩ := Option.map_eq_some_iff.mp h
    have h15 : (w.extractLsb' 0 16).getLsbD 15 = false := by simpa using encodeWord_bit15 he
    simp only [wordParcels, List.cons_append, decodeParcels, h15, longWord_wordParcels, decodeWord_of_encodeWord hw he]
    rfl

/-- Parcels that decode are those of the well-formed instruction that they decode to, one for a short parcel and six otherwise. -/
theorem encode_of_decodeParcels {ps : List (BitVec 16)} {i : Instr} {n : Nat} (h : decodeParcels ps = .ok (i, n)) :
    WellFormed i = true ∧ n ≤ ps.length ∧ ((∀ k, i ≠ .shortParcel k) → n = 6) ∧ encode i = some (ps.take n) := by
  unfold decodeParcels at h
  split at h
  case h_1 => cases h
  case h_2 p0 rest =>
    split at h
    case isTrue h15 =>
      obtain ⟨j, hj, he⟩ := ok_of_map h
      obtain ⟨k, rfl, rfl⟩ := shortParcel_of_decodeShort h15 hj
      cases he
      exact ⟨rfl, by simp, fun hlong => absurd rfl (hlong k), rfl⟩
    case isFalse =>
      split at h
      case h_1 p1 p2 p3 p4 p5 more =>
        obtain ⟨j, hj, he⟩ := ok_of_map h
        cases he
        obtain ⟨hw, he⟩ := encodeWord_of_decodeWord hj
        exact ⟨hw, by simp, fun _ => rfl, by rw [encode_of_encodeWord he, wordParcels_longWord]; rfl⟩
      case h_2 => cases h

/-- The round trip of 08 R171 to R187 and R192 in both directions, of words and of parcels: an instruction other than a short parcel takes
six parcels. -/
theorem decode_encode_roundTrip :
    (∀ i w, WellFormed i = true → encodeWord i = some w → decodeWord w = .ok i) ∧
    (∀ i ps rest, WellFormed i = true → encode i = some ps → decodeParcels (ps ++ rest) = .ok (i, ps.length)) ∧
    (∀ w i, decodeWord w = .ok i → WellFormed i = true ∧ encodeWord i = some w) ∧
    ∀ ps i n, decodeParcels ps = .ok (i, n) →
      WellFormed i = true ∧ n ≤ ps.length ∧ ((∀ k, i ≠ .shortParcel k) → n = 6) ∧ encode i = some (ps.take n) :=
  ⟨fun _ _ => decodeWord_of_encodeWord, fun _ _ rest => decodeParcels_of_encode rest, fun _ _ => encodeWord_of_decodeWord,
    fun _ _ _ => encode_of_decodeParcels⟩

/-- Refutes O57: its clause `∀ k, i ≠ .shortParcel k → n = 6` asks six parcels of every instruction that differs from the short parcel of
some index `k`, and the short parcel of index 0, which takes one, differs from that of index 1. With the quantifier inside the hypothesis
the statement is `decode_encode_roundTrip`. -/
theorem not_decodeEncode : ¬ Obligations.DecodeEncode := by
  rintro ⟨-, -, -, hparcels⟩
  obtain ⟨-, -, hsix, -⟩ := hparcels [0x8000] (.shortParcel 0) 1 rfl
  exact absurd (hsix 1 (by decide)) (by decide)

/-! ## Words of the encoding tables (08 R174 to R186) -/

/-- Settles O56: each word is decoded by evaluation, and refused at the first of the steps of 08 R192 that it fails. -/
theorem decodeWords : Obligations.DecodeWords :=
  ⟨rfl, rfl, rfl, rfl, rfl, rfl, rfl, rfl, rfl, rfl, rfl, rfl, rfl, rfl, rfl⟩

end Sys2Proof.Proofs

/-! PROOFS. Chapter 08, guards and uniform registers: what an issue whose active lanes write leaves of each of its lanes (O15) and of the
uniform registers of its group (O16). First the words that one lane writes, then the lanes of an issue. -/

namespace Sys2Proof.Proofs

open Sys2Proof.Machine Sys2Proof.Safety Sys2Proof.Claims Sys2Proof.Laws

/-! ## Words written one after another -/

/-- Where all writes to a reference in a list are of one value and there is one, what the write brings about stands after the list, if writes
to other references keep it. -/
theorem foldl_writesOnly {σ β : Type} {f : σ → WRef × Word → σ} {I : σ → Prop} {R : σ → β} {b : β} {ws : List (WRef × Word)}
    {r : WRef} {w : Word} (hw : WritesOnly ws r w) (keep : ∀ u e, I u → I (f u e)) (hit : ∀ u, I u → R (f u (r, w)) = b)
    (other : ∀ u e, I u → e.1 ≠ r → R (f u e) = R u) {s : σ} (hs : I s) : R (ws.foldl f s) = b := by
  obtain ⟨hmem, honly⟩ := hw
  obtain ⟨pre, post, rfl⟩ := List.append_of_mem hmem
  have hpre : I (pre.foldl f s) := List.foldlRecOn pre f hs fun u hu e _ => keep u e hu
  have hpost := List.foldlRecOn (motive := fun u => I u ∧ R u = b) post f ⟨keep _ (r, w) hpre, hit _ hpre⟩ fun u hu e he => by
    refine ⟨keep u e hu.1, ?_⟩
    by_cases her : e.1 = r
    · obtain ⟨q, v⟩ := e
      obtain rfl : q = r := her
      obtain rfl : v = w := honly v (by simp [he])
      exact hit u hu.1
    · exact (other u e hu.1 her).trans hu.2
  rw [List.foldl_append, List.foldl_cons]
  exact hpost.2

theorem reg_foldl_putWord {ws : List (WRef × Word)} {n : Nat} {w : Word} (hw : WritesOnly ws (.g n) w) (t : Thread) :
    (ws.foldl putWord t).reg n = RegWord.ofVal w := by
  refine foldl_writesOnly (I := fun _ => True) (R := fun t : Thread => t.reg n) hw (fun _ _ _ => trivial) (fun u _ => reg_setReg _ _ _)
    (fun u e _ he => ?_) trivial
  obtain ⟨r, v⟩ := e
  cases r with
  | g m => exact reg_setReg_other _ _ fun hm => he (hm ▸ rfl)
  | s m => rfl
  | p m => exact setPred_reg _ _ _ _

theorem pred_foldl_putWord {ws : List (WRef × Word)} {n : Nat} {w : Word} (hw : WritesOnly ws (.p n) w) (h0 : 0 < n) (h16 : n < 16)
    (t : Thread) : (ws.foldl putWord t).pred n = w.getLsbD 0 ∧ (ws.foldl putWord t).predEmpty n = false := by
  have h := foldl_writesOnly (f := putWord) (I := fun _ => True) (R := fun t : Thread => (t.pred n, t.predEmpty n)) (b := (w.getLsbD 0, false))
    hw (fun _ _ _ => trivial) (fun u _ => Prod.ext_iff.mpr (pred_setPred u n _ h0 h16)) (fun u e _ he => ?_) (s := t) trivial
  · exact Prod.ext_iff.mp h
  · obtain ⟨r, v⟩ := e
    cases r with
    | g m => rfl
    | s m => rfl
    | p m => exact Prod.ext_iff.mpr (pred_setPred_other u _ (fun hm => he (hm ▸ rfl)) h16)

theorem group_releaseA (s : State) (c n : Nat) (g : Option (Nat × Nat)) (d k : Nat) : (s.releaseA c n g).group d k = s.group d k := by
  cases g with
  | none => rfl
  | some g =>
    unfold State.group
    by_cases hd : d = c
    · rw [hd, State.releaseA, core_modCore]
    · rw [State.releaseA, core_modCore_other _ _ hd]

/-- A live thread writes a uniform register of its group, and its writes of other references leave that register alone. -/
theorem sreg_writeWords {s : State} {c x g k n : Nat} {ws : List (WRef × Word)} {w : Word} (hw : WritesOnly ws (.s n) w)
    (hlive : (s.thread c x).st ≠ .none) (hg : (s.thread c x).group = some (g, k)) :
    ((writeWords c x ws s).group c g).sreg n = RegWord.ofVal w := by
  refine foldl_writesOnly (I := fun u : State => (u.thread c x).st ≠ .none ∧ (u.thread c x).group = some (g, k))
    (R := fun u : State => (u.group c g).sreg n) hw (fun u e hu => ?_) (fun u hu => ?_) (fun u e hu he => ?_) ⟨hlive, hg⟩
  · obtain ⟨hgroup, -, hst⟩ := setWord_keeps u c x c x e.1 (RegWord.ofVal e.2)
    exact ⟨fun h => hu.1 (hst ▸ h), hgroup.trans hu.2⟩
  · rw [State.writeWord, setWord_s _ _ _ _ _ _ _ hu.1 hu.2, group_modGroup]
    exact tbl_get_set _ _ _ _
  · obtain ⟨r, v⟩ := e
    cases r with
    | g m => rw [State.writeWord, setWord_g _ _ _ _ _ hu.1, group_releaseA, (onlyThreads_modThread _ _ _ _).group]
    | s m =>
      rw [State.writeWord, setWord_s _ _ _ _ _ _ _ hu.1 hu.2, group_modGroup]
      exact tbl_get_set_other _ _ _ fun hm => he (hm ▸ rfl)
    | p m => rw [State.writeWord, setWord_p _ _ _ _ _ hu.1, (onlyThreads_modThread _ _ _ _).group]

/-! ## The lanes of an issue -/

theorem ctx_lanesOf (s : State) (iss : Issue) (rest : List Issue) (h : Hdr) : (lanesOf s iss rest h).map Lane.ctx = iss.lanes := by
  rw [lanesOf, List.map_map]
  exact List.map_id _

/-- A lane of an issue stands at the issue's core, with its thread as it was. -/
theorem lane_of_lanesOf {s : State} {iss : Issue} {rest : List Issue} {h : Hdr} {l : Lane} (hl : l ∈ lanesOf s iss rest h) :
    l.core = iss.core ∧ l.t = (left s rest).thread iss.core l.ctx := by
  obtain ⟨x, -, rfl⟩ := List.mem_map.mp hl
  exact ⟨rfl, rfl⟩

/-- Lanes in rising lane order stand in contexts of their own. -/
theorem lanes_nodup {s : State} {iss : Issue} {rest : List Issue} {h : Hdr}
    (ho : (lanesOf s iss rest h).Pairwise fun a b => a.lane < b.lane) : iss.lanes.Nodup :=
  (List.pairwise_map.mp ho).imp fun hlt hx => absurd hlt (by rw [hx]; exact lt_irrefl _)

theorem mem_activeLanes {h : Hdr} {ls : List Lane} {l : Lane} :
    l ∈ activeLanes h ls ↔ l ∈ ls ∧ guardEmpty h l.t = false ∧ guardVal h l.t = true := by
  simp [activeLanes]

theorem activeLanes_nodup {h : Hdr} {ls : List Lane} (hnd : (ls.map Lane.ctx).Nodup) : ((activeLanes h ls).map Lane.ctx).Nodup :=
  hnd.sublist (List.filter_sublist.map _)

theorem passLane_active {h : Hdr} {l : Lane} (he : guardEmpty h l.t = false) (hv : guardVal h l.t = true) (s : State) :
    State.passLane h s l = s := by
  simp [State.passLane, he, hv]

theorem passLane_idle {h : Hdr} {l : Lane} (he : guardEmpty h l.t = false) (hv : guardVal h l.t = false) (s : State) :
    State.passLane h s l = s.goesOn l.core l.ctx l.nextPc l.yields := by
  simp [State.passLane, he, hv]

/-- A lane that is not active passes, and leaves an active one where it stands. -/
theorem thread_passAll_other (h : Hdr) {ls : List Lane} (s : State) {c x : Nat} (hx : ∀ l ∈ ls, l.ctx = x → l ∈ activeLanes h ls) :
    (ls.foldl (State.passLane h) s).thread c x = s.thread c x := by
  refine List.foldlRecOn (motive := fun (u : State) => u.thread c x = s.thread c x) ls _ rfl fun u hu l hl => ?_
  by_cases hlx : l.ctx = x
  · obtain ⟨-, he, hv⟩ := mem_activeLanes.mp (hx l hl hlx)
    rwa [passLane_active he hv]
  · rw [thread_passLane_other h u l (.inr (Ne.symm hlx)), hu]

/-- A unit executes: its lanes that are not active pass, its active ones write and go on. -/
def unitWritten (h : Hdr) (ws : Lane → List (WRef × Word)) (pc : Lane → Option Word) (s : State) (ls : List Lane) : State :=
  (activeLanes h ls).foldl (fun s l => s.complete l (ws l) (pc l)) (ls.foldl (State.passLane h) s)

/-- The thread of a lane whose guard is not EMPTY after its issue has completed, ready with some stamp: with what it wrote where it was active,
as it was otherwise. -/
def laneAfter (h : Hdr) (ws : Lane → List (WRef × Word)) (pc : Lane → Option Word) (l : Lane) (n : Nat) : Thread :=
  { (if guardVal h l.t then ((ws l).foldl putWord l.t).moveTo ((pc l).getD l.nextPc) else l.t.moveTo l.nextPc) with st := .ready, stamp := n }

/-- A state holds a lane's thread as it stands after its issue. -/
def LaneDone (h : Hdr) (ws : Lane → List (WRef × Word)) (pc : Lane → Option Word) (l : Lane) (u : State) : Prop :=
  ∃ n, u.thread l.core l.ctx = laneAfter h ws pc l n

theorem thread_unitWritten_other (h : Hdr) (ws : Lane → List (WRef × Word)) (pc : Lane → Option Word) (s : State) {ls : List Lane} {c x : Nat}
    (hx : ∀ l ∈ ls, l.ctx ≠ x) : (unitWritten h ws pc s ls).thread c x = s.thread c x := by
  unfold unitWritten
  refine List.foldlRecOn (motive := fun (u : State) => u.thread c x = s.thread c x) _ _ ?_ fun u hu l hl => ?_
  · exact thread_passAll_other h s fun l hl hlx => absurd hlx (hx l hl)
  · rw [thread_complete_other u l _ _ (.inr (hx l (mem_activeLanes.mp hl).1).symm), hu]

/-- A live lane that completes has its words, and stands ready at its next PC or its target. -/
theorem thread_complete {s : State} {l : Lane} (ws : List (WRef × Word)) (pc : Option Word) (hlive : (s.thread l.core l.ctx).st ≠ .none) :
    ∃ n : Nat, (s.complete l ws pc).thread l.core l.ctx =
      { (ws.foldl putWord (s.thread l.core l.ctx)).moveTo (pc.getD l.nextPc) with st := .ready, stamp := n } := by
  rw [← thread_writeWords ws hlive]
  exact ⟨_, thread_goesOn _ _ _ _ _⟩

/-- What a unit leaves of a lane whose guard is not EMPTY: the other lanes stand in other contexts. -/
theorem thread_unitWritten {h : Hdr} (ws : Lane → List (WRef × Word)) (pc : Lane → Option Word) {s : State} {ls : List Lane} {l : Lane}
    (hl : l ∈ ls) (hnd : (ls.map Lane.ctx).Nodup) (ht : s.thread l.core l.ctx = l.t) (hlive : l.t.st ≠ .none)
    (hg : guardEmpty h l.t = false) : LaneDone h ws pc l (unitWritten h ws pc s ls) := by
  have hown : ∀ k ∈ ls, k.ctx = l.ctx → k = l := fun k hk => List.inj_on_of_nodup_map hnd hk hl
  unfold unitWritten
  cases hv : guardVal h l.t with
  | true =>
    have hact : l ∈ activeLanes h ls := mem_activeLanes.mpr ⟨hl, hg, hv⟩
    refine foldl_reaches_keyed Lane.ctx (P := fun (u : State) => u.thread l.core l.ctx = l.t) (Q := LaneDone h ws pc l) hact
      (activeLanes_nodup hnd) (fun u k hk hu => ?_) (fun u hu => ?_) (fun u k hk hu => ?_) ?_
    · rw [thread_complete_other u k _ _ (.inr hk.symm), hu]
    · obtain ⟨n, hn⟩ := thread_complete (s := u) (l := l) (ws l) (pc l) (hu ▸ hlive)
      exact ⟨n, by rw [hn, hu, laneAfter, if_pos hv]⟩
    · rwa [LaneDone, thread_complete_other u k _ _ (.inr hk.symm)]
    · rw [thread_passAll_other h s fun k hk hkl => hown k hk hkl ▸ hact, ht]
  | false =>
    have hidle : ∀ k ∈ activeLanes h ls, k.ctx ≠ l.ctx := fun k hk hkl => by
      obtain ⟨hk, -, hkv⟩ := mem_activeLanes.mp hk
      rw [hown k hk hkl, hv] at hkv
      cases hkv
    refine List.foldlRecOn (motive := LaneDone h ws pc l) _ _ ?_ fun u hu k hk => ?_
    · refine foldl_reaches_keyed Lane.ctx (P := fun (u : State) => u.thread l.core l.ctx = l.t) (Q := LaneDone h ws pc l) hl hnd
        (fun u k hk hu => ?_) (fun u hu => ?_) (fun u k hk hu => ?_) ht
      · rw [thread_passLane_other h u k (.inr hk.symm), hu]
      · refine ⟨u.stampAt l.core l.ctx (l.yields || (u.thread l.core l.ctx).yld), ?_⟩
        rw [passLane_idle hg hv, thread_goesOn, hu, laneAfter, hv]
        rfl
      · rwa [LaneDone, thread_passLane_other h u k (.inr hk.symm)]
    · rwa [LaneDone, thread_complete_other u k _ _ (.inr (hidle k hk).symm)]

/-- What a completed issue leaves of a lane whose guard is not EMPTY. -/
theorem thread_written {s : State} {iss : Issue} {rest : List Issue} {h : Hdr} (ws : Lane → List (WRef × Word)) (pc : Lane → Option Word)
    {l : Lane} (ht : Together (lanesOf s iss rest h)) (hnd : iss.lanes.Nodup) (hl : l ∈ lanesOf s iss rest h) (hlive : l.t.st ≠ .none)
    (hg : guardEmpty h l.t = false) : LaneDone h ws pc l (written s iss rest h ws pc) := by
  obtain ⟨hcore, hthread⟩ := lane_of_lanesOf hl
  rw [← ctx_lanesOf s iss rest h] at hnd
  rw [← hcore] at hthread
  unfold written
  rcases ht with ⟨⟨g, hgroup⟩, ho⟩ | ⟨hfree, -⟩
  · rw [unitsOf_group _ g (List.ne_nil_of_mem hl) hgroup ho]
    exact thread_unitWritten ws pc hl hnd hthread.symm hlive hg
  · rw [unitsOf_free _ hfree]
    change LaneDone h ws pc l (((lanesOf s iss rest h).map fun l => [l]).foldl (unitWritten h ws pc) (left s rest))
    rw [List.foldl_map]
    refine foldl_reaches_keyed Lane.ctx (P := fun (u : State) => u.thread l.core l.ctx = l.t) (Q := LaneDone h ws pc l) hl hnd
      (fun u k hk hu => ?_) (fun u hu => ?_) (fun u k hk hu => ?_) hthread.symm
    · rw [thread_unitWritten_other h ws pc u (by simpa using hk), hu]
    · exact thread_unitWritten ws pc (by simp) (by simp) hu hlive hg
    · rwa [LaneDone, thread_unitWritten_other h ws pc u (by simpa using hk)]

/-- Settles O15: each lane's thread is changed by its own lane alone. -/
theorem completedLanes : Obligations.CompletedLanes := by
  intro s iss rest h ws pc ht hnd hlive
  refine ⟨fun l hact => ?_, fun l hl he hv => ?_⟩
  · obtain ⟨hl, he, hv⟩ := mem_activeLanes.mp hact
    obtain ⟨n, hn⟩ := thread_written ws pc ht hnd hl (hlive l hl) he
    rw [(lane_of_lanesOf hl).1, laneAfter, if_pos hv] at hn
    rw [hn]
    exact ⟨rfl, rfl, fun _ _ hw => reg_foldl_putWord hw l.t, fun _ _ h0 h16 hw => pred_foldl_putWord hw h0 h16 l.t⟩
  · obtain ⟨n, hn⟩ := thread_written ws pc ht hnd hl (hlive l hl) he
    rw [(lane_of_lanesOf hl).1, laneAfter, hv] at hn
    rw [hn]
    exact ⟨rfl, rfl, rfl, rfl, rfl⟩

/-! ## Uniform registers (08 R187) -/

/-- The uniform registers that the last active lane of a unit writes hold its words: its thread is as it was when its turn comes. -/
theorem sreg_unitWritten {h : Hdr} {ws : Lane → List (WRef × Word)} (pc : Lane → Option Word) {s : State} {ls : List Lane} {l : Lane}
    {g k n : Nat} {w : Word} (hlast : (activeLanes h ls).getLast? = some l) (hnd : (ls.map Lane.ctx).Nodup)
    (ht : s.thread l.core l.ctx = l.t) (hlive : l.t.st ≠ .none) (hg : l.t.group = some (g, k)) (hw : WritesOnly (ws l) (.s n) w) :
    ((unitWritten h ws pc s ls).group l.core g).sreg n = RegWord.ofVal w := by
  obtain ⟨pre, hpre⟩ := List.getLast?_eq_some_iff.mp hlast
  have hact : l ∈ activeLanes h ls := hpre ▸ by simp
  have hpass : (ls.foldl (State.passLane h) s).thread l.core l.ctx = l.t := by
    rw [thread_passAll_other h s fun j hj hjl => List.inj_on_of_nodup_map hnd hj (mem_activeLanes.mp hact).1 hjl ▸ hact, ht]
  have hother : ∀ j ∈ pre, j.ctx ≠ l.ctx := by
    have hact := activeLanes_nodup (h := h) hnd
    rw [hpre, List.map_append, List.nodup_append] at hact
    exact fun j hj => hact.2.2 _ (List.mem_map_of_mem hj) _ (by simp)
  have hthread : (pre.foldl (fun s l => s.complete l (ws l) (pc l)) (ls.foldl (State.passLane h) s)).thread l.core l.ctx = l.t :=
    List.foldlRecOn (motive := fun (u : State) => u.thread l.core l.ctx = l.t) pre _ hpass fun u hu j hj => by
      rw [thread_complete_other u j _ _ (.inr (hother j hj).symm), hu]
  rw [unitWritten, hpre, List.foldl_append, List.foldl_cons, List.foldl_nil, State.complete, (onlyThreads_goesOn _ _ _ _ _).group]
  exact sreg_writeWords hw (hthread ▸ hlive) (hthread ▸ hg)

/-- Settles O16: the lanes of a group complete in lane order, so that the writes of the highest active one come last; lanes that pass write
nothing. -/
theorem uniformWrites : Obligations.UniformWrites := by
  intro s iss rest h ws pc g hall ho
  have hunits : written s iss rest h ws pc = unitWritten h ws pc (left s rest) (lanesOf s iss rest h) := by
    unfold written
    by_cases hne : lanesOf s iss rest h = []
    · rw [hne]; rfl
    · rw [unitsOf_group _ g hne (fun l hl => (hall l hl).1) ho]; rfl
  dsimp only
  rw [hunits]
  refine ⟨fun l n w hlast hw => ?_, fun hnone n => ?_, fun x => ⟨rfl, rfl⟩⟩
  · have hl : l ∈ lanesOf s iss rest h := (mem_activeLanes.mp (List.mem_of_getLast? hlast)).1
    obtain ⟨hcore, hthread⟩ := lane_of_lanesOf hl
    obtain ⟨hgroup, hlive⟩ := hall l hl
    obtain ⟨⟨_, k⟩, hk, rfl⟩ := Option.map_eq_some_iff.mp hgroup
    rw [← hcore] at hthread ⊢
    exact sreg_unitWritten pc hlast (by rw [ctx_lanesOf]; exact lanes_nodup ho) hthread.symm hlive hk hw
  · rw [unitWritten, show activeLanes h (lanesOf s iss rest h) = [] from hnone, List.foldl_nil, (onlyThreads_passAll h _ _).group]
    rfl

end Sys2Proof.Proofs

/-! PROOFS. Chapter 08, privileged execution: `srd`, `swr`, `halt` and the invalidates (O37), and the registers of the user view (12 R298). -/

namespace Sys2Proof.Proofs

open Sys2Proof.Machine Sys2Proof.Safety Sys2Proof.Claims Sys2Proof.Laws

/-! ## `srd`, `swr` and `halt` (12 R298 to R300) -/

section
variable {s : State} {iss : Issue} {rest : List Issue} {h : Hdr}

theorem srd_acts {wide : Bool} {d : Reg} {num : Word} (hi : AtIssue s (.srd h wide d num) h iss rest) (ho : OneUnit (lanesOf s iss rest h))
    {x : Lane → DWord} (hx : ∀ l ∈ active s iss rest h, (passed s iss rest h).sysValue l wide num.toNat = some (x l) ∧
      Writable (passed s iss rest h) l (Reg.refs d)) :
    exec (.srd h wide d num) s = .next (acted s iss rest h fun l w => w.complete l (destWrites d (x l)) none) :=
  congrArg _ <| runWhole_acts hi ho _ fun l hl => by
    obtain ⟨hval, hw⟩ := hx l hl
    simp only [hval, compute_ok _ l [] (Reg.refs d) _ (fun _ => nofun) hw]
    exact ⟨rfl, rfl, fun _ => rfl⟩

theorem swr_acts {wide : Bool} {num : Word} {a : Src} (hi : AtIssue s (.swr h wide num a) h iss rest) (ho : OneUnit (lanesOf s iss rest h))
    (hx : ∀ l ∈ active s iss rest h, Readable (passed s iss rest h) l (Src.refs a) ∧
      ∃ old, (passed s iss rest h).privView l.t.sel num.toNat = some (wide, old)) :
    exec (.swr h wide num a) s = .next (acted s iss rest h fun l w =>
      let x := if wide then (passed s iss rest h).srcVal l a else (((passed s iss rest h).srcVal l a).setWidth 32).setWidth 64
      ((w.privWrite l.t.sel num.toNat x).modThread l.core l.ctx fun t =>
        { t with sel := Sel.put t.sel num.toNat x }).goesOn l.core l.ctx l.nextPc l.yields) :=
  congrArg _ <| runWhole_acts hi ho _ fun l hl => by
    obtain ⟨hr, old, hold⟩ := hx l hl
    simp only [hold, if_true, compute_ok _ l [a] [] _ (by simpa using hr) (fun _ => nofun)]
    exact ⟨rfl, rfl, fun _ => rfl⟩

theorem waits_modThread (u : State) (c x : Nat) (f : Thread → Thread) (w : Wait) :
    (u.modThread c x f).waits c x w = u.modThread c x fun t => { f t with st := .waiting w } :=
  modThread_modThread u c x f _

theorem halt_acts (hi : AtIssue s (.halt h) h iss rest) (ho : OneUnit (lanesOf s iss rest h)) :
    exec (.halt h) s = .next (acted s iss rest h fun l w =>
      w.modThread l.core l.ctx fun t => { t.moveTo l.nextPc with st := .waiting .firmware }) := by
  refine congrArg _ (runLanes_acts hi ho _ fun l _ => ⟨rfl, fun u => ?_⟩)
  exact waits_modThread u l.core l.ctx (·.moveTo l.nextPc) .firmware

/-! ## Invalidates (12 R300) -/

/-- An invalidate whose lanes may read its sources and name a VF each acts for every one of them, on the VF and the address that it names. -/
theorem runWhole_invLane {i : Instr} {v : Src} {more : List Src} {f : State → Nat → Nat → State} (hi : AtIssue s i h iss rest)
    (ho : OneUnit (lanesOf s iss rest h))
    (hv : ∀ l ∈ active s iss rest h, Readable (passed s iss rest h) l (Src.refs v) ∧ count ((passed s iss rest h).srcVal l v) < 1024)
    (hm : ∀ l ∈ active s iss rest h, Readable (passed s iss rest h) l (more.flatMap Src.refs)) :
    s.runWhole i h (fun s l => s.invLane l (v :: more) f) = acted s iss rest h fun l w =>
      (f w (count ((passed s iss rest h).srcVal l v)) ((more.map ((passed s iss rest h).srcVal l)).getD 0 0).toNat).goesOn l.core l.ctx
        l.nextPc l.yields :=
  runWhole_acts hi ho _ fun l hl => by
    obtain ⟨hr, hlt⟩ := hv l hl
    have hread : Readable (passed s iss rest h) l ((v :: more).flatMap Src.refs) := fun r hmem =>
      (List.mem_append.mp hmem).elim (hr r) (hm l hl r)
    have hvf : ¬ 1024 ≤ countOf ((passed s iss rest h).srcVal l v) := not_le.mpr hlt
    simp only [State.invLane, compute_ok _ l _ [] _ hread (fun _ => nofun), List.map_cons, List.getD_cons_zero, if_neg hvf]
    exact ⟨rfl, rfl, fun _ => rfl⟩

end

theorem tlb_of_tlbDrop (s : State) (v c : Nat) (e : Core) (he : (c, e) ∈ (s.tlbDrop v none).cores) : ∀ x ∈ e.tlb, x.vf ≠ v := by
  obtain ⟨k, -, hk⟩ := List.mem_map.mp he
  cases hk
  intro x hx
  simpa using (List.mem_filter.mp hx).2

theorem ro_of_roDrop (s : State) (v c : Nat) (e : Core) (he : (c, e) ∈ (s.roDrop v none).cores) : ∀ x ∈ e.ro, x.vf ≠ v := by
  obtain ⟨k, -, hk⟩ := List.mem_map.mp he
  cases hk
  intro x hx
  simpa using (List.mem_filter.mp hx).2

theorem fills_of_roDrop (s : State) (v : Nat) : ∀ x ∈ (s.roDrop v none).fills, x.vf ≠ v := by
  intro x hx
  simpa using (List.mem_filter.mp hx).2

/-! ## The user view (12 R298) -/

theorem sysValue_userView (s : State) (l : Lane) (wide : Bool) {n : Nat} (h : n < 0x8000) : s.sysValue l wide n = some (s.userView l n) :=
  if_pos h

/-- Each register of the user view reads as its row of the table says. -/
theorem sysValue_userReg {s : State} {l : Lane} {wide : Bool} {n v : Nat} (h : UserReg s l wide n v) :
    s.sysValue l wide n = some (BitVec.ofNat 64 v) := by
  cases h with
  | devid => rfl
  | spsize hp | slotidx hp => rw [sysValue_userView _ _ _ (by decide)]; simp [State.userView, hp]
  | slotleft hp he => rw [sysValue_userView _ _ _ (by decide)]; simp [State.userView, State.slotLeft, hp, he]
  | teamsp hg | teamacc hg | poolfree hg => rw [sysValue_userView _ _ _ (by decide)]; simp [State.userView, hg]
  | teamspFree hg | teamaccFree hg | poolfreeFree hg =>
    rw [sysValue_userView _ _ _ (by decide)]
    simp only [State.userView, hg]
    rfl
  | budget hg | budgetFree hg => rw [sysValue_userView _ _ _ (by decide)]; simp [State.userView, State.budget, hg]
  | ftcap => rfl
  | ftlive hf => rw [sysValue_userView _ _ _ (by decide)]; simp [State.userView, hf]
  | gaps => rfl

/-- Settles O37: each instruction acts for its active lanes in turn; the user view is read row by row; an invalidate of a whole VF keeps what
names another VF. -/
theorem systemInstructions : Obligations.SystemInstructions := by
  refine ⟨fun h wide d num a v s iss rest ho => ⟨fun hi x hx => srd_acts hi ho hx, fun hi hx => swr_acts hi ho hx, fun hi => halt_acts hi ho,
    fun hv => ⟨fun hi => ?_, fun hi => ?_, fun ha => ⟨fun hi => ?_, fun hi => ?_⟩⟩⟩,
    fun s l wide n v => sysValue_userReg, fun s v => ⟨tlb_of_tlbDrop s v, ro_of_roDrop s v, fills_of_roDrop s v⟩⟩
  · exact congrArg _ (runWhole_invLane (more := []) hi ho hv fun _ _ _ => nofun)
  · exact congrArg _ (runWhole_invLane (more := []) hi ho hv fun _ _ _ => nofun)
  · exact congrArg _ (runWhole_invLane (more := [a]) hi ho hv fun l hl => by simpa using ha l hl)
  · exact congrArg _ (runWhole_invLane (more := [a]) hi ho hv fun l hl => by simpa using ha l hl)

end Sys2Proof.Proofs

/-! PROOFS. Chapters 08 and 01, one step of the machine (O55): what parks where an encoding is rejected (08 R192), and what the pass that
begins a new cycle leaves alone (01 R34, log 1). -/

namespace Sys2Proof.Proofs

open Sys2Proof.Machine Sys2Proof.Safety Sys2Proof.Claims Sys2Proof.Laws

/-! ## The units of a lane set (10 R246) -/

theorem mem_insertLane {l k : Lane} : ∀ {ks : List Lane}, k ∈ insertLane l ks ↔ k = l ∨ k ∈ ks
  | [] => by simp [insertLane]
  | j :: js => by
    unfold insertLane
    split
    · simp
    · simp [mem_insertLane (ks := js), or_left_comm]

/-- A lane that joins is in one of the units. -/
theorem joins_addToUnits (us : List (List Lane)) (l : Lane) : ∃ u ∈ addToUnits us l, l ∈ u := by
  have hnew : ∃ u ∈ us ++ [[l]], l ∈ u := ⟨[l], by simp, by simp⟩
  unfold addToUnits
  split
  · exact hnew
  · split
    · rename_i g _ hany
      obtain ⟨u, hu, hg⟩ := List.any_eq_true.mp hany
      exact ⟨_, List.mem_map_of_mem hu, by rw [if_pos hg]; exact mem_insertLane.mpr (.inl rfl)⟩
    · exact hnew

/-- A lane that is in one of the units stays in one of them. -/
theorem stays_addToUnits {us : List (List Lane)} {k : Lane} (l : Lane) (h : ∃ u ∈ us, k ∈ u) : ∃ u ∈ addToUnits us l, k ∈ u := by
  obtain ⟨u, hu, hk⟩ := h
  unfold addToUnits
  split
  · exact ⟨u, List.mem_append_left _ hu, hk⟩
  · split
    · refine ⟨_, List.mem_map_of_mem hu, ?_⟩
      split
      · exact mem_insertLane.mpr (.inr hk)
      · exact hk
    · exact ⟨u, List.mem_append_left _ hu, hk⟩

/-- A unit holds only lanes that have joined. -/
theorem of_mem_addToUnits {us : List (List Lane)} {l k : Lane} {u : List Lane} (hu : u ∈ addToUnits us l) (hk : k ∈ u) :
    k = l ∨ ∃ v ∈ us, k ∈ v := by
  have hnew : u ∈ us ++ [[l]] → k = l ∨ ∃ v ∈ us, k ∈ v := fun h => by
    rcases List.mem_append.mp h with h | h
    · exact .inr ⟨u, h, hk⟩
    · rw [List.mem_singleton.mp h] at hk
      exact .inl (List.mem_singleton.mp hk)
  unfold addToUnits at hu
  split at hu
  · exact hnew hu
  · split at hu
    · obtain ⟨v, hv, rfl⟩ := List.mem_map.mp hu
      split at hk
      · exact (mem_insertLane.mp hk).imp id fun h => ⟨v, hv, h⟩
      · exact .inr ⟨v, hv, hk⟩
    · exact hnew hu

/-- Every lane of a lane set is in one of its units. -/
theorem mem_unitsOf {ls : List Lane} {l : Lane} (h : l ∈ ls) : ∃ u ∈ unitsOf ls, l ∈ u :=
  foldl_reaches (P := fun _ => True) (Q := fun us => ∃ u ∈ us, l ∈ u) h (fun _ _ _ => trivial) (fun us _ => joins_addToUnits us l)
    (fun _ b => stays_addToUnits b) trivial

/-- The units of a lane set hold its lanes alone. -/
theorem of_mem_unitsOf {ls : List Lane} {k : Lane} {u : List Lane} (hu : u ∈ unitsOf ls) (hk : k ∈ u) : k ∈ ls :=
  List.foldlRecOn (motive := fun us => ∀ u ∈ us, ∀ k ∈ u, k ∈ ls) ls addToUnits (fun _ h => absurd h List.not_mem_nil)
    (fun _ ih _ hl _ hu k hk => (of_mem_addToUnits hu hk).elim (fun h => h ▸ hl) fun ⟨v, hv, hkv⟩ => ih v hv k hkv) u hu k hk

/-! ## Threads that park (10 R247 to R249) -/

theorem issues_park (s : State) (u : FUnit) : (s.park u false).issues = s.issues := by
  rw [(park_only s u).1]
  change (threadsParked s u).issues = s.issues
  rw [(onlyThreads_threadsParked s u).1]

/-- A change that leaves the state of a thread as it is. -/
theorem st_modThread_keeps (s : State) (c x d y : Nat) {f : Thread → Thread} (hf : ∀ t, (f t).st = t.st) :
    ((s.modThread c x f).thread d y).st = (s.thread d y).st := by
  by_cases h : d = c ∧ y = x
  · obtain ⟨rfl, rfl⟩ := h
    rw [thread_modThread, hf]
  · rw [thread_modThread_other _ _ (by tauto)]

theorem st_keepSnap (s : State) (u : FUnit) (lane x d y : Nat) : ((s.keepSnap u lane x).thread d y).st = (s.thread d y).st := by
  unfold State.keepSnap
  split
  · exact st_modThread_keeps _ _ _ _ _ fun _ => rfl
  · rfl

theorem st_parkThread (u : FUnit) (s : State) (e : Nat × Nat) : ((parkThread u s e).thread u.core e.2).st = .parked := by
  rw [parkThread, thread_modThread]

/-- A parked thread stays parked where another parks. -/
theorem st_parkThread_stays {u : FUnit} {s : State} {d y : Nat} (e : Nat × Nat) (h : (s.thread d y).st = .parked) :
    ((parkThread u s e).thread d y).st = .parked := by
  by_cases hd : d = u.core ∧ y = e.2
  · obtain ⟨rfl, rfl⟩ := hd
    exact st_parkThread u s e
  · rw [parkThread, thread_modThread_other _ _ (by tauto), st_keepSnap, h]

theorem thread_park (s : State) (u : FUnit) (d y : Nat) : (s.park u false).thread d y = (threadsParked s u).thread d y := by
  unfold State.thread; rw [park_core]

/-- The threads of a unit that parks are parked. -/
theorem st_park (s : State) (u : FUnit) {x : Nat} (h : x ∈ u.threads.map Prod.snd) : ((s.park u false).thread u.core x).st = .parked := by
  obtain ⟨e, he, rfl⟩ := List.mem_map.mp h
  rw [thread_park]
  exact foldl_reaches (P := fun _ => True) (Q := fun w => (w.thread u.core e.2).st = .parked) he (fun _ _ _ => trivial)
    (fun w _ => st_parkThread (numbered s u) w e) (fun _ b => st_parkThread_stays b) trivial

/-- A parked thread stays parked where a unit parks. -/
theorem st_park_stays {s : State} {d y : Nat} (u : FUnit) (h : (s.thread d y).st = .parked) :
    ((s.park u false).thread d y).st = .parked := by
  rw [thread_park]
  exact List.foldlRecOn (motive := fun w : State => (w.thread d y).st = .parked) u.threads (parkThread (numbered s u)) h
    fun _ hw e _ => st_parkThread_stays e hw

/-! ## An encoding that is rejected (08 R192) -/

/-- A thread of an issue whose encoding is rejected is parked, in a unit that names the failing step. -/
def Rejected (core : Nat) (pc : Word) (e : DecErr) (x : Nat) (s : State) : Prop :=
  (s.thread core x).st = .parked ∧
    ∃ u ∈ s.units, u.trap.cause = .illegalOp ∧ u.trap.kind = e.step ∧ u.parkPc = pc ∧ x ∈ u.threads.map Prod.snd

theorem Rejected.park {core : Nat} {pc : Word} {e : DecErr} {x : Nat} {s : State} (h : Rejected core pc e x s) (u : FUnit) :
    Rejected core pc e x (s.park u false) := by
  obtain ⟨hst, v, hv, hcause, hkind, hpc, hx⟩ := h
  obtain ⟨q, hq⟩ := (parkFrame_park s u).units v hv
  exact ⟨st_park_stays u hst, _, hq, hcause, hkind, hpc, hx⟩

/-- The lanes of a unit park at the instruction that is rejected. -/
def rejectUnit (pc : Word) (e : DecErr) (s : State) (ls : List Lane) : State :=
  s.parkLanes ls (trapOf .illegalOp e.step) (ls.map Lane.lane) pc .reexec

theorem issues_rejectUnit (pc : Word) (e : DecErr) (s : State) (ls : List Lane) : (rejectUnit pc e s ls).issues = s.issues := by
  cases ls with
  | nil => rfl
  | cons l ls => exact issues_park s _

theorem Rejected.rejectUnit {core : Nat} {pc : Word} {e : DecErr} {x : Nat} {s : State} (h : Rejected core pc e x s) (ls : List Lane) :
    Rejected core pc e x (rejectUnit pc e s ls) := by
  cases ls with
  | nil => exact h
  | cons l ls => exact h.park _

theorem rejected_rejectUnit {core : Nat} (pc : Word) (e : DecErr) {k : Lane} (s : State) {ls : List Lane}
    (hc : ∀ l ∈ ls, l.core = core) (hk : k ∈ ls) : Rejected core pc e k.ctx (rejectUnit pc e s ls) := by
  cases ls with
  | nil => cases hk
  | cons l ls =>
    obtain rfl := hc l (List.mem_cons_self ..)
    have hx : k.ctx ∈ ((l :: ls).map fun j => (j.lane, j.ctx)).map Prod.snd := by
      rw [List.map_map]
      exact List.mem_map_of_mem (f := Lane.ctx) hk
    obtain ⟨q, hq⟩ := park_mem s (FUnit.atIssue l.core l.t.vf.toNat (l.t.group.map Prod.fst) ((l :: ls).map fun j => (j.lane, j.ctx))
      (trapOf .illegalOp e.step) ((l :: ls).map Lane.lane) l.t.pc pc 0 .reexec)
    exact ⟨st_park _ _ hx, _, hq, rfl, rfl, rfl, hx⟩

theorem issues_decodeFails (s : State) (iss : Issue) (rest : List Issue) (e : DecErr) : (s.decodeFails iss rest e).issues = rest :=
  List.foldlRecOn (motive := fun u : State => u.issues = rest) _ (rejectUnit iss.pc e) rfl
    fun u h ls _ => (issues_rejectUnit iss.pc e u ls).trans h

theorem rejected_decodeFails (s : State) (iss : Issue) (rest : List Issue) (e : DecErr) {x : Nat} (hx : x ∈ iss.lanes) :
    Rejected iss.core iss.pc e x (s.decodeFails iss rest e) := by
  set r : State := { s with issues := rest }
  obtain ⟨ls, hls, hl⟩ := mem_unitsOf (List.mem_map_of_mem (f := r.laneOf iss 0) hx)
  have hc : ∀ l ∈ ls, l.core = iss.core := fun l hl => by
    obtain ⟨y, -, rfl⟩ := List.mem_map.mp (of_mem_unitsOf hls hl)
    rfl
  exact foldl_reaches (f := rejectUnit iss.pc e) (P := fun _ => True) (Q := Rejected iss.core iss.pc e x) hls (fun _ _ _ => trivial)
    (fun u _ => rejected_rejectUnit iss.pc e u hc hl) (fun _ b h => h.rejectUnit b) trivial

/-! ## What the pass of a cycle leaves alone (01 R34, log 1) -/

/-- What the events of a cycle are read from: the clock, the inputs that are to come and those that wait, and the stage of the power-on
sequence. -/
def ambient (s : State) : DWord × List (List Instr) × List Instr × PowerStage := (s.clk, s.inputs, s.waitIn, s.power.stage)

theorem ambient_foldl {α : Type} {f : State → α → State} (hf : ∀ s a, ambient (f s a) = ambient s) (l : List α) (s : State) :
    ambient (l.foldl f s) = ambient s :=
  List.foldlRecOn (motive := fun u : State => ambient u = ambient s) l f rfl fun _ h a _ => (hf _ a).trans h

theorem ambient_ite {p : Prop} [Decidable p] {a b s : State} (ha : ambient a = ambient s) (hb : ambient b = ambient s) :
    ambient (if p then a else b) = ambient s := by
  split
  · exact ha
  · exact hb

theorem ambient_onlyThreads {s u : State} (h : OnlyThreads s u) : ambient u = ambient s := by rw [h.1]; rfl

theorem ambient_onlyDevice {s u : State} (h : OnlyDevice s u) : ambient u = ambient s := by rw [show u = _ from h]; rfl

theorem ambient_modThread (s : State) (c x : Nat) (f : Thread → Thread) : ambient (s.modThread c x f) = ambient s := rfl
theorem ambient_modPort (s : State) (n : Nat) (f : Port → Port) : ambient (s.modPort n f) = ambient s := rfl

theorem ambient_setWord (s : State) (c x : Nat) (r : WRef) (w : RegWord) : ambient (s.setWord c x r w) = ambient s := by
  unfold State.setWord State.releaseA
  split
  · rfl
  · cases r with
    | g n => dsimp only; split <;> rfl
    | s n => dsimp only; split <;> rfl
    | p n => rfl

/-! ### Parking -/

theorem ambient_saveOut (s : State) (v c off : Nat) (bs : List Byte) : ambient (s.saveOut v c off bs) = ambient s :=
  ambient_foldl (f := State.saveUnit v c off bs) (fun _ _ => rfl) _ s

theorem ambient_bufEntry (s : State) (c id : Nat) : ambient (s.bufEntry c id).1 = ambient s := by
  unfold State.bufEntry State.saveEntry
  dsimp only
  split
  · rfl
  · split
    · exact ambient_saveOut _ _ _ _ _
    · rfl

theorem ambient_postRecord (s : State) (v : Nat) (unit core : Option Nat) (body : List Byte) :
    ambient (s.postRecord v unit core body) = ambient s :=
  (ambient_onlyDevice (postRecord_only s v unit core body).1).trans rfl

theorem ambient_park (s : State) (u : FUnit) (b : Bool) : ambient (s.park u b) = ambient s := by
  have hthreads (v : FUnit) (w : State) : ambient (v.threads.foldl (parkThread v) w) = ambient w :=
    ambient_onlyThreads (onlyThreads_foldl _ (onlyThreads_parkThread v) v.threads w)
  cases b with
  | false => exact (ambient_postRecord _ _ _ _ _).trans (hthreads (numbered s u) _)
  | true => exact (ambient_postRecord _ _ _ _ _).trans ((hthreads { u with id := s.nextUnit, buf := _ } _).trans (ambient_bufEntry _ _ _))

theorem ambient_parkWhen (s : State) (u : FUnit) (b : Bool) : ambient (s.parkWhen u b) = ambient s := by
  unfold State.parkWhen
  split
  · rfl
  · rw [ambient_park, ambient_onlyThreads (onlyThreads_keepWaits s _ _)]

theorem ambient_parkDue (s : State) (c : Nat) : ambient (s.parkDue c) = ambient s := by
  unfold State.parkDue
  refine ambient_foldl (fun w u => ?_) _ s
  rw [ambient_parkWhen]
  rfl

/-! ### The pass over waiting threads -/

theorem ambient_haltSafe (s : State) (c x : Nat) : ambient (s.haltSafe c x) = ambient s := by
  have hat (safe : Bool) : ambient (s.haltAt c x safe) = ambient s := by
    unfold State.haltAt
    dsimp only
    split <;> rfl
  unfold State.haltSafe
  dsimp only
  split
  · rfl
  · split
    · exact hat false
    · exact ambient_ite (hat true) rfl

theorem ambient_haltPart (s : State) (p : Nat) : ambient (s.haltPart p) = ambient s :=
  ambient_foldl (fun _ _ => ambient_foldl (fun _ _ => ambient_haltSafe _ _ _) _ _) _ s

theorem ambient_giveRets (s : State) (c x : Nat) : ambient (s.giveRets c x) = ambient s :=
  ambient_ite rfl (ambient_foldl (fun _ _ => ambient_setWord _ _ _ _ _) _ s)

theorem ambient_forkEnd (s : State) (c g : Nat) : ambient (s.forkEnd c g) = ambient s := by
  refine ambient_foldl (fun u x => ?_) _ s
  exact ambient_ite (ambient_giveRets u c x) rfl

theorem ambient_unhalt (s : State) (c x : Nat) : ambient (s.unhalt c x) = ambient s := by
  unfold State.unhalt
  split
  · rw [ambient_parkDue]
    split <;> rfl
  · rfl

theorem ambient_wakeThread (s : State) (c x : Nat) : ambient (s.wakeThread c x) = ambient s := by
  have hgo (u : State) : ambient (if u.resumable c x then u.unhalt c x else u.wakeSent c x) = ambient u :=
    ambient_ite (ambient_unhalt u c x) (ambient_ite rfl rfl)
  unfold State.wakeThread
  dsimp only
  rw [hgo, ambient_modThread]
  split
  · split
    · split
      · rfl
      · exact ambient_forkEnd s c _
    · rfl
  · rfl

theorem ambient_testCounters (s : State) (c : Nat) : ambient (s.testCounters c) = ambient s := by
  refine ambient_foldl (fun u e => ?_) _ s
  unfold State.testCounter
  split
  · rfl
  · exact ambient_park _ _ _
  · rfl

theorem ambient_retrySets (s : State) (c g : Nat) : ambient (s.retrySets c g) = ambient s :=
  ambient_ite rfl rfl

theorem ambient_wakeCore (s : State) (c : Nat) : ambient (s.wakeCore c) = ambient s := by
  unfold State.wakeCore
  dsimp only
  rw [ambient_foldl fun _ _ => ambient_retrySets _ _ _, ambient_testCounters, ambient_foldl fun _ _ => ambient_wakeThread _ _ _]

theorem ambient_wake (s : State) : ambient s.wake = ambient s := by
  unfold State.wake
  dsimp only
  refine (ambient_foldl (fun u e => ?_) _ _).trans ((ambient_foldl (fun u e => ?_) _ _).trans (ambient_foldl (fun u e => ?_) _ s))
  · exact ambient_modPort u e.1 _
  · exact (ambient_wakeCore (u.pauseCursors e.1) e.1).trans rfl
  · exact ambient_haltPart u e.1

/-! ### Errors found, thermal limits, and the packets that leave -/

theorem ambient_countGap (s : State) : ambient s.countGap = ambient s := ambient_ite rfl rfl

theorem ambient_logError (s : State) (c : Nat) (u : ErrUnit) (outcome trials : Nat) (loc : BitVec 48) (syndrome : DWord) :
    ambient (s.logError c u outcome trials loc syndrome) = ambient s := rfl

theorem ambient_logWorn (s : State) : ambient s.logWorn = ambient s :=
  ambient_foldl (fun u _ => ambient_logError u _ _ _ _ _ _) _ _

theorem ambient_uncorrected (s : State) (c : Nat) (u : ErrUnit) (loc : BitVec 48) : ambient (s.uncorrected c u loc) = ambient s := by
  cases u with
  | sram => unfold State.uncorrected State.spoilSram; dsimp only; split <;> rfl
  | register => unfold State.uncorrected State.spoilReg; dsimp only; split <;> rfl
  | accumulator => unfold State.uncorrected State.spoilAcc; dsimp only; split <;> rfl
  | _ => rfl

theorem ambient_errorFound (s : State) (c : Nat) (u : ErrUnit) (loc : BitVec 48) (outcome : Nat) (syndrome : DWord) :
    ambient (s.errorFound c u loc outcome syndrome) = ambient s := by
  unfold State.errorFound
  extract_lets n logged spoiled
  have hlog : ambient logged = ambient s := ambient_logError s c u outcome 0 loc syndrome
  have hs : ambient spoiled = ambient s := ambient_ite ((ambient_uncorrected logged c u loc).trans hlog) hlog
  exact ambient_ite hs hs

theorem ambient_logFailed (s : State) : ambient s.logFailed = ambient s :=
  ambient_foldl (fun u _ => (ambient_errorFound { u with tick := u.tick + 1 } _ _ _ _ _).trans rfl) _ _

theorem ambient_thermalResume (s : State) (temp : Nat) : ambient (outState s (execThermalResume temp s)) = ambient s := by
  unfold execThermalResume
  dsimp only [outState]
  split <;> rfl

theorem ambient_leave (s : State) (n i : Nat) : ambient (s.leave n i) = ambient s := by
  unfold State.leave
  dsimp only
  split
  · rfl
  · split
    · unfold State.failPayload
      split <;> rfl
    · rfl

theorem ambient_serveClass (s : State) (n c : Nat) : ambient (s.serveClass n c) = ambient s := by
  unfold State.serveClass
  split
  · rfl
  · exact ambient_leave s n _

theorem ambient_serveOne (s : State) (n : Nat) : ambient (s.serveOne n) = ambient s := by
  unfold State.serveOne
  split
  · exact ambient_serveClass s n _
  · exact ambient_ite rfl (ambient_serveClass _ n _)

theorem ambient_servePort (s : State) (n : Nat) : ambient (s.servePort n) = ambient s :=
  ambient_ite rfl (ambient_foldl (fun u _ => ambient_serveOne u n) _ _)

/-! ## The new cycle -/

/-- The state of a new cycle from which its decisions, inputs and agenda are read. -/
def begun (s : State) : State :=
  let u := ({ s.wake with clk := s.clk + 1 } : State).countGap.logWorn.logFailed
  let w := outState u (execThermalResume u.power.temp u)
  (w.ports.map Prod.fst).foldl State.servePort w

theorem ambient_begun (s : State) : ambient (begun s) = (s.clk + 1, s.inputs, s.waitIn, s.power.stage) := by
  have hw : ambient s.wake = ambient s := ambient_wake s
  unfold begun
  dsimp only
  rw [ambient_foldl ambient_servePort, ambient_thermalResume, ambient_logFailed, ambient_logWorn, ambient_countGap]
  simp only [ambient, Prod.mk.injEq] at hw ⊢
  exact ⟨trivial, hw.2⟩

theorem newCycle_eq (s : State) : s.newCycle =
    { begun s with events := (begun s).picks ++ (begun s).nowIn ++ (begun s).agenda, inputs := (begun s).inputs.drop 1, waitIn := [] } := rfl

theorem mem_picks {s : State} {e : Instr} (h : e ∈ s.picks) : ∃ c half, e = .pick c half := by
  obtain ⟨k, -, hk⟩ := List.mem_flatMap.mp h
  simp only [List.mem_cons, List.not_mem_nil, or_false] at hk
  exact hk.elim (fun he => ⟨k.1, 0, he⟩) fun he => ⟨k.1, 1, he⟩

/-! ## One step (08 R171, R172, R192, 01 R34) -/

section
variable {s : State} {iss : Issue} {rest : List Issue} (h : s.issues = iss :: rest)
include h

theorem step_of_fetch {i : Instr} {n : Nat} (hf : s.fetch iss = .ok (i, n)) :
    step s = exec i { s.ticked with issues := { iss with len := n } :: rest } := by
  simp only [step, show s.ticked.issues = iss :: rest from h, show s.ticked.fetch iss = .ok (i, n) from hf]

theorem step_of_fetch_error {e : DecErr} (hf : s.fetch iss = .error e) : step s = .next (s.ticked.decodeFails iss rest e) := by
  simp only [step, show s.ticked.issues = iss :: rest from h, show s.ticked.fetch iss = .error e from hf]

end

/-- Settles O55: a step is read off its definition; the lanes of a rejected encoding park unit by unit, and the pass that begins a cycle leaves
the clock, the inputs and the power stage alone. -/
theorem stepRunsDecoded : Obligations.StepRunsDecoded := by
  refine ⟨fun s iss rest x xs i n h hw hl hd => ?_, fun s iss rest w i h hw hd => ?_, fun s iss rest e h hf => ?_,
    fun s e rest h he => ?_, fun s h he => ?_⟩
  · exact step_of_fetch h (by simp only [State.fetch, hw, hl, hd])
  · exact step_of_fetch (n := iss.len) h (by simp only [State.fetch, hw, hd, Except.map])
  · exact ⟨_, step_of_fetch_error h hf, issues_decodeFails _ _ _ _, fun x => rejected_decodeFails s.ticked iss rest e⟩
  · simp only [step, State.ticked, h, he]
  · have hb := ambient_begun s.ticked
    simp only [ambient, Prod.mk.injEq] at hb
    obtain ⟨hclk, hin, hwait, hstage⟩ := hb
    refine ⟨s.ticked.newCycle, by simp only [step, State.ticked, h, he], ?_⟩
    rw [newCycle_eq]
    refine ⟨hclk, congrArg (List.drop 1) hin, (begun s.ticked).picks, (begun s.ticked).agenda, ?_, fun e => mem_picks⟩
    simp only [State.nowIn, hin, hwait, hstage]
    rfl

end Sys2Proof.Proofs

/-! PROOFS. Chapter 09, integers (O1): first how an instruction completes whose lanes write values, then the integers of a type, the table of
09 R199 and the carry chains. -/

namespace Sys2Proof.Proofs

open Sys2Proof.Machine Sys2Proof.Safety Sys2Proof.Claims Sys2Proof.Laws

/-! ## Instructions that complete -/

/-- An instruction completes whose lanes, where they may read and write, write words that do not depend on thread contexts. -/
theorem completes_of_writes {i : Instr} {h : Hdr} {rd wr : List WRef} {ws : State → Lane → List (WRef × Word)}
    {pc : State → Lane → Option Word} {f : State → Lane → LaneOut} (hexec : ∀ s, exec i s = .next (s.runLanes i h f))
    (hf : WellFormed i = true → ∀ s u l, OnlyThreads s u → Readable u l rd → Writable u l wr → f u l = .write (ws s l) (pc s l)) :
    Completes i h rd wr ws pc := by
  intro s iss rest hwf hi hable
  rw [hexec, runLanes_write i h f s iss rest _ _ hi fun l hl u hu => ?_]
  obtain ⟨hr, hw⟩ := hable l hl
  exact hf hwf _ u l hu (Readable.only hu hr) (Writable.only hu hw)

section
variable {i : Instr} {h : Hdr} {d : Reg} {a b c : Src}

/-- A one-source instruction completes with every function that agrees with its own on what it writes. -/
theorem completes1 {f g : DWord → DWord} (hexec : ∀ s, exec i s = .next (s.runLanes i h fun s l => s.un l d a g))
    (hfg : WellFormed i = true → ∀ x, destWrites d (g x) = destWrites d (f x)) : Completes1 i h d a f :=
  completes_of_writes hexec fun hwf s u l hu hr hw => by
    rw [un_ok u l d a g hr hw, srcVal_only hu, hfg hwf]

theorem completes2 {f g : DWord → DWord → DWord} (hexec : ∀ s, exec i s = .next (s.runLanes i h fun s l => s.bin l d a b g))
    (hfg : WellFormed i = true → ∀ x y, g x y = f x y) : Completes2 i h d a b f :=
  completes_of_writes hexec fun hwf s u l hu hr hw => by
    rw [bin_ok u l d a b g hr hw, srcVal_only hu, srcVal_only hu, hfg hwf]

theorem completes3 {f g : DWord → DWord → DWord → DWord}
    (hexec : ∀ s, exec i s = .next (s.runLanes i h fun s l => s.tern l d a b c g))
    (hfg : WellFormed i = true → ∀ x y z, g x y z = f x y z) : Completes3 i h d a b c f :=
  completes_of_writes hexec fun hwf s u l hu hr hw => by
    rw [tern_ok u l d a b c g hr hw, srcVal_only hu, srcVal_only hu, srcVal_only hu, hfg hwf]

end

/-! ## Integers of a type (06 R138, R139) -/

theorem isSigned_eq_signed (t : Ty) : t.isSigned = signed t := by cases t <;> rfl

theorem tyBits_of_isInt {t : Ty} : t.isInt = true → tyBits t = width t := by cases t <;> decide
theorem tyBits_of_isInt32Up {t : Ty} : t.isInt32Up = true → tyBits t = width t := by cases t <;> decide
theorem tyBits_of_isSigned {t : Ty} : t.isSigned = true → tyBits t = width t := by cases t <;> decide
theorem tyBits_of_isNarrow {t : Ty} : t.isNarrow = true → tyBits t = width t := by cases t <;> decide
theorem tyBits_of_isRaw {t : Ty} : t.isRaw = true → tyBits t = width t := by cases t <;> decide

theorem width_pos (t : Ty) : 0 < width t := by cases t <;> decide
theorem width_le (t : Ty) : width t ≤ 64 := by cases t <;> decide

/-- Results that agree modulo 2^n are one result. -/
theorem result_congr (t : Ty) {x y : Int} (h : x % 2 ^ width t = y % 2 ^ width t) : result t x = result t y := by
  have hxy : BitVec.ofInt (width t) x = BitVec.ofInt (width t) y :=
    BitVec.eq_of_toNat_eq (by simp only [BitVec.toNat_ofInt]; push_cast; rw [h])
  simp only [result, hxy]

/-- Sources that agree on their low n bits have one value. -/
theorem value_congr (t : Ty) {x y : DWord} (h : x.setWidth (width t) = y.setWidth (width t)) : value t x = value t y := by
  simp only [value, h]

section
variable {t : Ty} (ht : tyBits t = width t)
include ht

theorem readInt_eq_value (v : DWord) : readInt t v = value t v := by
  rw [readInt, value, ht, isSigned_eq_signed, BitVec.ofNat_toNat]

theorem putInt_eq_result (x : Int) : putInt t x = result t x := by
  rw [putInt, result, ht, isSigned_eq_signed, BitVec.ofNat_toNat, BitVec.signExtend]

theorem tyMin_eq_least : tyMin t = least t := by
  simp only [tyMin, least, isSigned_eq_signed, ht, Nat.cast_pow, Nat.cast_ofNat]

theorem tyMax_eq_greatest : tyMax t = greatest t := by
  simp only [tyMax, greatest, isSigned_eq_signed, ht, Nat.cast_pow, Nat.cast_ofNat]

end

theorem clampInt_eq_max_min {lo hi : Int} (h : lo ≤ hi) (x : Int) : clampInt lo hi x = max lo (min hi x) := by
  unfold clampInt
  split <;> [skip; split] <;> omega

theorem least_le_greatest (t : Ty) : least t ≤ greatest t := by cases t <;> decide

theorem countOf_eq_count (v : DWord) : countOf v = count v := by
  rw [countOf, count, BitVec.toNat_setWidth]

/-! ## The table of 09 R199 -/

section
variable {t : Ty} (ht : tyBits t = width t)
include ht

theorem intAdd_eq (x y : DWord) : intAdd t x y = result t (value t x + value t y) := by
  simp only [intAdd, putInt_eq_result ht, readInt_eq_value ht]

theorem intSub_eq (x y : DWord) : intSub t x y = result t (value t x - value t y) := by
  simp only [intSub, putInt_eq_result ht, readInt_eq_value ht]

theorem intMul_eq (x y : DWord) : intMul t x y = result t (value t x * value t y) := by
  simp only [intMul, putInt_eq_result ht, readInt_eq_value ht]

theorem intMulHi_eq (x y : DWord) : intMulHi t x y = result t (value t x * value t y / 2 ^ width t) := by
  simp only [intMulHi, putInt_eq_result ht, readInt_eq_value ht, ht, Nat.cast_pow, Nat.cast_ofNat]

theorem intMin_eq (x y : DWord) : intMin t x y = result t (min (value t x) (value t y)) := by
  simp only [intMin, putInt_eq_result ht, readInt_eq_value ht, min_def]
  grind

theorem intMax_eq (x y : DWord) : intMax t x y = result t (max (value t x) (value t y)) := by
  simp only [intMax, putInt_eq_result ht, readInt_eq_value ht, max_def]
  grind

theorem intAddSat_eq (x y : DWord) : intAddSat t x y = result t (max (least t) (min (greatest t) (value t x + value t y))) := by
  simp only [intAddSat, putInt_eq_result ht, readInt_eq_value ht, tyMin_eq_least ht, tyMax_eq_greatest ht,
    clampInt_eq_max_min (least_le_greatest t)]

theorem intSubSat_eq (x y : DWord) : intSubSat t x y = result t (max (least t) (min (greatest t) (value t x - value t y))) := by
  simp only [intSubSat, putInt_eq_result ht, readInt_eq_value ht, tyMin_eq_least ht, tyMax_eq_greatest ht,
    clampInt_eq_max_min (least_le_greatest t)]

end

theorem wideTy_eq (t : Ty) : wideTy t = if t = .i32 then .i64 else .n64 := rfl

theorem tyBits_wideTy (t : Ty) : tyBits (wideTy t) = width (wideTy t) := by
  unfold wideTy
  split <;> rfl

/-- The types of a wide product. -/
theorem tyBits_of_wideSource {t : Ty} : (t == .i32 || t == .n32) = true → tyBits t = width t := by cases t <;> decide

theorem intMadWide_eq {t : Ty} (ht : tyBits t = width t) (x y z : DWord) :
    intMadWide t x y z = result (wideTy t) (value t x * value t y + value (wideTy t) z) := by
  simp only [intMadWide, putInt_eq_result (tyBits_wideTy t), readInt_eq_value (tyBits_wideTy t), readInt_eq_value ht]

theorem value_zero (t : Ty) : value t 0 = 0 := by simp [value]

/-- The two-source rows. -/
theorem intBin_completes {k : Hdr → Ty → Reg → Src → Src → Instr} {f : Ty → DWord → DWord → DWord} (hk : IntBin k f) (h : Hdr) (t : Ty)
    (d : Reg) (a b : Src) : Completes2 (k h t d a b) h d a b (f t) := by
  cases hk with
  | add => exact completes2 (fun _ => rfl) fun hw => intAdd_eq (tyBits_of_isInt (band hw).1)
  | sub => exact completes2 (fun _ => rfl) fun hw => intSub_eq (tyBits_of_isInt (band hw).1)
  | mulLo => exact completes2 (fun _ => rfl) fun hw => intMul_eq (tyBits_of_isInt (band hw).1)
  | mulHi => exact completes2 (fun _ => rfl) fun hw => intMulHi_eq (tyBits_of_isInt32Up (band hw).1)
  | min => exact completes2 (fun _ => rfl) fun hw => intMin_eq (tyBits_of_isInt (band hw).1)
  | max => exact completes2 (fun _ => rfl) fun hw => intMax_eq (tyBits_of_isInt (band hw).1)
  | saddSat => exact completes2 (fun _ => rfl) fun hw => intAddSat_eq (tyBits_of_isInt (band hw).1)
  | ssubSat => exact completes2 (fun _ => rfl) fun hw => intSubSat_eq (tyBits_of_isInt (band hw).1)
  | and | or | xor | andn => exact completes2 (fun _ => rfl) fun _ _ _ => rfl
  | mulWide =>
    refine completes2 (fun _ => rfl) fun hw x y => ?_
    rw [intMadWide_eq (tyBits_of_wideSource (band hw).1), value_zero, add_zero, wideTy_eq]

theorem signExtend_narrow (i : Word) {n : Nat} (hn : n ≤ 32) : (i.signExtend 64).setWidth n = (i.setWidth 64).setWidth n := by
  ext k hk
  simp [BitVec.getElem_signExtend, show k < 32 by omega, show k < 64 by omega]

/-- The immediate of an XI form and the model's agree on the bits of an integer type. -/
theorem immVal_setWidth {t : Ty} (ht : t.isInt = true) (i : Word) :
    (immVal t i).setWidth (width t) = (immediate t i).setWidth (width t) := by
  cases t with
  | i64 | n64 => rfl
  | i8 | n8 | i16 | n16 | i32 | n32 => exact signExtend_narrow i (by decide)
  | _ => cases ht

/-- A register of one word takes the low word of what is written. -/
theorem destWrites_word {d : Reg} (hd : d.ok false = true) {x y : DWord} (hxy : x.setWidth 32 = y.setWidth 32) :
    destWrites d x = destWrites d y := by
  cases d with
  | g n pair | s n pair =>
    cases pair with
    | false => simp only [destWrites, Reg.refs, hxy, Bool.false_eq_true, if_false]
    | true => cases hd

/-- A bitwise operation writes the same with the model's immediate as with the one of 08 R179. -/
theorem destWrites_immVal {t : Ty} {d : Reg} (ht : t.isRaw = true) (hd : d.ok t.wide = true) (i : Word) {op : DWord → DWord}
    (hop : ∀ v w : DWord, v.setWidth 32 = w.setWidth 32 → (op v).setWidth 32 = (op w).setWidth 32) :
    destWrites d (op (immVal t i)) = destWrites d (op (immediate t i)) := by
  cases t with
  | b64 => rfl
  | b32 => exact destWrites_word hd (hop _ _ (signExtend_narrow i le_rfl))
  | _ => cases ht

/-- The rows with an XI opcode, whose b is the immediate (09 R206). -/
theorem intImm_completes {k : Hdr → Ty → Reg → Src → Word → Instr} {f : Ty → DWord → DWord → DWord} (hk : IntImm k f) (h : Hdr) (t : Ty)
    (d : Reg) (a : Src) (i : Word) : Completes1 (k h t d a i) h d a fun x => f t x (immediate t i) := by
  have imm : t.isInt = true → value t (immVal t i) = value t (immediate t i) := fun ht => value_congr t (immVal_setWidth ht i)
  cases hk with
  | addXi => exact completes1 (fun _ => rfl) fun hw x => by rw [intAdd_eq (tyBits_of_isInt (band hw).1), imm (band hw).1]
  | subXi => exact completes1 (fun _ => rfl) fun hw x => by rw [intSub_eq (tyBits_of_isInt (band hw).1), imm (band hw).1]
  | mulLoXi => exact completes1 (fun _ => rfl) fun hw x => by rw [intMul_eq (tyBits_of_isInt (band hw).1), imm (band hw).1]
  | minXi => exact completes1 (fun _ => rfl) fun hw x => by rw [intMin_eq (tyBits_of_isInt (band hw).1), imm (band hw).1]
  | maxXi => exact completes1 (fun _ => rfl) fun hw x => by rw [intMax_eq (tyBits_of_isInt (band hw).1), imm (band hw).1]
  | andXi =>
    exact completes1 (fun _ => rfl) fun hw x => destWrites_immVal (band hw).1 (band (band hw).2).1 i fun v w hvw => by
      rw [BitVec.setWidth_and, hvw, BitVec.setWidth_and]
  | orXi =>
    exact completes1 (fun _ => rfl) fun hw x => destWrites_immVal (band hw).1 (band (band hw).2).1 i fun v w hvw => by
      rw [BitVec.setWidth_or, hvw, BitVec.setWidth_or]
  | xorXi =>
    exact completes1 (fun _ => rfl) fun hw x => destWrites_immVal (band hw).1 (band (band hw).2).1 i fun v w hvw => by
      rw [BitVec.setWidth_xor, hvw, BitVec.setWidth_xor]

/-- The one-source rows. -/
theorem intUn_completes {k : Hdr → Ty → Reg → Src → Instr} {f : Ty → DWord → DWord} (hk : IntUn k f) (h : Hdr) (t : Ty) (d : Reg) (a : Src) :
    Completes1 (k h t d a) h d a (f t) := by
  cases hk with
  | abs =>
    refine completes1 (fun _ => rfl) fun hw x => ?_
    have ht : tyBits t = width t := tyBits_of_isSigned (band hw).1
    rw [intAbs, putInt_eq_result ht, readInt_eq_value ht]
  | neg =>
    refine completes1 (fun _ => rfl) fun hw x => ?_
    have ht : tyBits t = width t := tyBits_of_isInt (band hw).1
    rw [intNeg, putInt_eq_result ht, readInt_eq_value ht]
  | not => exact completes1 (fun _ => rfl) fun _ _ => rfl

/-- The three-source rows. -/
theorem intTern_completes {k : Hdr → Ty → Reg → Src → Src → Src → Instr} {f : Ty → DWord → DWord → DWord → DWord} (hk : IntTern k f)
    (h : Hdr) (t : Ty) (d : Reg) (a b c : Src) : Completes3 (k h t d a b c) h d a b c (f t) := by
  cases hk with
  | iadd3 | madLo =>
    refine completes3 (fun _ => rfl) fun hw x y z => ?_
    have ht : tyBits t = width t := tyBits_of_isInt32Up (band hw).1
    simp only [putInt_eq_result ht, readInt_eq_value ht]
  | madHi =>
    refine completes3 (fun _ => rfl) fun hw x y z => ?_
    have ht : tyBits t = width t := tyBits_of_isInt32Up (band hw).1
    simp only [putInt_eq_result ht, readInt_eq_value ht, ht, Nat.cast_pow, Nat.cast_ofNat]
  | madWide => exact completes3 (fun _ => rfl) fun hw => intMadWide_eq (tyBits_of_wideSource (band hw).1)

/-! ## Carries (09 R200) -/

theorem readable_append {s : State} {l : Lane} {p q : List WRef} : Readable s l (p ++ q) ↔ Readable s l p ∧ Readable s l q :=
  List.forall_mem_append

/-- A lane may read sources and more references that no trap-on-empty bit covers. -/
theorem readCheck_srcs {s : State} {l : Lane} {xs : List Src} {rs : List WRef} (hr : Readable s l (xs.flatMap Src.refs ++ rs)) :
    s.readCheck l (hinted l 0 xs ++ rs.map fun r => (r, false)) = none := by
  obtain ⟨hx, hrs⟩ := readable_append.mp hr
  refine readCheck_ok s l _ fun r hmem => ?_
  rcases List.mem_append.mp hmem with hmem | hmem
  · exact readable_hinted s l 0 xs hx r hmem
  · obtain ⟨q, hq, rfl⟩ := List.mem_map.mp hmem
    exact hrs q hq

theorem carry_ok {s : State} {l : Lane} {d : Reg} {a b : Src} {p : PReg} (f : DWord → DWord → Bool → DWord × Bool)
    (hr : Readable s l (Src.refs a ++ Src.refs b ++ [.p p.toNat])) (hw : Writable s l (Reg.refs d)) :
    s.carry l d a b p f =
      .write (destWrites d (f (s.srcVal l a) (s.srcVal l b) (l.t.pred p.toNat)).1 ++
        [(.p p.toNat, boolWord (f (s.srcVal l a) (s.srcVal l b) (l.t.pred p.toNat)).2)]) none := by
  have hread := readCheck_srcs (xs := [a, b]) (rs := [.p p.toNat]) (by simpa using hr)
  simp only [List.map_cons, List.map_nil] at hread
  simp only [State.carry, hread, destCheck_ok s l _ hw]

theorem toNat_eq_carryIn (l : Lane) (p : PReg) : (((l.t.pred p.toNat).toNat : Nat) : Int) = carryIn l p := by
  unfold carryIn
  cases l.t.pred p.toNat <;> rfl

/-- A raw or unsigned source is its low n bits. -/
theorem rawOf_eq_value {t : Ty} (ht : tyBits t = width t) (hs : signed t = false) (v : DWord) : (rawOf t v : Int) = value t v := by
  simp [rawOf, value, hs, ht]

/-- The types of carry chains. -/
theorem carry_type {t : Ty} : (t == .n32 || t == .n64) = true → tyBits t = width t ∧ signed t = false := by cases t <;> decide

theorem addc_completes (h : Hdr) (t : Ty) (d : Reg) (a b : Src) (p : PReg) :
    Completes (.addc h t d a b p) h (Src.refs a ++ Src.refs b ++ [.p p.toNat]) (Reg.refs d) fun s l =>
      destWrites d (result t (value t (s.srcVal l a) + value t (s.srcVal l b) + carryIn l p)) ++
        [(.p p.toNat, boolWord (value t (s.srcVal l a) + value t (s.srcVal l b) + carryIn l p ≥ 2 ^ width t))] :=
  completes_of_writes (fun _ => rfl) fun hwf s u l hu hr hw => by
    obtain ⟨ht, hs⟩ := carry_type (band hwf).1
    rw [carry_ok _ hr hw]
    simp only [srcVal_only hu, putInt_eq_result ht, readInt_eq_value ht, carryOut, ht, ← rawOf_eq_value ht hs, ← toNat_eq_carryIn, ge_iff_le]
    norm_cast

theorem subb_completes (h : Hdr) (t : Ty) (d : Reg) (a b : Src) (p : PReg) :
    Completes (.subb h t d a b p) h (Src.refs a ++ Src.refs b ++ [.p p.toNat]) (Reg.refs d) fun s l =>
      destWrites d (result t (value t (s.srcVal l a) - value t (s.srcVal l b) - carryIn l p)) ++
        [(.p p.toNat, boolWord (value t (s.srcVal l a) - value t (s.srcVal l b) - carryIn l p < 0))] :=
  completes_of_writes (fun _ => rfl) fun hwf s u l hu hr hw => by
    obtain ⟨ht, hs⟩ := carry_type (band hwf).1
    rw [carry_ok _ hr hw]
    simp only [srcVal_only hu, putInt_eq_result ht, readInt_eq_value ht, borrowOut, ← rawOf_eq_value ht hs, ← toNat_eq_carryIn, sub_sub,
      sub_neg]
    norm_cast

/-- Settles O1: each row's operation on integers is the table's, and a carry chain reads its predicate as a number. -/
theorem integerResults : Obligations.IntegerResults :=
  ⟨⟨fun _ _ => intBin_completes, fun _ _ => intImm_completes, fun _ _ => intUn_completes, fun _ _ => intTern_completes⟩,
    fun h t d a b p => ⟨addc_completes h t d a b p, subb_completes h t d a b p⟩⟩

end Sys2Proof.Proofs

/-! PROOFS. Chapter 09, divisions, shifts, bit fields and moves (O2 to O4). -/

namespace Sys2Proof.Proofs

open Sys2Proof.Machine Sys2Proof.Safety Sys2Proof.Claims Sys2Proof.Laws

/-! ## Division (09 R201) -/

theorem result_minus_one (t : Ty) : result t (-1) = result t (2 ^ width t - 1) :=
  result_congr t (by rw [sub_eq_neg_add, Int.add_emod_right])

theorem value_of_signed {t : Ty} (hs : signed t = true) (v : DWord) : value t v = (v.setWidth (width t)).toInt := if_pos hs

/-- The least value over −1 does not fit, and comes back modulo 2^n. -/
theorem result_overflow (t : Ty) : result t (2 ^ (width t - 1)) = result t (-(2 ^ (width t - 1))) := by
  have hpow : (2 : Int) ^ width t = 2 * 2 ^ (width t - 1) := (mul_pow_sub_one (width_pos t).ne' 2).symm
  refine result_congr t ?_
  calc (2 : Int) ^ (width t - 1) % 2 ^ width t = (-(2 ^ (width t - 1)) + 2 ^ width t) % 2 ^ width t := by
        congr 1
        rw [hpow]
        ring
    _ = -(2 ^ (width t - 1)) % 2 ^ width t := Int.add_emod_right ..

theorem intDiv_eq {t : Ty} (ht : tyBits t = width t) (x y : DWord) : intDiv t x y = result t (quotient t (value t x) (value t y)) := by
  simp only [intDiv, quotient, readInt_eq_value ht, putInt_eq_result ht]
  split
  · exact result_minus_one t
  split
  next h =>
    obtain ⟨-, ha, hb⟩ := h
    rw [ha, hb, Int.tdiv_neg, Int.tdiv_one, neg_neg, result_overflow]
  next => rfl

theorem intRem_eq {t : Ty} (ht : tyBits t = width t) (x y : DWord) : intRem t x y = result t (remainder t (value t x) (value t y)) := by
  simp only [intRem, remainder, readInt_eq_value ht, putInt_eq_result ht]
  split
  · rfl
  split
  next h =>
    obtain ⟨-, ha, hb⟩ := h
    rw [hb, Int.tmod_neg, Int.tmod_one]
  next => rw [Int.tmod_def, mul_comm]

/-! ## Shifts and rotates (09 R202) -/

theorem sar_type {t : Ty} : (t == .i32 || t == .i64) = true → tyBits t = width t := by cases t <;> decide

theorem rawOf_eq_toNat {t : Ty} (ht : tyBits t = width t) (v : DWord) : rawOf t v = (v.setWidth (width t)).toNat := by
  rw [rawOf, ht, BitVec.toNat_setWidth]

/-- The high k bits of an n-bit number come in below the others. -/
theorem rotate_or_eq_add {n k x : Nat} (hk : k ≤ n) (hx : x < 2 ^ n) :
    x * 2 ^ k % 2 ^ n ||| x / 2 ^ (n - k) = (x * 2 ^ k + x / 2 ^ (n - k)) % 2 ^ n := by
  have hpow : 2 ^ n = 2 ^ k * 2 ^ (n - k) := by rw [← pow_add, Nat.add_sub_cancel' hk]
  have hhigh : x / 2 ^ (n - k) < 2 ^ k := Nat.div_lt_of_lt_mul (by rwa [mul_comm, ← hpow])
  have hlow : x * 2 ^ k % 2 ^ n = 2 ^ k * (x % 2 ^ (n - k)) := by rw [hpow, mul_comm, Nat.mul_mod_mul_left]
  have hsum : 2 ^ k * (x % 2 ^ (n - k)) + x / 2 ^ (n - k) < 2 ^ n := by
    calc 2 ^ k * (x % 2 ^ (n - k)) + x / 2 ^ (n - k) < 2 ^ k * (x % 2 ^ (n - k)) + 2 ^ k := by omega
      _ = 2 ^ k * (x % 2 ^ (n - k) + 1) := rfl
      _ ≤ 2 ^ k * 2 ^ (n - k) := Nat.mul_le_mul_left _ (Nat.mod_lt _ (Nat.two_pow_pos _))
      _ = 2 ^ n := hpow.symm
  rw [hlow, ← Nat.two_pow_add_eq_or_of_lt hhigh, ← Nat.mod_add_mod, hlow, Nat.mod_eq_of_lt hsum]

theorem toNat_rotateLeft_add {n : Nat} (x : BitVec n) {k : Nat} (hk : k < n) :
    (x.rotateLeft k).toNat = (x.toNat * 2 ^ k + x.toNat / 2 ^ (n - k)) % 2 ^ n := by
  rw [BitVec.toNat_rotateLeft, Nat.mod_eq_of_lt hk, Nat.shiftLeft_eq, Nat.shiftRight_eq_div_pow, rotate_or_eq_add hk.le x.isLt]

theorem toNat_rotateRight_add {n : Nat} (x : BitVec n) {k : Nat} (hk : k < n) :
    (x.rotateRight k).toNat = (x.toNat / 2 ^ k + x.toNat * 2 ^ (n - k)) % 2 ^ n := by
  have h := rotate_or_eq_add (Nat.sub_le n k) x.isLt
  rw [Nat.sub_sub_self hk.le] at h
  rw [BitVec.toNat_rotateRight, Nat.mod_eq_of_lt hk, Nat.shiftLeft_eq, Nat.shiftRight_eq_div_pow, Nat.or_comm, h, add_comm]

/-- The shifts and rotates. -/
theorem shift_completes {k : Hdr → Ty → Reg → Src → Src → Instr} {f : Ty → DWord → DWord → DWord} (hk : Shift k f) (h : Hdr) (t : Ty)
    (d : Reg) (a b : Src) : Completes2 (k h t d a b) h d a b (f t) := by
  cases hk with
  | shl =>
    refine completes2 (fun _ => rfl) fun hw x y => ?_
    have ht : tyBits t = width t := tyBits_of_isRaw (band hw).1
    simp only [bitShl, rawBits, rawOf_eq_toNat ht, countOf_eq_count, ht, ge_iff_le, BitVec.natCast_eq_ofNat]
  | shr =>
    refine completes2 (fun _ => rfl) fun hw x y => ?_
    have ht : tyBits t = width t := tyBits_of_isRaw (band hw).1
    simp only [bitShr, rawBits, rawOf_eq_toNat ht, countOf_eq_count, ht, ge_iff_le, BitVec.natCast_eq_ofNat]
    rw [Nat.mod_eq_of_lt ((Nat.div_le_self _ _).trans_lt (BitVec.isLt _))]
  | sar =>
    refine completes2 (fun _ => rfl) fun hw x y => ?_
    have ht : tyBits t = width t := sar_type (band hw).1
    rw [bitSar, putInt_eq_result ht, readInt_eq_value ht, countOf_eq_count, ht, Nat.cast_pow, Nat.cast_ofNat]
  | rol =>
    refine completes2 (fun _ => rfl) fun hw x y => ?_
    have ht : tyBits t = width t := tyBits_of_isRaw (band hw).1
    simp only [bitRol, rawBits, rawOf_eq_toNat ht, countOf_eq_count, ht]
    rw [← toNat_rotateLeft_add _ (Nat.mod_lt _ (width_pos t))]
    rw [BitVec.ofNat_toNat]
  | ror =>
    refine completes2 (fun _ => rfl) fun hw x y => ?_
    have ht : tyBits t = width t := tyBits_of_isRaw (band hw).1
    simp only [bitRor, rawBits, rawOf_eq_toNat ht, countOf_eq_count, ht]
    rw [← toNat_rotateRight_add _ (Nat.mod_lt _ (width_pos t)), BitVec.ofNat_toNat]

/-- Settles O2: division goes by the quotient's sign rules, and a shift or rotate works on the low n bits. -/
theorem divisionsAndShifts : Obligations.DivisionsAndShifts :=
  ⟨fun _ _ _ _ _ => ⟨completes2 (fun _ => rfl) fun hw => intDiv_eq (tyBits_of_isInt32Up (band hw).1),
    completes2 (fun _ => rfl) fun hw => intRem_eq (tyBits_of_isInt32Up (band hw).1)⟩, fun _ _ => shift_completes⟩

/-! ## Numbers of bits -/

theorem ofBits_succ (n : Nat) (b : Nat → Bool) : ofBits (n + 1) b = 2 ^ n * (b n).toNat + ofBits n b := by
  have hbit : (if b n then 2 ^ n else 0) = 2 ^ n * (b n).toNat := by cases b n <;> simp
  simp only [ofBits, List.range_succ, List.map_append, List.map_cons, List.map_nil, List.sum_append, List.sum_cons, List.sum_nil, hbit]
  omega

theorem ofBits_lt (n : Nat) (b : Nat → Bool) : ofBits n b < 2 ^ n := by
  induction n with
  | zero => exact Nat.one_pos
  | succ n ih =>
    have hbit : 2 ^ n * (b n).toNat ≤ 2 ^ n * 1 := Nat.mul_le_mul_left _ (Bool.toNat_le _)
    rw [ofBits_succ, pow_succ]
    omega

/-- The bits of `ofBits` are the given ones. -/
theorem testBit_ofBits (n : Nat) (b : Nat → Bool) (k : Nat) : (ofBits n b).testBit k = (decide (k < n) && b k) := by
  induction n with
  | zero => simp [ofBits]
  | succ n ih =>
    rw [ofBits_succ, Nat.testBit_two_pow_mul_add _ (ofBits_lt n b), ih]
    obtain h | rfl | h := lt_trichotomy k n
    · simp [h, h.trans (Nat.lt_succ_self n)]
    · cases b k <;> simp
    · have hbit : (b n).toNat.testBit (k - n) = false :=
        Nat.testBit_lt_two_pow ((Bool.toNat_lt _).trans_le (Nat.le_self_pow (by omega) 2))
      rw [if_neg (by omega), hbit]
      simp [show ¬ k < n + 1 by omega]

/-- A number below 2^n is of its lowest n bits. -/
theorem eq_ofBits {n x : Nat} {b : Nat → Bool} (hx : x < 2 ^ n) (hb : ∀ k < n, x.testBit k = b k) : x = ofBits n b := by
  refine Nat.eq_of_testBit_eq fun k => ?_
  rw [testBit_ofBits]
  by_cases hk : k < n
  · simp [hk, hb k hk]
  · simp [hk, Nat.testBit_lt_two_pow (hx.trans_le (Nat.pow_le_pow_right two_pos (not_lt.mp hk)))]

/-- A number read bit after bit, the first one highest, is of its bits in the other order. -/
theorem foldl_bits_eq_ofBits (b : Nat → Bool) (n : Nat) :
    (List.range n).foldl (fun acc k => acc * 2 + if b k then 1 else 0) 0 = ofBits n fun k => b (n - 1 - k) := by
  induction n with
  | zero => rfl
  | succ n ih =>
    rw [List.range_succ, List.foldl_append, ih, List.foldl_cons, List.foldl_nil]
    refine eq_ofBits ?_ fun k hk => ?_
    · have := ofBits_lt n fun k => b (n - 1 - k)
      rw [pow_succ]
      split <;> omega
    · cases k with
      | zero => cases h : b n <;> simp [h, Nat.testBit_zero]
      | succ k =>
        have hhalf : (ofBits n (fun k => b (n - 1 - k)) * 2 + if b n then 1 else 0) / 2 = ofBits n fun k => b (n - 1 - k) := by
          split <;> omega
        rw [Nat.testBit_succ, hhalf, testBit_ofBits]
        have : n - 1 - k = n + 1 - 1 - (k + 1) := by omega
        simp [this, show k < n by omega]

/-! ## Bit fields and counts (09 R203) -/

theorem testBit_rawOf {t : Ty} (ht : tyBits t = width t) (v : DWord) {k : Nat} (hk : k < width t) : (rawOf t v).testBit k = v.getLsbD k := by
  rw [rawOf_eq_toNat ht, ← BitVec.getLsbD, BitVec.getLsbD_setWidth]
  simp [hk]

theorem rawOf_lt {t : Ty} (ht : tyBits t = width t) (v : DWord) : rawOf t v < 2 ^ width t := by
  rw [rawOf_eq_toNat ht]
  exact BitVec.isLt _

/-- Bit k of a source shifted down by p, as its type extends it. -/
theorem bitAt_shifted (t : Ty) (a : DWord) (p k : Nat) (hk : k < width t) :
    (if signed t then (a.setWidth (width t)).sshiftRight p else (a.setWidth (width t)) >>> p).getLsbD k = bitAt t a (p + k) := by
  have hlt := width_le t
  have hpos := width_pos t
  unfold bitAt
  cases signed t
  · by_cases h : p + k < width t <;> simp [h]
  · by_cases h : p + k < width t
    · simp [h, BitVec.getLsbD_sshiftRight, show ¬ width t ≤ k by omega]
    · simp [h, BitVec.getLsbD_sshiftRight, show ¬ width t ≤ k by omega, BitVec.msb_eq_getLsbD_last]
      omega

/-- The low m bits of a signed number are those of its word. -/
theorem toInt_emod_two_pow {n m : Nat} (hm : m ≤ n) (x : BitVec n) : x.toInt % (2 ^ m : Nat) = (x.toNat % 2 ^ m : Nat) := by
  have hdvd : ((2 ^ m : Nat) : Int) ∣ (2 ^ n : Nat) := Int.natCast_dvd_natCast.mpr (Nat.pow_dvd_pow 2 hm)
  rw [BitVec.toInt_eq_toNat_cond]
  split
  · rfl
  · rw [Int.sub_emod, Int.emod_eq_zero_of_dvd hdvd, Int.sub_zero, Int.emod_emod, Int.natCast_emod]

/-- The field of m bits of a source, with its highest bit for a sign. -/
def field (t : Ty) (a : DWord) (p m : Nat) : BitVec m :=
  (if signed t then (a.setWidth (width t)).sshiftRight p else (a.setWidth (width t)) >>> p).setWidth m

theorem getLsbD_field {t : Ty} (a : DWord) (p : Nat) {m k : Nat} (hm : m ≤ width t) (hk : k < m) :
    (field t a p m).getLsbD k = bitAt t a (p + k) := by
  rw [field, BitVec.getLsbD_setWidth, bitAt_shifted t a p k (by omega)]
  simp [hk]

/-- The model's arithmetic on a source takes its field. -/
theorem value_field {t : Ty} (a : DWord) (p : Nat) {m : Nat} (hm : m ≤ width t) :
    value t a / (2 ^ p : Nat) % (2 ^ m : Nat) = (field t a p m).toNat := by
  unfold value field
  cases signed t
  · simp [Nat.shiftRight_eq_div_pow]
  · simp only [if_true]
    rw [BitVec.toNat_setWidth, ← toInt_emod_two_pow hm, BitVec.toInt_sshiftRight, Int.shiftRight_eq_div_pow]

theorem toInt_field {m : Nat} (x : BitVec m) :
    x.toInt = if (x.toNat : Int) ≥ (2 ^ (m - 1) : Nat) then (x.toNat : Int) - (2 ^ m : Nat) else x.toNat := by
  rw [BitVec.toInt_eq_toNat_cond]
  cases m with
  | zero => simp [BitVec.eq_nil x]
  | succ m =>
    rw [Nat.add_sub_cancel]
    split <;> split <;> omega

theorem result_zero (t : Ty) : result t 0 = 0 := by
  cases t <;> rfl

/-- The result of a field of a length is its bits, extended by its type. -/
theorem result_field {t : Ty} (a : DWord) (p : Nat) {len : Nat} (hpos : 0 < len) :
    result t (if signed t then (field t a p (min len (width t))).toInt else (field t a p (min len (width t))).toNat) =
      result t (ofBits (width t) fun k =>
        if k < len then bitAt t a (p + k) else signed t && bitAt t a (p + (min len (width t) - 1)) : Nat) := by
  have hw := width_pos t
  have hm : min len (width t) ≤ width t := min_le_right _ _
  have hmsb : (field t a p (min len (width t))).msb = bitAt t a (p + (min len (width t) - 1)) := by
    rw [BitVec.msb_eq_getLsbD_last, getLsbD_field a p hm (by omega)]
  have hbits : BitVec.ofInt (width t) (if signed t then (field t a p (min len (width t))).toInt else (field t a p (min len (width t))).toNat) =
      BitVec.ofNat (width t) (ofBits (width t) fun k =>
        if k < len then bitAt t a (p + k) else signed t && bitAt t a (p + (min len (width t) - 1))) := by
    refine BitVec.eq_of_getLsbD_eq fun k hk => ?_
    rw [BitVec.getLsbD_ofNat, testBit_ofBits]
    cases hs : signed t with
    | true =>
      rw [if_pos rfl, ← BitVec.signExtend, BitVec.getLsbD_signExtend, hmsb]
      by_cases hkm : k < len
      · rw [getLsbD_field a p hm (by omega)]
        simp [hk, hkm]
      · simp [hk, hkm]
    | false =>
      rw [if_neg Bool.false_ne_true, BitVec.ofInt_natCast, BitVec.ofNat_toNat, BitVec.getLsbD_setWidth]
      by_cases hkm : k < len
      · rw [getLsbD_field a p hm (by omega)]
        simp [hk, hkm]
      · simp [hkm, BitVec.getLsbD_of_ge _ k (show min len (width t) ≤ k by omega)]
  simp only [result, hbits, BitVec.ofInt_natCast]

theorem bitExtract_eq {t : Ty} (ht : tyBits t = width t) (a f : DWord) : bitExtract t a f = extracted t a f := by
  have hpos := width_pos t
  unfold bitExtract extracted fieldPos fieldLen
  generalize f.toNat % 256 = p
  generalize f.toNat / 256 % 256 = len
  have hzero : min len (width t) = 0 ↔ len = 0 := by omega
  simp only [Nat.min_eq_min, ht, putInt_eq_result ht, readInt_eq_value ht, isSigned_eq_signed, value_field a p (min_le_right len (width t)), hzero]
  split
  · exact (result_zero t).symm
  · rw [← result_field a p (by omega), toInt_field]
    cases signed t <;> simp

theorem bitInsert_eq {t : Ty} (ht : tyBits t = width t) (a b f : DWord) : bitInsert t a b f = inserted t a b f := by
  rw [bitInsert, inserted, rawBits, BitVec.natCast_eq_ofNat, ht]
  congr 1
  refine eq_ofBits (Nat.mod_lt _ (Nat.two_pow_pos _)) fun k hk => ?_
  have hmask : ((2 ^ fieldLen f - 1) * 2 ^ fieldPos f % 2 ^ width t).testBit k =
      decide (fieldPos f ≤ k ∧ k < fieldPos f + fieldLen f) := by
    rw [Nat.testBit_mod_two_pow, Nat.testBit_mul_two_pow, Nat.testBit_two_pow_sub_one]
    grind
  have hrest := Nat.testBit_two_pow_sub_succ (Nat.mod_lt ((2 ^ fieldLen f - 1) * 2 ^ fieldPos f) (Nat.two_pow_pos (width t))) k
  rw [hmask, Nat.add_comm, ← Nat.sub_sub] at hrest
  change (((rawOf t a &&& (2 ^ width t - 1 - (2 ^ fieldLen f - 1) * 2 ^ fieldPos f % 2 ^ width t)) |||
    (rawOf t b * 2 ^ fieldPos f &&& (2 ^ fieldLen f - 1) * 2 ^ fieldPos f % 2 ^ width t)) % 2 ^ width t).testBit k = _
  rw [Nat.testBit_mod_two_pow, Nat.testBit_or, Nat.testBit_and, Nat.testBit_and, hrest, hmask, testBit_rawOf ht a hk, Nat.testBit_mul_two_pow]
  by_cases hin : fieldPos f ≤ k ∧ k < fieldPos f + fieldLen f
  · simp [hin, hk, testBit_rawOf ht b (show k - fieldPos f < width t by omega)]
  · simp [hin, hk]

/-- The numbers from 0 on, up to where the predicate first fails. -/
theorem length_takeWhile_range {p : Nat → Bool} {n j : Nat} (hj : j ≤ n) (hall : ∀ i < j, p i = true) (hstop : j < n → p j = false) :
    ((List.range n).takeWhile p).length = j := by
  obtain ⟨m, rfl⟩ := Nat.exists_eq_add_of_le hj
  rw [List.range_add, List.takeWhile_append_of_pos (by simpa using hall)]
  cases m with
  | zero => simp
  | succ m => simp [List.range_succ_eq_map, hstop (by omega)]

/-- `clz` of a number of n bits. -/
theorem leadingZeros_eq {n x : Nat} (hx : x < 2 ^ n) :
    (if x = 0 then n else n - 1 - x.log2) = (((List.range n).map fun k => n - 1 - k).takeWhile fun k => !x.testBit k).length := by
  rw [List.takeWhile_map, List.length_map]
  symm
  split
  next h0 => exact length_takeWhile_range le_rfl (by simp [h0]) fun h => absurd h (lt_irrefl _)
  next h0 =>
    have hlog : x.log2 < n := (Nat.log2_lt h0).mpr hx
    refine length_takeWhile_range (by omega) (fun i hi => ?_) fun _ => ?_
    · have hlt : x < 2 ^ (n - 1 - i) := (Nat.log2_lt h0).mp (by omega)
      simp [Nat.testBit_lt_two_pow hlt]
    · simp [show n - 1 - (n - 1 - x.log2) = x.log2 by omega, Nat.testBit_log2 h0]

/-- `ctz` of a number of n bits. -/
theorem trailingZeros_eq (n : Nat) (p : Nat → Bool) : ((List.range n).find? p).getD n = ((List.range n).takeWhile fun k => !p k).length := by
  symm
  cases h : (List.range n).find? p with
  | none =>
    rw [List.find?_eq_none] at h
    exact length_takeWhile_range le_rfl (fun i hi => by simpa using h i (List.mem_range.mpr hi)) fun h => absurd h (lt_irrefl _)
  | some j =>
    obtain ⟨hp, hj, hall⟩ := List.find?_range_eq_some.mp h
    exact length_takeWhile_range (List.mem_range.mp hj).le hall fun _ => by simpa using hp

theorem takeWhile_congr {α : Type} {p q : α → Bool} {l : List α} (h : ∀ a ∈ l, p a = q a) : l.takeWhile p = l.takeWhile q := by
  induction l with
  | nil => rfl
  | cons a l ih =>
    rw [List.takeWhile_cons, List.takeWhile_cons, h a (by simp), ih fun b hb => h b (by simp [hb])]

section
variable {t : Ty} (ht : tyBits t = width t)
include ht

theorem bitReverse_eq (x : DWord) : bitReverse t x = (ofBits (width t) fun k => x.getLsbD (width t - 1 - k) : Nat) := by
  have hbits : (ofBits (width t) fun k => (rawOf t x).testBit (width t - 1 - k)) = ofBits (width t) fun k => x.getLsbD (width t - 1 - k) :=
    eq_ofBits (ofBits_lt ..) fun k hk => by
      rw [testBit_ofBits, testBit_rawOf ht x (by omega)]
      simp [hk]
  rw [bitReverse, rawBits, foldl_bits_eq_ofBits, ht, hbits, Nat.mod_eq_of_lt (ofBits_lt ..), BitVec.natCast_eq_ofNat]

theorem bitCount_eq (x : DWord) : bitCount t x = (((List.range (width t)).filter fun k => x.getLsbD k).length : Nat) := by
  rw [bitCount, ht, List.countP_eq_length_filter, BitVec.natCast_eq_ofNat,
    List.filter_congr fun k hk => testBit_rawOf ht x (List.mem_range.mp hk)]

theorem leadZeros_eq (x : DWord) :
    leadZeros t x = ((((List.range (width t)).map fun k => width t - 1 - k).takeWhile fun k => !x.getLsbD k).length : Nat) := by
  have hpos := width_pos t
  rw [leadZeros, ht, leadingZeros_eq (rawOf_lt ht x), BitVec.natCast_eq_ofNat, takeWhile_congr fun k hk => ?_]
  obtain ⟨j, hj, rfl⟩ := List.mem_map.mp hk
  rw [testBit_rawOf ht x (by omega)]

theorem trailZeros_eq (x : DWord) : trailZeros t x = (((List.range (width t)).takeWhile fun k => !x.getLsbD k).length : Nat) := by
  rw [trailZeros, ht, trailingZeros_eq, BitVec.natCast_eq_ofNat,
    takeWhile_congr fun k hk => by rw [testBit_rawOf ht x (List.mem_range.mp hk)]]

end

/-- The one-source rows. -/
theorem bitUn_completes {k : Hdr → Ty → Reg → Src → Instr} {f : Ty → DWord → DWord} (hk : BitUn k f) (h : Hdr) (t : Ty) (d : Reg) (a : Src) :
    Completes1 (k h t d a) h d a (f t) := by
  cases hk with
  | bfrev => exact completes1 (fun _ => rfl) fun hw x => by rw [bitReverse_eq (tyBits_of_isRaw (band hw).1)]
  | popc => exact completes1 (fun _ => rfl) fun hw x => by rw [bitCount_eq (tyBits_of_isRaw (band hw).1)]
  | clz => exact completes1 (fun _ => rfl) fun hw x => by rw [leadZeros_eq (tyBits_of_isRaw (band hw).1)]
  | ctz => exact completes1 (fun _ => rfl) fun hw x => by rw [trailZeros_eq (tyBits_of_isRaw (band hw).1)]

/-- Settles O3: the model's arithmetic on fields and counts, read bit by bit. -/
theorem bitFieldResults : Obligations.BitFieldResults :=
  ⟨fun _ _ _ _ _ => completes2 (fun _ => rfl) fun hw => bitExtract_eq (tyBits_of_isInt32Up (band hw).1),
    fun _ _ _ _ _ _ => completes3 (fun _ => rfl) fun hw => bitInsert_eq (tyBits_of_isRaw (band hw).1),
    fun _ _ => bitUn_completes⟩

/-! ## Moves (09 R204, R205) -/

theorem leaSum_eq {t : Ty} (ht : tyBits t = width t) (x y z : DWord) :
    leaSum t x y z = BitVec.ofInt 64 (x.toNat + value t y * 2 ^ (count z % 64)) := by
  rw [leaSum, readInt_eq_value ht, countOf_eq_count, Nat.cast_pow, Nat.cast_ofNat]

/-- `sel` reads its predicate, and of its sources the selected one. -/
theorem sel_completes {h : Hdr} {d : Reg} {a b : Src} {p : PReg} {s : State} {iss : Issue} {rest : List Issue}
    (hi : AtIssue s (.sel h d a b p) h iss rest)
    (hl : ∀ l ∈ active s iss rest h, l.t.predEmpty p.toNat = false ∧
      Readable (left s rest) l (Src.refs (if l.t.pred p.toNat then a else b)) ∧ Writable (left s rest) l (Reg.refs d)) :
    exec (.sel h d a b p) s = .next (written s iss rest h
      (fun l => destWrites d ((left s rest).srcVal l (if l.t.pred p.toNat then a else b))) fun _ => none) := by
  refine congrArg _ (runLanes_write _ h _ s iss rest _ _ hi fun l hmem u hu => ?_)
  obtain ⟨hp, hr, hw⟩ := hl l hmem
  have hread : u.readCheck l ((Src.refs (if l.t.pred p.toNat then a else b)).map
      fun r => (r, l.hint (if l.t.pred p.toNat then 77 else 76))) = none :=
    readCheck_ok u l _ fun r hr' => by
      obtain ⟨q, hq, rfl⟩ := List.mem_map.mp hr'
      exact Readable.only hu hr q hq
  simp only [hp, Bool.false_eq_true, if_false, hread, destCheck_ok u l _ (Writable.only hu hw), srcVal_only hu]

/-- Settles O4. -/
theorem moveResults : Obligations.MoveResults :=
  ⟨fun _ _ _ _ _ _ => completes3 (fun _ => rfl) fun hw => leaSum_eq (tyBits_of_isInt32Up (band hw).1),
    fun _ _ _ => completes1 (fun _ => rfl) fun _ _ => rfl,
    fun _ _ _ => completes_of_writes (fun _ => rfl) fun _ _ u l _ _ hw => compute_ok u l [] _ _ (fun _ => nofun) hw,
    fun _ _ _ _ _ _ _ _ _ hi hl => sel_completes hi hl⟩

end Sys2Proof.Proofs

/-! PROOFS. Chapter 06, F32 words: what a word decodes to (06 R135), and its place in the order of values. -/

namespace Sys2Proof.Proofs

open Sys2Proof.Machine Sys2Proof.Safety Sys2Proof.Claims Sys2Proof.Laws

/-! ## The three kinds of words -/

/-- The bits of a word below its sign. -/
def magBits (w : Word) : Nat := w.toNat % 2 ^ 31

/-- The significand of a finite word. -/
def sigOf (w : Word) : Nat := if magBits w < 2 ^ 23 then magBits w else 2 ^ 23 + magBits w % 2 ^ 23

/-- The exponent of a finite word's last place. -/
def expOf (w : Word) : Int := (max (magBits w / 2 ^ 23) 1 : Nat) - 150

theorem isNaN_iff {w : Word} : isNaN w = true ↔ 0x7F800000 < magBits w := decide_eq_true_iff
theorem isInf_iff {w : Word} : isInf w = true ↔ magBits w = 0x7F800000 := decide_eq_true_iff
theorem isZero_iff {w : Word} : isZero w = true ↔ magBits w = 0 := decide_eq_true_iff

theorem magBits_lt (w : Word) : magBits w < 2 ^ 31 := Nat.mod_lt _ (Nat.two_pow_pos _)

theorem testBit_31 (w : Word) : w.toNat.testBit 31 = w.msb := (BitVec.msb_eq_getLsbD_last w).symm

theorem decode_f32 (w : Word) : f32v w =
    if magBits w > 0x7F7FFFFF then if some 0x7F800000 == some (magBits w) then .inf w.msb else .nan
    else if magBits w / 2 ^ 23 = 0 then .fin w.msb (magBits w % 2 ^ 23) (-149)
      else .fin w.msb (2 ^ 23 + magBits w % 2 ^ 23) ((magBits w / 2 ^ 23 : Nat) - 150) := by
  have he : ((magBits w / 2 ^ 23 : Nat) : Int) - 127 - (23 : Nat) = (magBits w / 2 ^ 23 : Nat) - 150 := by omega
  rw [← testBit_31, ← he]
  rfl

theorem f32v_nan {w : Word} (h : isNaN w = true) : f32v w = .nan := by
  rw [isNaN_iff] at h
  rw [decode_f32, if_pos (by omega), if_neg (by simp; omega)]

theorem f32v_inf {w : Word} (h : isInf w = true) : f32v w = .inf w.msb := by
  rw [isInf_iff] at h
  rw [decode_f32, h]
  rfl

/-- A word is finite. -/
def IsFinite (w : Word) : Prop := magBits w < 0x7F800000

theorem f32v_fin {w : Word} (h : IsFinite w) : f32v w = .fin w.msb (sigOf w) (expOf w) := by
  unfold IsFinite at h
  rw [decode_f32, if_neg (by omega), sigOf, expOf]
  by_cases hs : magBits w < 2 ^ 23
  · rw [if_pos (Nat.div_eq_of_lt hs), if_pos hs, Nat.mod_eq_of_lt hs, Nat.div_eq_of_lt hs]
    rfl
  · have hd : 1 ≤ magBits w / 2 ^ 23 := Nat.div_pos (not_lt.mp hs) (Nat.two_pow_pos _)
    rw [if_neg (by omega), if_neg hs, max_eq_left hd]

/-- A word is a NaN, an infinity, or finite. -/
theorem kinds (w : Word) : isNaN w = true ∨ isInf w = true ∨ IsFinite w := by
  rw [isNaN_iff, isInf_iff, IsFinite]
  omega

theorem IsFinite.not_nan {w : Word} (h : IsFinite w) : isNaN w = false := by
  rw [← Bool.not_eq_true, isNaN_iff]
  unfold IsFinite at h
  omega

theorem IsFinite.not_inf {w : Word} (h : IsFinite w) : isInf w = false := by
  rw [← Bool.not_eq_true, isInf_iff]
  unfold IsFinite at h
  omega

theorem not_nan_of_inf {w : Word} (h : isInf w = true) : isNaN w = false := by
  rw [← Bool.not_eq_true, isNaN_iff]
  rw [isInf_iff] at h
  omega

theorem sigOf_eq_zero {w : Word} : sigOf w = 0 ↔ isZero w = true := by
  rw [isZero_iff, sigOf]
  split <;> omega

/-! ## Values (06 R135) -/

theorem sizeOf_eq_gridValue {w : Word} (h : IsFinite w) : Claims.sizeOf w = gridValue .f32 (magBits w) :=
  magnitude_eq_gridValue (f := .f32) (c := magBits w) (Nat.le_of_lt_succ h)

theorem sizeOf_eq {w : Word} (h : IsFinite w) : Claims.sizeOf w = sigOf w * 2 ^ expOf w := by
  have he : expOf w = (max (magBits w / 2 ^ 23) 1 : Nat) - 127 - (23 : Nat) := by
    unfold expOf
    omega
  rw [sizeOf_eq_gridValue h, he]
  rfl

/-- The value of a sign, a significand and an exponent. -/
def signedValue (s : Bool) (a : Nat) (e : Int) : ℚ := if s then -(a * 2 ^ e) else a * 2 ^ e

theorem valueOf_eq {w : Word} (h : IsFinite w) : valueOf w = signedValue w.msb (sigOf w) (expOf w) := by
  rw [valueOf, sizeOf_eq h, signedValue]

/-- A finite value in units of 2^k, where its exponent is no less. -/
theorem scaled_value (s : Bool) (a : Nat) {e k : Int} (h : k ≤ e) : ((FVal.fin s a e).scaled k : ℚ) * 2 ^ k = signedValue s a e := by
  obtain ⟨n, hn⟩ := Int.eq_ofNat_of_zero_le (sub_nonneg.mpr h)
  have hpow : (2 : ℚ) ^ n * 2 ^ k = 2 ^ e := by
    rw [← zpow_natCast, ← zpow_add₀ two_ne_zero]
    congr 1
    omega
  simp only [FVal.scaled, signedValue, hn, Int.toNat_natCast, ← hpow]
  cases s <;> push_cast <;> simp <;> ring

/-- Numbers of a common unit compare as the values do. -/
theorem scaled_lt_iff {s u : Bool} {a b : Nat} {e f : Int} :
    (FVal.fin s a e).scaled (min e f) < (FVal.fin u b f).scaled (min e f) ↔ signedValue s a e < signedValue u b f := by
  rw [← scaled_value s a (min_le_left e f), ← scaled_value u b (min_le_right e f), mul_lt_mul_iff_left₀ (two_zpow_pos _), Int.cast_lt]

theorem scaled_eq_iff {s u : Bool} {a b : Nat} {e f : Int} :
    (FVal.fin s a e).scaled (min e f) = (FVal.fin u b f).scaled (min e f) ↔ signedValue s a e = signedValue u b f := by
  rw [← scaled_value s a (min_le_left e f), ← scaled_value u b (min_le_right e f), mul_left_inj' (two_zpow_pos _).ne', Int.cast_inj]

theorem rank_eq (w : Word) : rank w = if w.msb then -(magBits w : Int) else magBits w := by
  unfold rank
  split
  · rfl
  next h =>
    have hlt : w.toNat < 2 ^ 31 := BitVec.toNat_lt_of_msb_false (by simpa using h)
    rw [magBits, Nat.mod_eq_of_lt hlt]

theorem gridValue_zero (f : FForm) : gridValue f 0 = 0 := by
  simp [gridValue]

/-- Magnitudes that grow from 0 on order signed values as their numbers do. -/
theorem signed_lt_iff {g : Nat → ℚ} (mono : StrictMono g) (zero : g 0 = 0) (s u : Bool) (a b : Nat) :
    ((if s then -g a else g a) < if u then -g b else g b) ↔ (if s then -(a : Int) else a) < if u then -(b : Int) else b := by
  have nonneg : ∀ c, 0 ≤ g c := fun c => zero ▸ mono.monotone (Nat.zero_le c)
  have eq_zero : ∀ c, g c = 0 ↔ c = 0 := fun c => by rw [← zero, mono.injective.eq_iff]
  have ha := nonneg a
  have hb := nonneg b
  cases s <;> cases u <;> simp only [if_true, Bool.false_eq_true, if_false, neg_lt_neg_iff, mono.lt_iff_lt, Nat.cast_lt]
  · exact iff_of_false (by linarith) (by omega)
  · have hnot : g b ≤ -g a ↔ (b : Int) ≤ -a := by
      constructor
      · intro h
        have h1 := (eq_zero a).mp (by linarith)
        have h2 := (eq_zero b).mp (by linarith)
        omega
      · intro h
        obtain rfl : a = 0 := by omega
        obtain rfl : b = 0 := by omega
        simp [zero]
    rw [← not_le, hnot, not_le]

/-- The rank of a word orders the finite values. -/
theorem valueOf_lt_iff {v w : Word} (hv : IsFinite v) (hw : IsFinite w) : valueOf v < valueOf w ↔ rank v < rank w := by
  rw [valueOf, valueOf, rank_eq, rank_eq, sizeOf_eq_gridValue hv, sizeOf_eq_gridValue hw]
  exact signed_lt_iff (gridValue_strictMono .f32) (gridValue_zero .f32) ..

theorem valueOf_eq_iff {v w : Word} (hv : IsFinite v) (hw : IsFinite w) : valueOf v = valueOf w ↔ rank v = rank w := by
  rw [← not_iff_not, ← ne_eq, ← ne_eq, ne_iff_lt_or_gt, ne_iff_lt_or_gt, valueOf_lt_iff hv hw, valueOf_lt_iff hw hv]

end Sys2Proof.Proofs

/-! PROOFS. Chapter 09, predicates and branches (O10, O11, O13). -/

namespace Sys2Proof.Proofs

open Sys2Proof.Machine Sys2Proof.Safety Sys2Proof.Claims Sys2Proof.Laws

/-! ## Comparisons and classes (09 R218, R219) -/

theorem holds_eq_compares (c : Cmp) (a b : Int) : Cmp.holds c a b = compares c a b := by
  cases c with
  | eq => rfl
  | ne => exact (decide_not (p := a = b)).symm
  | lt | le | gt | ge => rfl

theorem tyBits_of_setp {c : Cmp} {t : Ty} (h : (t.isInt || (t.isRaw && (c == .eq || c == .ne))) = true) : tyBits t = width t := by
  rcases Bool.or_eq_true_iff.mp h with h | h
  · exact tyBits_of_isInt h
  · exact tyBits_of_isRaw (band h).1

theorem rank_inf {w : Word} (h : isInf w = true) : rank w = if w.msb then -0x7F800000 else 0x7F800000 := by
  rw [rank_eq, isInf_iff.mp h]
  rfl

theorem rank_fin {w : Word} (h : IsFinite w) : -0x7F800000 < rank w ∧ rank w < 0x7F800000 := by
  unfold IsFinite at h
  rw [rank_eq]
  split <;> omega

theorem outcome_nan {a b : Word} (h : isNaN a = true ∨ isNaN b = true) : outcome a b = 3 := if_pos h

theorem outcome_rank {a b : Word} (ha : isNaN a = false) (hb : isNaN b = false) :
    outcome a b = if rank a < rank b then 0 else if rank a = rank b then 1 else 2 := by simp [outcome, ha, hb]

/-- The comparison of two words goes by their ranks, or finds a NaN. -/
theorem fcompare_eq_outcome (a b : Word) : fcompare (f32v a) (f32v b) = outcome a b := by
  rcases kinds a with ha | ha | ha
  · rw [outcome_nan (.inl ha), f32v_nan ha]
    rfl
  · rcases kinds b with hb | hb | hb
    · rw [outcome_nan (.inr hb), f32v_inf ha, f32v_nan hb]
      rfl
    · rw [outcome_rank (not_nan_of_inf ha) (not_nan_of_inf hb), f32v_inf ha, f32v_inf hb, rank_inf ha, rank_inf hb]
      cases a.msb <;> cases b.msb <;> rfl
    · obtain ⟨hlo, hhi⟩ := rank_fin hb
      rw [outcome_rank (not_nan_of_inf ha) hb.not_nan, f32v_inf ha, f32v_fin hb, rank_inf ha, fcompare]
      cases a.msb <;> grind
  · rcases kinds b with hb | hb | hb
    · rw [outcome_nan (.inr hb), f32v_fin ha, f32v_nan hb]
      rfl
    · obtain ⟨hlo, hhi⟩ := rank_fin ha
      rw [outcome_rank ha.not_nan (not_nan_of_inf hb), f32v_fin ha, f32v_inf hb, rank_inf hb, fcompare]
      cases b.msb <;> grind
    · rw [outcome_rank ha.not_nan hb.not_nan, f32v_fin ha, f32v_fin hb]
      simp only [fcompare, scaled_lt_iff, scaled_eq_iff, ← valueOf_eq ha, ← valueOf_eq hb, valueOf_lt_iff ha hb, valueOf_eq_iff ha hb]

theorem fclassOf_eq_classOf (w : Word) : fclassOf w = Claims.classOf w := by
  have hm : w.toNat % 2 ^ 31 = magBits w := rfl
  simp only [fclassOf, Claims.classOf, hm]
  rcases kinds w with h | h | h
  · rw [f32v_nan h, if_pos (isNaN_iff.mp h)]
  · rw [f32v_inf h, isInf_iff.mp h]
    rfl
  · have hsub : sigOf w < 2 ^ 23 ↔ magBits w < 2 ^ 23 := by
      unfold sigOf
      split <;> omega
    have hzero : sigOf w = 0 ↔ magBits w = 0 := sigOf_eq_zero.trans isZero_iff
    unfold IsFinite at h
    rw [f32v_fin h, if_neg (by omega), if_neg (by omega)]
    simp only [hzero, hsub]

/-! ## Predicates from sources and from predicates (09 R218 to R220) -/

section
variable {s : State} {l : Lane}

theorem cmp2_ok {p : PReg} {a b : Src} (f : DWord → DWord → Bool) (hr : Readable s l (Src.refs a ++ Src.refs b))
    (hw : Writable s l [.p p.toNat]) : s.cmp2 l p a b f = .write [(.p p.toNat, boolWord (f (s.srcVal l a) (s.srcVal l b)))] none :=
  compute_ok s l [a, b] _ _ (by simpa using hr) hw

/-- A lane may read words and predicates that no trap-on-empty bit covers. -/
theorem readCheck_plain {rs : List WRef} (hr : Readable s l rs) : s.readCheck l (rs.map fun r => (r, false)) = none :=
  readCheck_srcs (xs := []) hr

theorem predOp_ok {p : PReg} {qs : List PReg} (f : List Bool → Bool) (hr : Readable s l (qs.map fun q => .p q.toNat))
    (hw : Writable s l [.p p.toNat]) :
    s.predOp l p qs f = .write [(.p p.toNat, boolWord (f (qs.map fun q => l.t.pred q.toNat)))] none := by
  have hread : s.readCheck l (qs.map fun q => (.p q.toNat, false)) = none := by
    simpa only [List.map_map, Function.comp_def] using readCheck_plain hr
  simp only [State.predOp, hread, destCheck_ok s l _ hw]

end

/-- A comparison of two sources completes. -/
theorem completesCmp {i : Instr} {h : Hdr} {p : PReg} {a b : Src} {f g : DWord → DWord → Bool}
    (hexec : ∀ s, exec i s = .next (s.runLanes i h fun s l => s.cmp2 l p a b g)) (hfg : WellFormed i = true → ∀ x y, g x y = f x y) :
    Completes i h (Src.refs a ++ Src.refs b) [.p p.toNat] fun s l => [(.p p.toNat, boolWord (f (s.srcVal l a) (s.srcVal l b)))] :=
  completes_of_writes hexec fun hwf s u l hu hr hw => by rw [cmp2_ok g hr hw, srcVal_only hu, srcVal_only hu, hfg hwf]

/-- Logic on predicates completes. -/
theorem completesPred {i : Instr} {h : Hdr} {p : PReg} {qs : List PReg} {f : List Bool → Bool}
    (hexec : ∀ s, exec i s = .next (s.runLanes i h fun s l => s.predOp l p qs f)) :
    Completes i h (qs.map fun q => .p q.toNat) [.p p.toNat] fun _ l => [(.p p.toNat, boolWord (f (qs.map fun q => l.t.pred q.toNat)))] :=
  completes_of_writes hexec fun _ _ _ _ _ hr hw => predOp_ok f hr hw

theorem predBin_completes {k : Hdr → PReg → PReg → PReg → Bool → Bool → Instr} {f : Bool → Bool → Bool} (hk : PredBin k f) (h : Hdr)
    (p a b : PReg) (na nb : Bool) : Completes (k h p a b na nb) h [.p a.toNat, .p b.toNat] [.p p.toNat] fun _ l =>
      [(.p p.toNat, boolWord (f (l.t.pred a.toNat != na) (l.t.pred b.toNat != nb)))] := by
  cases hk with
  | pand => exact completesPred (qs := [a, b]) (f := fun vs => (vs.getD 0 false != na) && (vs.getD 1 false != nb)) fun _ => rfl
  | por => exact completesPred (qs := [a, b]) (f := fun vs => (vs.getD 0 false != na) || (vs.getD 1 false != nb)) fun _ => rfl
  | pxor => exact completesPred (qs := [a, b]) (f := fun vs => (vs.getD 0 false != na) != (vs.getD 1 false != nb)) fun _ => rfl

/-! ## Moves between predicates and registers (09 R221) -/

theorem predWord_eq_ofBits (t : Thread) : t.predWord.setWidth 64 = ((ofBits 16 fun n => t.pred n : Nat) : DWord) := by
  rw [BitVec.natCast_eq_ofNat]
  refine BitVec.eq_of_getLsbD_eq fun k hk => ?_
  rw [BitVec.getLsbD_ofNat, testBit_ofBits, Thread.predWord, BitVec.getLsbD_setWidth, BitVec.getLsbD_setWidth]
  by_cases h : k < 16
  · rw [setBit16_get _ _ _ _ h]
    by_cases h0 : k = 0 <;> simp [h, hk, h0, Thread.pred, show k < 32 by omega]
  · simp [h, BitVec.getLsbD_of_ge _ k (not_lt.mp h)]

theorem pmovGet_completes (h : Hdr) (d : Reg) : Completes (.pmovGet h d) h ((List.range 16).map WRef.p) (Reg.refs d) fun _ l =>
    destWrites d (ofBits 16 fun n => l.t.pred n : Nat) :=
  completes_of_writes (fun _ => rfl) fun _ s u l _ hr hw => by
    have hread : u.readCheck l ((List.range 16).map fun n => (.p n, false)) = none := by
      simpa only [List.map_map, Function.comp_def] using readCheck_plain hr
    simp only [hread, destCheck_ok u l _ hw, predWord_eq_ofBits]

theorem pmovPut_completes {h : Hdr} {d : Reg} {a : Src} {s : State} {iss : Issue} {rest : List Issue}
    (hi : AtIssue s (.pmovPut h d a) h iss rest)
    (hl : ∀ l ∈ active s iss rest h, Readable (left s rest) l (Src.refs a ++ Reg.refs d) ∧
      Writable (left s rest) l ((putMask ((left s rest).srcVal l a)).map WRef.p)) :
    exec (.pmovPut h d a) s = .next (written s iss rest h
      (fun l => (putMask ((left s rest).srcVal l a)).map fun n => (.p n, boolWord (((left s rest).regVal l d).getLsbD n))) fun _ => none) := by
  refine congrArg _ (runLanes_write _ h _ s iss rest _ _ hi fun l hmem u hu => ?_)
  obtain ⟨hr, hw⟩ := hl l hmem
  have hread : u.readCheck l (hinted l 0 [a] ++ (Reg.refs d).map fun r => (r, false)) = none :=
    readCheck_srcs (by simpa using Readable.only hu hr)
  have hmask : ((List.range 16).filter fun n => n != 0 && (u.srcVal l a).getLsbD n) = putMask ((left s rest).srcVal l a) := by
    rw [srcVal_only hu]
    rfl
  simp only [hread, hmask, destCheck_ok u l _ (Writable.only hu hw), regVal_only hu]

theorem setp_completes (h : Hdr) (c : Cmp) (t : Ty) (p : PReg) (a b : Src) :
    Completes (.setp h c t p a b) h (Src.refs a ++ Src.refs b) [.p p.toNat] fun s l =>
      [(.p p.toNat, boolWord (compares c (value t (s.srcVal l a)) (value t (s.srcVal l b))))] :=
  completesCmp (f := fun x y => compares c (value t x) (value t y)) (fun _ => rfl) fun hw x y => by
    have ht : tyBits t = width t := tyBits_of_setp (band hw).1
    rw [holds_eq_compares, readInt_eq_value ht, readInt_eq_value ht]

theorem fsetp_completes (h : Hdr) (mask : BitVec 4) (p : PReg) (a b : Src) :
    Completes (.fsetp h mask p a b) h (Src.refs a ++ Src.refs b) [.p p.toNat] fun s l =>
      [(.p p.toNat, boolWord (mask.getLsbD (outcome ((s.srcVal l a).setWidth 32) ((s.srcVal l b).setWidth 32))))] :=
  completesCmp (f := fun x y => mask.getLsbD (outcome (x.setWidth 32) (y.setWidth 32))) (fun _ => rfl) fun _ x y => by
    rw [fsetpHolds, fcompare_eq_outcome]

theorem fclass_completes (h : Hdr) (p : PReg) (a b : Src) :
    Completes (.fclass h p a b) h (Src.refs a ++ Src.refs b) [.p p.toNat] fun s l =>
      [(.p p.toNat, boolWord ((s.srcVal l b).getLsbD (Claims.classOf ((s.srcVal l a).setWidth 32))))] :=
  completesCmp (f := fun x m => m.getLsbD (Claims.classOf (x.setWidth 32))) (fun _ => rfl) fun _ x y => by rw [fclassOf_eq_classOf]

/-- Settles O10: comparisons go by ranks and classes by magnitudes; predicate logic and moves read what they name. -/
theorem predicates : Obligations.Predicates :=
  ⟨⟨setp_completes, fsetp_completes, fclass_completes⟩, fun _ _ hk h p a b na nb => predBin_completes hk h p a b na nb,
    fun _ _ a => completesPred (qs := [a]) (f := fun vs => !vs.getD 0 false) fun _ => rfl,
    fun _ _ a => completesPred (qs := [a]) (f := fun vs => vs.getD 0 false) fun _ => rfl,
    pmovGet_completes, fun _ _ _ _ _ _ _ hi hl => pmovPut_completes hi hl⟩

/-! ## Branches (09 R222, R223, R225) -/

/-- Settles O11: a branch reads its target's sources, a call its link register's state, and each answers the PC to go on at. -/
theorem branches : Obligations.Branches := fun h off a =>
  ⟨completes_of_writes (fun _ => rfl) fun _ _ _ _ _ _ _ => rfl,
    completes_of_writes (fun _ => rfl) fun _ s u l hu hr hw => by
      rw [compute_ok u l [a] _ _ (by simpa using hr) hw, ← srcVal_only hu]
      rfl,
    completes_of_writes (fun _ => rfl) fun _ s u l hu hr hw => compute_ok u l [] _ _ (fun _ => nofun) hw,
    completes_of_writes (fun _ => rfl) fun _ s u l hu hr hw => by
      rw [compute_ok u l [a] _ _ (by simpa using hr) hw, ← srcVal_only hu]
      rfl,
    completes_of_writes (fun _ => rfl) fun _ s u l hu hr hw => by
      have hread : u.readCheck l [(.g 15, false)] = none := readCheck_plain hr
      simp only [hread],
    completes_of_writes (fun _ => rfl) fun _ _ _ _ _ _ _ => rfl⟩

/-! ## `yield` (09 R225, 01 R34) -/

theorem goesOn_yield (u : State) (c x : Nat) (pc : Word) :
    u.goesOn c x pc true = u.modThread c x fun t => { t.moveTo pc with st := .ready, stamp := (u.core c).count (x % 2) + 64 } := by
  have hcount := count_modThread u c x (fun t => t.moveTo pc) (halfOf x)
  simp only [State.goesOn, State.ready, modThread_modThread, State.stampAt, hcount]
  rfl

/-- Settles O13: `yield` goes on with the yield hint. -/
theorem yieldStamp : Obligations.YieldStamp := by
  intro h s iss rest hi ho
  refine congrArg _ (runLanes_acts hi ho _ fun l _ => ⟨rfl, fun u => ?_⟩)
  exact goesOn_yield u l.core l.ctx l.nextPc

end Sys2Proof.Proofs

/-! PROOFS. Chapter 09, conversions and packing (O8, O9). -/

namespace Sys2Proof.Proofs

open Sys2Proof.Machine Sys2Proof.Safety Sys2Proof.Claims Sys2Proof.Laws

/-! ## `cvt` (09 R212) -/

/-- The types of `cvt` are of as many bits as it reads. -/
theorem tyBits_eq_cvtBits {u : Ty} : (u.isInt || u.isFloat) = true → tyBits u = cvtBits u := by cases u <;> decide

theorem clampInt_eq_clamped {t : Ty} (ht : tyBits t = width t) (x : Int) : clampInt (tyMin t) (tyMax t) x = clamped t x := by
  rw [tyMin_eq_least ht, tyMax_eq_greatest ht, clampInt_eq_max_min (least_le_greatest t), clamped]

theorem fToInt_eq_toInteger {t : Ty} (ht : tyBits t = width t) (m : Rnd) (x : FVal) : fToInt m (tyMin t) (tyMax t) x = toInteger t m x := by
  cases x with
  | nan => rfl
  | inf s => simp only [fToInt, toInteger, tyMin_eq_least ht, tyMax_eq_greatest ht]
  | fin s a e =>
    simp only [fToInt, toInteger, clampInt_eq_clamped ht]

theorem convert_eq_converted {t u : Ty} (htypes : ((t.isInt || t.isFloat) && (u.isInt || u.isFloat)) = true) (m : Rnd) (sat : Bool)
    (v : DWord) : convert t u m sat v = converted t u m sat v := by
  have hu := tyBits_eq_cvtBits (band htypes).2
  unfold convert converted
  cases hui : u.isInt <;> cases hti : t.isInt
  · simp only [Bool.false_eq_true, if_false, hu, BitVec.natCast_eq_ofNat]
  · have ht := tyBits_of_isInt hti
    simp only [Bool.false_eq_true, if_false, if_true, hu, putInt_eq_result ht, fToInt_eq_toInteger ht]
  · simp only [Bool.false_eq_true, if_false, if_true, readInt_eq_value (tyBits_of_isInt hui), rounded, BitVec.natCast_eq_ofNat]
  · have ht := tyBits_of_isInt hti
    simp only [if_true, readInt_eq_value (tyBits_of_isInt hui), putInt_eq_result ht, clampInt_eq_clamped ht]

/-! ## A third source that the type may not use (09 R213, R217) -/

/-- An instruction whose third source is read where it is used, and counts for nothing elsewhere. -/
theorem completesTernIf {i : Instr} {h : Hdr} {d : Reg} {a b c : Src} {used : Bool} {rd : List WRef} {f g : DWord → DWord → DWord → DWord}
    (hexec : ∀ s, exec i s = .next (s.runLanes i h fun s l => s.ternIf used l d a b c g))
    (hrd : WellFormed i = true → rd = Src.refs a ++ Src.refs b ++ if used then Src.refs c else [])
    (hfg : WellFormed i = true → ∀ x y z, (if used then g x y z else g x y 0) = f x y z) :
    Completes i h rd (Reg.refs d) fun s l => destWrites d (f (s.srcVal l a) (s.srcVal l b) (s.srcVal l c)) :=
  completes_of_writes hexec fun hwf s u l hu hr hw => by
    rw [hrd hwf] at hr
    simp only [← hfg hwf, State.ternIf, ← srcVal_only hu]
    cases used with
    | true => exact tern_ok u l d a b c g hr hw
    | false => exact bin_ok u l d a b (fun x y => g x y 0) (by simpa using hr) hw

/-- Two halves of a word. -/
theorem word_of_halves (hi lo : Nat) : BitVec.ofNat 32 (hi * 65536 + lo) = (hi : Word) * 2 ^ 16 + lo := by
  rw [BitVec.ofNat_add, BitVec.ofNat_mul]
  rfl

/-- Two bytes below the low half of a word. -/
theorem word_of_bytes (c : Word) (hi lo : Nat) :
    BitVec.ofNat 32 (c.toNat % 65536 * 65536 + hi * 256 + lo) = (c.toNat : Word) % 2 ^ 16 * 2 ^ 16 + hi * 2 ^ 8 + lo := by
  have hc : (c.toNat : Word) % 2 ^ 16 = BitVec.ofNat 32 (c.toNat % 65536) := by
    refine BitVec.eq_of_toNat_eq ?_
    simp
    omega
  rw [hc, BitVec.ofNat_add, BitVec.ofNat_add, BitVec.ofNat_mul, BitVec.ofNat_mul]
  rfl

theorem cvtPackWord_floats (t : Ty) (m : Rnd) (a b c : Word) :
    cvtPackWord t m a b c = if t = .f16x2 ∨ t = .bf16x2 then
      ((f32v b).round (fformOf t) false m : Word) * 2 ^ 16 + ((f32v a).round (fformOf t) false m : Nat)
    else (c.toNat : Word) % 2 ^ 16 * 2 ^ 16 + ((f32v b).round (fformOf t) true m : Nat) * 2 ^ 8 +
      ((f32v a).round (fformOf t) true m : Nat) := by
  simp only [cvtPackWord, word_of_halves, word_of_bytes, Bool.or_eq_true, decide_eq_true_eq]

/-- The types of `cvt.pack`. -/
theorem cvtPack_types {t : Ty} {c : Src} : (((t == .f16x2 || t == .bf16x2) && c == Src.unused) || t == .e4m3x4 || t == .e5m2x4) = true →
    (t = .f16x2 ∨ t = .bf16x2) ∨ t = .e4m3x4 ∨ t = .e5m2x4 := by
  simp only [Bool.or_eq_true, Bool.and_eq_true, beq_iff_eq]
  tauto

theorem cvtPackWord_eq {t : Ty} (ht : (t = .f16x2 ∨ t = .bf16x2) ∨ t = .e4m3x4 ∨ t = .e5m2x4) (m : Rnd) (a b c : Word) :
    cvtPackWord t m a b c = packedFloats t m a b c := by
  rw [cvtPackWord_floats]
  rcases ht with (rfl | rfl) | rfl | rfl <;> rfl

theorem cvtPack_completes (h : Hdr) (t : Ty) (m : Rnd) (d : Reg) (a b c : Src) : Completes (.cvtPack h t m d a b c) h
    (Src.refs a ++ Src.refs b ++ if t = .f16x2 ∨ t = .bf16x2 then [] else Src.refs c) (Reg.refs d) fun s l =>
      destWrites d (onWord3 (packedFloats t m) (s.srcVal l a) (s.srcVal l b) (s.srcVal l c)) := by
  refine completesTernIf (fun _ => rfl) (fun _ => ?_) fun hw x y z => ?_
  · by_cases h1 : t = .f16x2 <;> by_cases h2 : t = .bf16x2 <;> simp [h1, h2]
  · rw [onWord3, ← cvtPackWord_eq (cvtPack_types (band hw).1)]
    split
    · rfl
    next hu =>
      have hf : t = .f16x2 ∨ t = .bf16x2 := by simpa [or_iff_not_imp_left] using hu
      rw [cvtPackWord_floats, cvtPackWord_floats, if_pos hf, if_pos hf]

/-- Settles O8. -/
theorem conversions : Obligations.Conversions :=
  ⟨fun _ _ _ _ _ _ _ => completes1 (fun _ => rfl) fun hw x => by rw [convert_eq_converted (band (band (band hw).1).1).1],
    cvtPack_completes⟩

/-! ## `qpack` and `qunpack` (09 R214, R215) -/

theorem qpackStep_eq (tag : Nat) (acc : List Nat × Bool) (x : Word) : qpackStep tag acc x =
    (acc.1 ++ [if acc.2 || f32v x == .nan || tagZero tag then 0 else q4Quot (tagQ tag) (f32v x) (tagScale tag)], acc.2 || f32v x == .nan) := by
  unfold qpackStep
  split
  next h => simp [h]
  next h =>
    have hx : (f32v x == .nan) = false := by simpa using h
    cases acc.2 <;> cases tagZero tag <;> simp [hx]

/-- The codes of a list of sources, and whether one of them is a NaN. -/
theorem foldl_qpackStep (tag : Nat) (xs : List Word) : xs.foldl (qpackStep tag) ([], tagNan tag) =
    ((List.range xs.length).map (q4Code tag xs), tagSE tag == 255 || xs.any fun x => f32v x == .nan) := by
  induction xs using List.reverseRecOn with
  | nil => simp [tagNan]
  | append_singleton xs x ih =>
    have hbefore : ∀ k ∈ List.range xs.length, q4Code tag (xs ++ [x]) k = q4Code tag xs k := fun k hk => by
      have hk : k + 1 ≤ xs.length := List.mem_range.mp hk
      have hnan : nanUpTo tag (xs ++ [x]) k = nanUpTo tag xs k := by rw [nanUpTo, nanUpTo, List.take_append_of_le_length hk]
      rw [q4Code, q4Code, hnan, List.getD_append _ _ _ _ hk]
    have hnan : nanUpTo tag (xs ++ [x]) xs.length = ((tagSE tag == 255 || xs.any fun x => f32v x == .nan) || f32v x == .nan) := by
      rw [nanUpTo, List.take_of_length_le (by simp), List.any_append, Bool.or_assoc]
      simp
    have hlast : (xs ++ [x]).getD xs.length 0 = x := by simp
    rw [List.foldl_append, ih, List.foldl_cons, List.foldl_nil, qpackStep_eq, List.length_append, List.length_singleton, List.range_succ,
      List.map_append, List.map_congr_left hbefore, List.map_singleton, q4Code, hnan, hlast, List.any_append, ← Bool.or_assoc]
    simp

theorem nibbles_range (g : Nat → Nat) (n : Nat) : nibbles ((List.range n).map g) = ((List.range n).map fun k => g k % 16 * 16 ^ k).sum := by
  induction n generalizing g with
  | zero => rfl
  | succ n ih =>
    have hstep : nibbles ((List.range (n + 1)).map g) = g 0 % 16 + 16 * nibbles ((List.range n).map fun k => g (k + 1)) := by
      rw [List.range_succ_eq_map, List.map_cons, List.map_map]
      rfl
    have hterm : (fun k => g (k + 1) % 16 * 16 ^ (k + 1)) = fun k => 16 * (g (k + 1) % 16 * 16 ^ k) := by
      funext k
      ring
    rw [hstep, ih fun k => g (k + 1), List.range_succ_eq_map, List.map_cons, List.map_map, List.sum_cons, pow_zero, mul_one,
      Function.comp_def]
    simp only [Nat.succ_eq_add_one, hterm, List.sum_map_mul_left]

theorem nibbles_lt (cs : List Nat) : nibbles cs < 16 ^ cs.length := by
  induction cs with
  | nil => exact Nat.one_pos
  | cons c cs ih =>
    have hstep : nibbles (c :: cs) = c % 16 + 16 * nibbles cs := rfl
    rw [hstep, List.length_cons, pow_succ]
    omega

theorem length_eightRefs (r : Reg) : (eightRefs r).length = 8 := by simp [eightRefs]

/-- A word of a number below 2^32, widened. -/
theorem setWidth_ofNat_word {n : Nat} (hn : n < 2 ^ 32) : (BitVec.ofNat 32 n).setWidth 64 = (n : DWord) := by
  refine BitVec.eq_of_toNat_eq ?_
  rw [BitVec.natCast_eq_ofNat, BitVec.toNat_setWidth, BitVec.toNat_ofNat, BitVec.toNat_ofNat, Nat.mod_eq_of_lt hn]

theorem qpackWord_eq {tag : Nat} (htag : tag < 2 ^ 16) {xs : List Word} (hxs : xs.length = 8) :
    (qpackWord tag xs).1.setWidth 64 = q4Codes tag xs ∧ (qpackWord tag xs).2.setWidth 64 = q4Tag tag xs := by
  have hnan : (tagSE tag == 255 || xs.any fun x => f32v x == .nan) = nanUpTo tag xs 7 := by
    rw [nanUpTo, List.take_of_length_le (by omega)]
  have hcodes := nibbles_lt ((List.range 8).map (q4Code tag xs))
  rw [List.length_map, List.length_range] at hcodes
  simp only [qpackWord, foldl_qpackStep, hxs, hnan]
  refine ⟨?_, setWidth_ofNat_word (by split <;> omega)⟩
  rw [setWidth_ofNat_word hcodes, nibbles_range, q4Codes]

theorem tagOk_of_fmt {tag : Nat} (h : tagFmt tag = 0) : tagOk true tag = true := by simp [tagOk, h]

theorem qpack_completes {h : Hdr} {d a : Reg} {b : Src} {c : Reg} {s : State} {iss : Issue} {rest : List Issue}
    (hi : AtIssue s (.qpack h d a b c) h iss rest) (hable : Able s iss rest h (eightRefs a ++ Src.refs b) (Reg.refs d ++ Reg.refs c))
    (hfmt : ∀ l ∈ active s iss rest h, tagFmt (((left s rest).srcVal l b).toNat % 2 ^ 16) = 0) :
    exec (.qpack h d a b c) s = .next (written s iss rest h
      (fun l =>
        let tag := ((left s rest).srcVal l b).toNat % 2 ^ 16
        destWrites d (q4Codes tag (eight (left s rest) l a)) ++ destWrites c (q4Tag tag (eight (left s rest) l a)))
      fun _ => none) := by
  refine congrArg _ (runLanes_write _ h _ s iss rest _ _ hi fun l hmem u hu => ?_)
  obtain ⟨hr, hw⟩ := hable l hmem
  have hread : u.readCheck l ((eightRefs a).map (fun r => (r, l.hint 77)) ++ (Src.refs b).map fun r => (r, l.hint 76)) = none :=
    readCheck_ok u l _ fun r hmem => by
      rw [List.mem_append, List.mem_map, List.mem_map] at hmem
      obtain ⟨q, hq, rfl⟩ | ⟨q, hq, rfl⟩ := hmem
      · exact Readable.only hu hr q (List.mem_append_left _ hq)
      · exact Readable.only hu hr q (List.mem_append_right _ hq)
  have hxs : (eightRefs a).map (fun r => (u.word l.core l.t r).val) = eight (left s rest) l a := by
    simp only [eight, word_only hu]
  obtain ⟨hcodes, htag⟩ := qpackWord_eq (xs := eight (left s rest) l a) (Nat.mod_lt ((left s rest).srcVal l b).toNat (Nat.two_pow_pos 16))
    (by rw [eight, List.length_map, length_eightRefs])
  have hok := tagOk_of_fmt (hfmt l hmem)
  simp only [Nat.reducePow] at hok hcodes htag
  simp only [hread, destCheck_ok u l _ (Writable.only hu hw), srcVal_only hu, hxs, Nat.reducePow, hok, hcodes, htag, Bool.not_true,
    Bool.false_eq_true, if_false]

theorem qunpackWord_eq (m : Rnd) (tag : Nat) (a : DWord) {k : Nat} (hk : k < 8) : qunpackWord m tag (a.setWidth 32) k = q4Element m tag a k := by
  have hcode : (a.setWidth 32).toNat / 16 ^ k % 16 = a.toNat / 16 ^ k % 16 := by
    rw [BitVec.toNat_setWidth]
    interval_cases k <;> omega
  simp only [qunpackWord, q4Element, hcode, tagNan, beq_iff_eq]
  rfl

theorem qunpack_completes {h : Hdr} {m : Rnd} {d : Reg} {a b : Src} {s : State} {iss : Issue} {rest : List Issue}
    (hi : AtIssue s (.qunpack h m d a b) h iss rest) (hable : Able s iss rest h (Src.refs a ++ Src.refs b) (eightRefs d))
    (hfmt : ∀ l ∈ active s iss rest h, tagFmt (((left s rest).srcVal l b).toNat % 2 ^ 16) = 0) :
    exec (.qunpack h m d a b) s = .next (written s iss rest h
      (fun l => (eightRefs d).zipIdx.map fun e =>
        (e.1, q4Element m (((left s rest).srcVal l b).toNat % 2 ^ 16) ((left s rest).srcVal l a) e.2))
      fun _ => none) := by
  refine congrArg _ (runLanes_write _ h _ s iss rest _ _ hi fun l hmem u hu => ?_)
  obtain ⟨hr, hw⟩ := hable l hmem
  have hok := tagOk_of_fmt (hfmt l hmem)
  rw [compute_ok u l [a, b] _ _ (by simpa using Readable.only hu hr) (Writable.only hu hw)]
  simp only [Nat.reducePow] at hok
  simp only [Nat.reducePow, List.map_cons, List.map_nil, List.getD_cons_zero, List.getD_cons_succ, srcVal_only hu, hok,
    Bool.not_true, Bool.false_eq_true, if_false]
  refine congrArg (LaneOut.write · none) (List.map_congr_left fun e he => ?_)
  have hk : e.2 < (eightRefs d).length := List.snd_lt_of_mem_zipIdx (k := 0) he
  rw [length_eightRefs] at hk
  rw [qunpackWord_eq m _ _ hk]

/-! ## `bsel` (09 R216) -/

theorem byte_eq_byteOf (a b : Word) {k : Nat} (hk : k < 8) : (a.toNat + b.toNat * 2 ^ 32) / 256 ^ k % 256 = byteOf a b k := by
  have ha := a.isLt
  unfold byteOf
  interval_cases k <;> simp <;> omega

theorem byteOf_low (a b : Word) {k : Nat} (hk : k < 4) : byteOf a b k = a.toNat / 256 ^ k % 2 ^ 8 := by
  rw [byteOf, if_pos hk]
  rfl

theorem selectedBy_lt (a b : Word) (sel : Nat) {prev : Nat} (hprev : prev < 256) : selectedBy a b sel prev < 256 := by
  unfold selectedBy
  have hbits := ofBits_lt 8 fun k => (byteOf a b (sel - 12)).testBit (7 - k)
  have hbyte : byteOf a b sel < 256 := Nat.mod_lt _ (by decide)
  split_ifs <;> omega

/-- A byte of `bsel` by its selector; before the first one stands a zero. -/
theorem bselByte_eq (a b : Word) {sel i prev : Nat} (hsel : sel < 16) (hprev : prev < 256) (h0 : i = 0 → prev = 0) :
    bselByte a b sel i prev = selectedBy a b sel prev := by
  unfold bselByte selectedBy
  by_cases h7 : sel ≤ 7
  · rw [if_pos h7, if_pos h7, ← byte_eq_byteOf a b (by omega)]
  rw [if_neg h7, if_neg h7]
  by_cases h8 : sel = 8
  · rw [if_pos h8, if_pos h8]
  rw [if_neg h8, if_neg h8]
  by_cases h9 : sel = 9
  · rw [if_pos h9, if_pos h9]
  rw [if_neg h9, if_neg h9]
  by_cases h10 : sel = 10
  · rw [if_pos h10, if_pos h10]
    split_ifs <;> omega
  rw [if_neg h10, if_neg h10]
  by_cases h11 : sel = 11
  · rw [if_pos h11, if_pos h11]
    split_ifs <;> omega
  rw [if_neg h11, if_neg h11, foldl_bits_eq_ofBits]
  refine eq_ofBits (ofBits_lt ..) fun k hk => ?_
  rw [testBit_ofBits, byteOf_low a b (by omega), Nat.testBit_mod_two_pow]
  simp [hk, show 7 - k < 8 by omega]

theorem selected_lt (a b c : Word) (i : Nat) : selected a b c i < 256 := by
  induction i with
  | zero => exact selectedBy_lt a b _ (by decide)
  | succ i ih => exact selectedBy_lt a b _ ih

theorem bselWord_eq (a b c : Word) : bselWord a b c = (((List.range 4).map fun i => selected a b c i * 256 ^ i).sum : Nat) := by
  have hsel : ∀ i, c.toNat / 16 ^ i % 16 < 16 := fun i => Nat.mod_lt _ (by decide)
  have h0 : bselByte a b (c.toNat / 16 ^ 0 % 16) 0 0 = selected a b c 0 := by
    rw [bselByte_eq a b (hsel 0) (by decide) fun _ => rfl, pow_zero, Nat.div_one]
    rfl
  have hstep : ∀ i, bselByte a b (c.toNat / 16 ^ (i + 1) % 16) (i + 1) (selected a b c i) = selected a b c (i + 1) := fun i =>
    bselByte_eq a b (hsel (i + 1)) (selected_lt a b c i) nofun
  simp only [bselWord, h0, hstep 0, hstep 1, hstep 2, BitVec.natCast_eq_ofNat]
  congr 1
  rw [List.sum_range_succ, List.sum_range_succ, List.sum_range_succ, List.sum_range_succ, List.range_zero, List.map_nil, List.sum_nil]
  ring

/-! ## `pack` and `unpack` (09 R217) -/

theorem packElem_eq {t : Ty} (ht : t.isNarrow = true) (sat : Bool) (v : Word) : packElem t sat v = packElement t sat v := by
  have hw : width t ≤ 32 := by revert ht; cases t <;> decide
  have hb := tyBits_of_isNarrow ht
  unfold packElem packElement
  simp only [isSigned_eq_signed, clampInt_eq_clamped hb]
  rw [hb]
  cases sat with
  | true => simp only [if_true, BitVec.toNat_ofInt, Nat.cast_pow, Nat.cast_ofNat]
  | false =>
    have hlow := toInt_emod_two_pow hw v
    rw [Nat.cast_pow, Nat.cast_ofNat] at hlow
    cases signed t with
    | true => simp only [if_true, Bool.false_eq_true, if_false, hlow, Int.toNat_natCast]
    | false =>
      simp only [Bool.false_eq_true, if_false]
      norm_cast

theorem packWord_eq {t : Ty} (ht : t.isNarrow = true) (sat : Bool) (a b c : Word) : packWord t sat a b c = packed t sat a b c := by
  rw [packWord, packed, tyBits_of_isNarrow ht]
  simp only [word_of_halves, word_of_bytes, packElem_eq ht]

/-- The types of `pack`, and whether it uses its third source. -/
theorem pack_types {t : Ty} {c : Src} : ((t == .i8 || t == .n8) || ((t == .i16 || t == .n16) && c == Src.unused)) = true →
    t.isNarrow = true ∧ ((t != .i16 && t != .n16) = true ↔ width t = 8) := by
  cases t <;> simp [Ty.isNarrow, width]

theorem pack_completes (h : Hdr) (t : Ty) (sat : Bool) (d : Reg) (a b c : Src) : Completes (.pack h t sat d a b c) h
    (Src.refs a ++ Src.refs b ++ if width t = 8 then Src.refs c else []) (Reg.refs d) fun s l =>
      destWrites d (onWord3 (packed t sat) (s.srcVal l a) (s.srcVal l b) (s.srcVal l c)) := by
  refine completesTernIf (fun _ => rfl) (fun hw => ?_) fun hw x y z => ?_
  · simp only [(pack_types (band hw).1).2]
  · obtain ⟨ht, hused⟩ := pack_types (band hw).1
    simp only [hused, onWord3, packWord_eq ht, packed]
    split <;> rfl

theorem unpackWord_eq {t : Ty} (ht : t.isNarrow = true) (x y : DWord) :
    unpackWord t x y = result t (count x / 2 ^ (count y % (32 / width t) * width t) : Nat) := by
  have hb := tyBits_of_isNarrow ht
  rw [unpackWord, putInt_eq_result hb, hb, countOf_eq_count, countOf_eq_count]

/-- Settles O9: each packing instruction builds its word element by element. -/
theorem packing : Obligations.Packing :=
  ⟨⟨fun _ _ _ _ _ _ _ _ _ hi hable hfmt => qpack_completes hi hable hfmt,
      fun _ _ _ _ _ _ _ _ _ hi hable hfmt => qunpack_completes hi hable hfmt⟩,
    fun _ _ _ _ _ => completes3 (fun _ => rfl) fun _ x y z => by rw [onWord3, bselWord_eq],
    pack_completes, fun _ _ _ _ _ => completes2 (fun _ => rfl) fun hw => unpackWord_eq (band hw).1⟩

end Sys2Proof.Proofs

/-! PROOFS. Chapter 09, `exit` (O12): what the end of a thread leaves of its context, its group, and the messages to its grid. -/

namespace Sys2Proof.Proofs

open Sys2Proof.Machine Sys2Proof.Safety Sys2Proof.Claims Sys2Proof.Laws

/-! ## What the end of a member leaves alone (01 R12, R13, R43) -/

/-- A lane of a group is one that the group counts as exited, as long as the group lives. -/
def CountsExited (s : State) (c g n : Nat) : Prop := (s.group c g).live = true → n ∈ (s.group c g).exited

/-- `u` has the memories and the reports of `s`, no thread where `s` has none, and counts as exited whom `s` does. -/
structure EndFrame (s u : State) : Prop where
  mem : u.mem = s.mem
  hostMem : u.hostMem = s.hostMem
  decs : u.decs = s.decs
  gone : ∀ c x, s.thread c x = default → u.thread c x = default
  exited : ∀ c g n, CountsExited s c g n → CountsExited u c g n

namespace EndFrame

theorem refl (s : State) : EndFrame s s := ⟨rfl, rfl, rfl, fun _ _ => id, fun _ _ _ => id⟩

theorem trans {s t u : State} (a : EndFrame s t) (b : EndFrame t u) : EndFrame s u where
  mem := b.mem.trans a.mem
  hostMem := b.hostMem.trans a.hostMem
  decs := b.decs.trans a.decs
  gone c x h := b.gone c x (a.gone c x h)
  exited c g n h := b.exited c g n (a.exited c g n h)

theorem foldl {α : Type} {f : State → α → State} {l : List α} (hf : ∀ s, ∀ a ∈ l, EndFrame s (f s a)) (s : State) :
    EndFrame s (l.foldl f s) :=
  List.foldlRecOn (motive := EndFrame s) l f (refl s) fun u hu a ha => hu.trans (hf u a ha)

theorem ite {p : Prop} [Decidable p] {a b s : State} (ha : EndFrame s a) (hb : EndFrame s b) : EndFrame s (if p then a else b) := by
  split
  · exact ha
  · exact hb

/-- A change of thread contexts that makes no thread. -/
theorem of_onlyThreads {s u : State} (h : OnlyThreads s u) (hgone : ∀ c x, s.thread c x = default → u.thread c x = default) :
    EndFrame s u where
  mem := h.mem
  hostMem := by rw [h.1]
  decs := by rw [h.1]
  gone := hgone
  exited c g n hx := by rwa [CountsExited, h.group]

/-- A change of one core that leaves its threads and groups. -/
theorem of_modCore (s : State) (c : Nat) {f : Core → Core} (hctxs : (f (s.core c)).ctxs = (s.core c).ctxs)
    (hgroups : (f (s.core c)).groups = (s.core c).groups) : EndFrame s (s.modCore c f) := by
  have hcore : ∀ d, ((s.modCore c f).core d).ctxs = (s.core d).ctxs ∧ ((s.modCore c f).core d).groups = (s.core d).groups := fun d => by
    by_cases hd : d = c
    · rw [hd, core_modCore]
      exact ⟨hctxs, hgroups⟩
    · rw [core_modCore_other _ _ hd]
      exact ⟨rfl, rfl⟩
  refine ⟨rfl, rfl, rfl, fun d x hx => ?_, fun d g n hx => ?_⟩
  · rwa [State.thread, (hcore d).1]
  · rwa [CountsExited, State.group, (hcore d).2]

end EndFrame

theorem group_modGroup_other (s : State) {c g d k : Nat} (f : Group → Group) (h : d ≠ c ∨ k ≠ g) :
    (s.modGroup c g f).group d k = s.group d k := by
  unfold State.group State.modGroup State.setGroup
  by_cases hd : d = c
  · subst hd
    rw [core_modCore]
    exact tbl_get_set_other _ _ _ (h.resolve_left (fun hne => hne rfl))
  · rw [core_modCore_other _ _ hd]

/-- A change of a group that keeps whether it lives, and whom it counts as exited. -/
theorem endFrame_modGroup (s : State) (c g : Nat) {f : Group → Group} (hlive : ∀ k, (f k).live = k.live)
    (hexited : ∀ k, k.exited ⊆ (f k).exited) : EndFrame s (s.modGroup c g f) := by
  refine ⟨rfl, rfl, rfl, fun d x hx => by rwa [thread_modGroup], fun d k n hx => ?_⟩
  by_cases h : d = c ∧ k = g
  · obtain ⟨rfl, rfl⟩ := h
    rw [CountsExited, group_modGroup, hlive]
    exact fun h => hexited _ (hx h)
  · rwa [CountsExited, group_modGroup_other s f (by tauto)]

theorem tbl_get_del_other {α : Type} (d : α) (t : Tbl α) {i j : Nat} (h : j ≠ i) : Tbl.get d (Tbl.del t i) j = Tbl.get d t j := by
  induction t with
  | nil => rfl
  | cons e t ih =>
    by_cases he : e.1 = i
    · have hj : e.1 ≠ j := fun hj => h (hj.symm.trans he)
      simpa [Tbl.del, Tbl.get, he, Ne.symm h] using ih
    · by_cases hj : e.1 = j
      · simp [Tbl.del, Tbl.get, hj, h]
      · simpa [Tbl.del, Tbl.get, he, hj] using ih

/-- A group that has ended counts nobody any more. -/
theorem endFrame_delGroup (s : State) (c g : Nat) : EndFrame s (s.modCore c fun x => { x with groups := Tbl.del x.groups g }) := by
  refine ⟨rfl, rfl, rfl, fun d x hx => ?_, fun d k n hx => ?_⟩
  · by_cases hd : d = c
    · subst hd
      rwa [State.thread, core_modCore]
    · rwa [State.thread, core_modCore_other _ _ hd]
  · by_cases hd : d = c
    · subst hd
      rw [CountsExited, State.group, core_modCore]
      by_cases hk : k = g
      · subst hk
        rw [tbl_get_del]
        exact nofun
      · rwa [tbl_get_del_other _ _ hk]
    · rwa [CountsExited, State.group, core_modCore_other _ _ hd]

theorem endFrame_closeCursor (s : State) (c g n : Nat) : EndFrame s (s.closeCursor c g n) := by
  unfold State.closeCursor State.freeSlot
  split
  · exact EndFrame.refl s
  · exact (EndFrame.of_modCore s c rfl rfl).trans (endFrame_modGroup _ c g (fun _ => rfl) fun k => List.Subset.refl k.exited)

theorem wakeAt_default {s : State} {c x : Nat} (h : s.thread c x = default) (w : Wait) (pc : Option Word) : s.wakeAt c x w pc = s := by
  simp only [State.wakeAt, h]
  rfl

theorem endFrame_wakeMembers (s : State) (c g : Nat) (w : Wait) : EndFrame s (s.wakeMembers c g w) :=
  EndFrame.foldl (fun u x _ => EndFrame.of_onlyThreads (onlyThreads_wakeAt u c x w none) fun d y hy => by
    by_cases h : d = c ∧ y = x
    · obtain ⟨rfl, rfl⟩ := h
      rwa [wakeAt_default hy]
    · rwa [thread_wakeAt_other u w none (by tauto)]) s

theorem endFrame_tryBarTeam (s : State) (c t : Nat) : EndFrame s (s.tryBarTeam c t) :=
  EndFrame.ite (EndFrame.foldl (fun u g _ => (endFrame_modGroup (f := fun k => { k with arrTeam := false }) u c g (fun _ => rfl)
    fun k => List.Subset.refl k.exited).trans (endFrame_wakeMembers _ c g .barTeam)) s) (EndFrame.refl s)

theorem endFrame_tryBarRole (s : State) (c t role : Nat) : EndFrame s (s.tryBarRole c t role) :=
  EndFrame.ite (EndFrame.foldl (fun u g _ => (endFrame_modGroup (f := fun k => { k with arrRole := false }) u c g (fun _ => rfl)
    fun k => List.Subset.refl k.exited).trans (endFrame_wakeMembers _ c g .barRole)) s) (EndFrame.refl s)

theorem endFrame_tryEndTeam (s : State) (c t : Nat) : EndFrame s (s.tryEndTeam c t) :=
  EndFrame.ite (EndFrame.of_modCore s c rfl rfl) (EndFrame.refl s)

theorem endFrame_treeForget (s : State) (c g v : Nat) : EndFrame s (s.treeForget c g v) :=
  ⟨rfl, rfl, rfl, fun _ _ => id, fun _ _ _ => id⟩

theorem endFrame_modTeam (s : State) (c t : Nat) (f : Team → Team) : EndFrame s (s.modTeam c t f) := EndFrame.of_modCore s c rfl rfl

theorem endFrame_tryEndGroup (s : State) (c g : Nat) : EndFrame s (s.tryEndGroup c g) := by
  unfold State.tryEndGroup
  refine EndFrame.ite ?_ (EndFrame.refl s)
  refine EndFrame.trans ?_ (endFrame_tryEndTeam _ _ _)
  refine EndFrame.trans ?_ (endFrame_tryBarRole _ _ _ _)
  refine EndFrame.trans ?_ (endFrame_tryBarTeam _ _ _)
  refine EndFrame.trans ?_ (endFrame_treeForget _ _ _ _)
  refine EndFrame.trans ?_ (endFrame_modTeam _ _ _ _)
  exact (EndFrame.foldl (fun u n _ => endFrame_closeCursor u c g n) s).trans (endFrame_delGroup _ c g)

/-- Members that wait keep their place: one that waits exists. -/
theorem endFrame_waitSet (s : State) (c : Nat) (xs : List Nat) (h : ∀ x ∈ xs, s.thread c x ≠ default) :
    EndFrame s (xs.foldl (fun u x => u.waits c x .set) s) := by
  refine EndFrame.of_onlyThreads (onlyThreads_foldl _ (fun u x => onlyThreads_modThread u c x _) xs s) fun d y hy => ?_
  refine (List.foldlRecOn (motive := fun u : State => u.thread d y = s.thread d y) xs _ rfl fun u hu x hx => ?_).trans hy
  refine (thread_modThread_other u _ ?_).trans hu
  by_contra hc
  obtain ⟨rfl, rfl⟩ : d = c ∧ y = x := by tauto
  exact h _ hx hy

theorem endFrame_tryRelease (s : State) (c g : Nat) : EndFrame s (s.tryRelease c g) := by
  unfold State.tryRelease
  dsimp only
  split
  case isTrue h =>
    refine (endFrame_waitSet s c (s.group c g).present fun x hx hd => ?_).trans ⟨rfl, rfl, rfl, fun _ _ => id, fun _ _ _ => id⟩
    have hall := List.all_eq_true.mp (Bool.and_eq_true_iff.mp h).2 x hx
    rw [hd] at hall
    exact absurd hall (by decide)
  case isFalse => exact EndFrame.refl s

theorem endFrame_leaveGroup (s : State) (c g lane : Nat) : EndFrame s (s.leaveGroup c g lane) := by
  unfold State.leaveGroup
  refine EndFrame.trans ?_ (endFrame_tryEndGroup _ _ _)
  refine EndFrame.trans ?_ (endFrame_tryRelease _ _ _)
  exact endFrame_modGroup s c g (fun _ => rfl) fun k => List.subset_cons_self lane k.exited

/-- A member that leaves counts as exited. -/
theorem countsExited_leaveGroup (s : State) (c g lane : Nat) : CountsExited (s.leaveGroup c g lane) c g lane := by
  unfold State.leaveGroup
  refine (endFrame_tryEndGroup _ _ _).exited c g lane ((endFrame_tryRelease _ _ _).exited c g lane fun _ => ?_)
  rw [group_modGroup]
  exact List.mem_cons_self

/-! ## The messages to the grid scheduler (01 R21, R40) -/

/-- A message leaves memories, thread contexts and groups. -/
theorem tellHome_keeps (s : State) (c : Nat) (t : Thread) (count units : Bool) :
    let u := s.tellHome c t count units
    u.mem = s.mem ∧ u.hostMem = s.hostMem ∧ u.cores = s.cores ∧ u.fabnum = s.fabnum := by
  simp only [State.tellHome, State.sendPacket, State.sendAs]
  split
  · exact ⟨rfl, rfl, rfl, rfl⟩
  · split
    · exact ⟨rfl, rfl, rfl, rfl⟩
    · rw [putPacket_only]
      exact ⟨rfl, rfl, rfl, rfl⟩

/-- A message to a home of the package's own is one report. -/
theorem decs_tellHome (s : State) (c : Nat) (t : Thread) (count units : Bool) (h : t.vfPkg = s.fabnum) :
    (s.tellHome c t count units).decs = s.decs ++ [⟨t.vf.toNat, t.grid, count, units⟩] := by
  simp [State.tellHome, h]

/-- What follows the report of the exit: that of the units which the thread still held. -/
def heldUnits (s : State) (c x : Nat) (u : State) : State := if s.holdsUnits c x then u.tellHome c (s.thread c x) true true else u

theorem heldUnits_keeps (s : State) (c x : Nat) (u : State) :
    (heldUnits s c x u).mem = u.mem ∧ (heldUnits s c x u).hostMem = u.hostMem ∧ (heldUnits s c x u).cores = u.cores := by
  unfold heldUnits
  split
  · obtain ⟨hmem, hhost, hcores, -⟩ := tellHome_keeps u c (s.thread c x) true true
    exact ⟨hmem, hhost, hcores⟩
  · exact ⟨rfl, rfl, rfl⟩

theorem decs_heldUnits (s : State) (c x : Nat) (u : State) (h : (s.thread c x).vfPkg = u.fabnum) :
    ∃ more, (heldUnits s c x u).decs = u.decs ++ more := by
  unfold heldUnits
  split
  · exact ⟨_, decs_tellHome u c _ true true h⟩
  · exact ⟨[], (List.append_nil _).symm⟩

/-- A thread's end without what its group does. -/
def endedAlone (s : State) (c x : Nat) : State :=
  heldUnits s c x ((s.dropContext c x).tellHome c (s.thread c x) true (s.thread c x).group.isNone)

theorem exitThread_eq (s : State) (c x : Nat) (h : (s.thread c x).st ≠ .none) :
    s.exitThread c x = match (s.thread c x).group with
      | some g => (endedAlone s c x).leaveGroup c g.1 g.2
      | none => endedAlone s c x := by
  simp only [State.exitThread, if_neg h]
  rfl

theorem endedAlone_keeps (s : State) (c x : Nat) :
    (endedAlone s c x).mem = s.mem ∧ (endedAlone s c x).hostMem = s.hostMem ∧ (endedAlone s c x).thread c x = default := by
  obtain ⟨hmem, hhost, hcores⟩ := heldUnits_keeps s c x ((s.dropContext c x).tellHome c (s.thread c x) true (s.thread c x).group.isNone)
  obtain ⟨tmem, thost, tcores, -⟩ := tellHome_keeps (s.dropContext c x) c (s.thread c x) true (s.thread c x).group.isNone
  refine ⟨hmem.trans tmem, hhost.trans thost, ?_⟩
  rw [State.thread, State.core, endedAlone, hcores, tcores]
  exact thread_dropContext s c x

theorem decs_endedAlone (s : State) (c x : Nat) (h : (s.thread c x).vfPkg = s.fabnum) :
    ∃ more, (endedAlone s c x).decs =
      s.decs ++ ⟨(s.thread c x).vf.toNat, (s.thread c x).grid, true, (s.thread c x).group.isNone⟩ :: more := by
  have hpkg : (s.thread c x).vfPkg = (s.dropContext c x).fabnum := h
  obtain ⟨-, -, -, hfab⟩ := tellHome_keeps (s.dropContext c x) c (s.thread c x) true (s.thread c x).group.isNone
  obtain ⟨more, hmore⟩ := decs_heldUnits s c x ((s.dropContext c x).tellHome c (s.thread c x) true (s.thread c x).group.isNone)
    (hpkg.trans hfab.symm)
  refine ⟨more, ?_⟩
  rw [endedAlone, hmore, decs_tellHome _ _ _ _ _ hpkg, List.append_assoc]
  rfl

/-- What the group does at the end of its member. -/
theorem endFrame_exitThread (s : State) (c x : Nat) (h : (s.thread c x).st ≠ .none) : EndFrame (endedAlone s c x) (s.exitThread c x) := by
  rw [exitThread_eq s c x h]
  split
  · exact endFrame_leaveGroup _ _ _ _
  · exact EndFrame.refl _

/-! ## The issue (09 R224) -/

theorem drained_only {s u : State} (h : OnlyThreads s u) (c x : Nat) : u.drained c x = s.drained c x := by
  simp only [State.drained, h.reqs]

/-- Settles O12: a lane with its words FULL and its requests answered exits; the end of a thread is its group's frame over the release of
its context and its reports. -/
theorem exits : Obligations.Exits := by
  refine ⟨fun h s iss rest hi ho hl => ?_, fun s c x h => ?_⟩
  · refine congrArg Host.Outcome.next ?_
    have hthreads := onlyThreads_passed s iss rest h
    refine runLanes_acts hi ho _ fun l hm => ?_
    obtain ⟨hfull, hdrained⟩ := hl l hm
    have hcheck := destCheck_ok _ l _ (Writable.only hthreads hfull)
    rw [← budget_only hthreads] at hcheck
    rw [← drained_only hthreads] at hdrained
    simp only [hcheck, hdrained]
    exact ⟨rfl, fun u => rfl⟩
  · have hend := endFrame_exitThread s c x h
    obtain ⟨hmem, hhost, hgone⟩ := endedAlone_keeps s c x
    refine ⟨?_, ⟨hend.mem.trans hmem, hend.hostMem.trans hhost⟩, fun hpkg => ?_, fun g n hg => ?_⟩
    · rw [hend.gone c x hgone]
      rfl
    · rw [hend.decs]
      exact decs_endedAlone s c x hpkg
    · rw [exitThread_eq s c x h, hg]
      exact countsExited_leaveGroup _ c g n

end Sys2Proof.Proofs

/-! PROOFS. Chapter 09, sign bits and the parts of F32 values (O7). -/

namespace Sys2Proof.Proofs

open Sys2Proof.Machine Sys2Proof.Safety Sys2Proof.Claims Sys2Proof.Laws

/-! ## Sign bits (09 R210) -/

/-- The bits of a sign above a magnitude. -/
theorem testBit_signed {f : FForm} {mag : Nat} (hmag : mag < 2 ^ f.signPos) (neg : Bool) (k : Nat) :
    (f.signed neg mag).testBit k = if k = f.signPos then neg else mag.testBit k := by
  have hsum : f.signed neg mag = 2 ^ f.signPos * neg.toNat + mag := by
    cases neg <;> simp [FForm.signed, Nat.add_comm]
  rw [hsum, Nat.testBit_two_pow_mul_add _ hmag]
  obtain hk | rfl | hk := lt_trichotomy k f.signPos
  · rw [if_pos hk, if_neg hk.ne]
  · rw [if_neg (lt_irrefl _), if_pos rfl, Nat.sub_self]
    cases neg <;> rfl
  · rw [if_neg hk.not_gt, if_neg hk.ne', Nat.testBit_lt_two_pow (hmag.trans (Nat.pow_lt_pow_right one_lt_two hk))]
    obtain ⟨j, rfl⟩ := Nat.exists_eq_add_of_lt hk
    rw [show f.signPos + j + 1 - f.signPos = j + 1 by omega]
    cases neg <;> simp [Nat.testBit_succ]

theorem signed_lt {f : FForm} {mag : Nat} (hmag : mag < 2 ^ f.signPos) (neg : Bool) : f.signed neg mag < 2 ^ (f.signPos + 1) := by
  rw [FForm.signed, pow_succ]
  split <;> omega

/-- Each bit of a function on codes depends on the bits of its first two sources at its place, and on whether it is the sign's. -/
def ActsBitwise (g : FForm → Nat → Nat → Nat → Nat) (bit : Bool → Bool → Bool → Bool) : Prop :=
  ∀ f a b, a < 2 ^ (f.signPos + 1) → g f a b 0 < 2 ^ (f.signPos + 1) ∧
    ∀ k ≤ f.signPos, (g f a b 0).testBit k = bit (k = f.signPos) (a.testBit k) (b.testBit k)

theorem actsBitwise_codeSgn : ActsBitwise codeSgn fun sign a b => (a && !sign) || (b && sign) := fun f a b _ => by
  have hmag := Nat.mod_lt a (Nat.two_pow_pos f.signPos)
  refine ⟨signed_lt hmag _, fun k hk => ?_⟩
  rw [codeSgn, testBit_signed hmag]
  split
  next h => simp [h]
  next h => simp [h, Nat.testBit_mod_two_pow, lt_of_le_of_ne hk h]

theorem actsBitwise_codeNeg : ActsBitwise codeNeg fun sign a _ => a ^^ sign := fun f a b _ => by
  have hmag := Nat.mod_lt a (Nat.two_pow_pos f.signPos)
  refine ⟨signed_lt hmag _, fun k hk => ?_⟩
  rw [codeNeg, testBit_signed hmag]
  split
  next h => simp [h]
  next h => simp [h, Nat.testBit_mod_two_pow, lt_of_le_of_ne hk h]

theorem actsBitwise_codeAbs : ActsBitwise codeAbs fun sign a _ => a && !sign := fun f a b _ => by
  have hmag := Nat.mod_lt a (Nat.two_pow_pos f.signPos)
  refine ⟨hmag.trans (Nat.pow_lt_pow_right one_lt_two (Nat.lt_succ_self _)), fun k hk => ?_⟩
  obtain h | rfl := lt_or_eq_of_le hk
  · simp [codeAbs, Nat.testBit_mod_two_pow, h, h.ne]
  · simp [codeAbs]

/-- The halves of a word, bit by bit. -/
theorem getLsbD_halves {hi lo : Nat} (hlo : lo < 65536) {k : Nat} (hk : k < 32) :
    (BitVec.ofNat 32 (hi * 65536 + lo)).getLsbD k = if k < 16 then lo.testBit k else hi.testBit (k - 16) := by
  have hsum : hi * 65536 + lo = 2 ^ 16 * hi + lo := by omega
  rw [BitVec.getLsbD_ofNat, hsum, Nat.testBit_two_pow_mul_add _ hlo, decide_eq_true hk, Bool.true_and]

theorem getLsbD_signMask_f32 : ∀ k < 32, (signMask .f32).getLsbD k = decide (k = 31) := by decide

theorem getLsbD_signMask_half {t : Ty} (ht : t ≠ .f32) : ∀ k < 32, (signMask t).getLsbD k = decide (k = 15 ∨ k = 31) := by
  rw [signMask, if_neg ht]
  decide

/-- A function that acts bit by bit does so on whole words. -/
theorem getLsbD_perHalf {t : Ty} (ht : t.isFloat3 = true) {g : FForm → Nat → Nat → Nat → Nat} {bit : Bool → Bool → Bool → Bool}
    (hg : ActsBitwise g bit) (a b : Word) {k : Nat} (hk : k < 32) :
    (perHalf t g a b 0).getLsbD k = bit ((signMask t).getLsbD k) (a.getLsbD k) (b.getLsbD k) := by
  by_cases hf : t = .f32
  · subst hf
    obtain ⟨-, hbit⟩ := hg .f32 a.toNat b.toNat a.isLt
    rw [getLsbD_signMask_f32 k hk]
    simp only [perHalf, BitVec.getLsbD_ofNat, hk, decide_true, Bool.true_and]
    exact hbit k (Nat.le_of_lt_succ hk)
  · have hpos : (fformOf t).signPos = 15 := by cases t <;> simp_all [Ty.isFloat3, fformOf, FForm.signPos]
    have hhalves : perHalf t g a b 0 = BitVec.ofNat 32
        (g (fformOf t) (a.toNat / 65536) (b.toNat / 65536) 0 * 65536 + g (fformOf t) (a.toNat % 65536) (b.toNat % 65536) 0) := by
      cases t <;> simp_all [perHalf, Ty.isFloat3]
    obtain ⟨hlt, hlo⟩ := hg (fformOf t) (a.toNat % 65536) (b.toNat % 65536) (by rw [hpos]; omega)
    obtain ⟨-, hhi⟩ := hg (fformOf t) (a.toNat / 65536) (b.toNat / 65536) (by rw [hpos]; omega)
    rw [hpos] at hlt hlo hhi
    rw [hhalves, getLsbD_halves hlt hk, getLsbD_signMask_half hf k hk, BitVec.getLsbD, BitVec.getLsbD]
    have hmod : ∀ n j : Nat, j < 16 → (n % 65536).testBit j = n.testBit j := fun n j hj => by
      rw [show 65536 = 2 ^ 16 from rfl, Nat.testBit_mod_two_pow, decide_eq_true hj, Bool.true_and]
    have hdiv : ∀ n j : Nat, 16 ≤ j → (n / 65536).testBit (j - 16) = n.testBit j := fun n j hj => by
      rw [show 65536 = 2 ^ 16 from rfl, Nat.testBit_div_two_pow, Nat.sub_add_cancel hj]
    split
    next h =>
      rw [hlo k (by omega), hmod _ k h, hmod _ k h]
      congr 1
      exact decide_eq_decide.mpr (by omega)
    next h =>
      rw [hhi (k - 16) (by omega), hdiv _ k (by omega), hdiv _ k (by omega)]
      congr 1
      exact decide_eq_decide.mpr (by omega)

theorem perHalf_codeAbs {t : Ty} (ht : t.isFloat3 = true) (x : Word) : perHalf t codeAbs x 0 0 = x &&& ~~~signMask t :=
  BitVec.eq_of_getLsbD_eq fun k hk => by
    rw [getLsbD_perHalf ht actsBitwise_codeAbs x 0 hk]
    simp [hk]

theorem perHalf_codeNeg {t : Ty} (ht : t.isFloat3 = true) (x : Word) : perHalf t codeNeg x 0 0 = x ^^^ signMask t :=
  BitVec.eq_of_getLsbD_eq fun k hk => by
    rw [getLsbD_perHalf ht actsBitwise_codeNeg x 0 hk]
    simp

theorem perHalf_codeSgn {t : Ty} (ht : t.isFloat3 = true) (x y : Word) :
    perHalf t codeSgn x y 0 = x &&& ~~~signMask t ||| y &&& signMask t :=
  BitVec.eq_of_getLsbD_eq fun k hk => by
    rw [getLsbD_perHalf ht actsBitwise_codeSgn x y hk]
    simp [hk]

/-! ## Values that a format holds exactly (06 R145) -/

theorem roundQuot_one (m : Rnd) (neg : Bool) (n : Nat) : roundQuot m neg n 1 = n := by
  simp [roundQuot, Nat.mod_one]

/-- A significand of the format at an exponent of the format is on the grid. -/
theorem chosen_of_grid (f : FForm) (m : Rnd) (neg : Bool) {n : Nat} {k : Int} (hpos : 0 < n) (hn : n < 2 ^ (f.frac + 1))
    (hk : 1 - f.bias - f.frac ≤ k) : chosen f m neg (n * 2 ^ k : ℚ) = n * 2 ^ k := by
  have hlog : Int.log 2 (n * 2 ^ k : ℚ) < k + f.frac + 1 := by
    have hn' : (n : ℚ) < 2 ^ ((f.frac : Int) + 1) := mod_cast hn
    have hlog : Int.log 2 (n : ℚ) < f.frac + 1 := (Int.lt_zpow_iff_log_lt one_lt_two (mod_cast hpos)).mp (mod_cast hn')
    rw [log_mul_two_zpow (mod_cast hpos)]
    omega
  have hstep : stepExp f (n * 2 ^ k) ≤ k := by
    unfold stepExp
    omega
  obtain ⟨j, hj⟩ := Int.eq_ofNat_of_zero_le (sub_nonneg.mpr hstep)
  have hval : ((n * 2 ^ j : Nat) / (1 : Nat) * 2 ^ stepExp f (n * 2 ^ k) : ℚ) = n * 2 ^ k := by
    rw [Nat.cast_one, div_one, Nat.cast_mul, mul_assoc, Nat.cast_pow, Nat.cast_ofNat, ← zpow_natCast, ← zpow_add₀ two_ne_zero]
    congr 2
    omega
  rw [chosen_eq_roundQuot f m neg one_pos hval, roundQuot_one]
  rwa [Nat.cast_one, div_one] at hval

/-- An exact value is the same in every mode: it has a code. -/
theorem roundRat_exact (f : FForm) (sat : Bool) (m : Rnd) (neg : Bool) {n : Nat} {k : Int} (hpos : 0 < n) (hn : n < 2 ^ (f.frac + 1))
    (hk : 1 - f.bias - f.frac ≤ k) (hmax : (n * 2 ^ k : ℚ) ≤ magnitude f f.maxCode) :
    ∃ c ≤ f.maxCode, roundRat f sat m neg n 1 k = f.signed neg c ∧ magnitude f c = n * 2 ^ k := by
  have hround := roundingRule f sat m neg n 1 k hpos one_pos
  rw [Nat.cast_one, div_one, chosen_of_grid f m neg hpos hn hk] at hround
  simpa only [gt_iff_lt, not_lt.mpr hmax, if_false] using hround

/-- Codes of the finite range with one magnitude are one. -/
theorem code_injective {f : FForm} {b c : Nat} (hb : b ≤ f.maxCode) (hc : c ≤ f.maxCode) (h : magnitude f b = magnitude f c) : b = c := by
  rw [magnitude_eq_gridValue hb, magnitude_eq_gridValue hc] at h
  exact (gridValue_strictMono f).injective h

theorem maxCode_value_f32 : magnitude .f32 FForm.f32.maxCode = (2 ^ 24 - 1) * 2 ^ 104 := by
  rw [magnitude_eq_gridValue le_rfl, gridValue]
  norm_num [FForm.frac, FForm.bias, FForm.maxCode]

/-- A small integer rounds to itself, in every mode alike. -/
theorem roundRat_integer (m m' : Rnd) (neg : Bool) {n : Nat} (hn : n < 2 ^ 24) :
    roundRat .f32 false m neg n 1 0 = roundRat .f32 false m' neg n 1 0 := by
  obtain rfl | hpos := Nat.eq_zero_or_pos n
  · rw [roundRat, roundRat, if_pos rfl, if_pos rfl]
  have hmax : (n * 2 ^ (0 : Int) : ℚ) ≤ magnitude .f32 FForm.f32.maxCode := by
    have h : (n : ℚ) < 2 ^ 24 := mod_cast hn
    have hbig : (2 : ℚ) ^ 24 ≤ magnitude .f32 FForm.f32.maxCode := by
      rw [maxCode_value_f32]
      norm_num
    rw [zpow_zero, mul_one]
    exact h.le.trans hbig
  obtain ⟨b, hb, hround, hval⟩ := roundRat_exact .f32 false m neg hpos hn (by decide) hmax
  obtain ⟨c, hc, hround', hval'⟩ := roundRat_exact .f32 false m' neg hpos hn (by decide) hmax
  rw [hround, hround', code_injective hb hc (hval.trans hval'.symm)]

/-! ## Integral and fractional parts (09 R211) -/

theorem sigOf_lt (w : Word) : sigOf w < 2 ^ 24 := by
  unfold sigOf
  split <;> omega

/-- A finite word's last place is a unit or more exactly from 2^23 on. -/
theorem expOf_nonneg_iff {w : Word} (h : IsFinite w) : 0 ≤ expOf w ↔ 2 ^ 23 ≤ Claims.sizeOf w := by
  rw [sizeOf_eq h]
  constructor
  case mp =>
    intro he
    have hexp : 150 ≤ magBits w / 2 ^ 23 := by
      unfold expOf at he
      omega
    have hsig : 2 ^ 23 ≤ sigOf w := by
      rw [sigOf, if_neg (by omega)]
      omega
    calc (2 : ℚ) ^ 23 ≤ sigOf w := mod_cast hsig
      _ ≤ sigOf w * 2 ^ expOf w := le_mul_of_one_le_right (Nat.cast_nonneg _) (one_le_zpow₀ one_le_two he)
  case mpr =>
    intro hsize
    by_contra he
    have hunit : (2 : ℚ) ^ expOf w ≤ 2 ^ (-1 : Int) := zpow_le_zpow_right₀ one_le_two (by omega)
    have hsig : (sigOf w : ℚ) < 2 ^ 24 := mod_cast sigOf_lt w
    have hlt : (sigOf w : ℚ) * 2 ^ expOf w < 2 ^ 24 * 2 ^ (-1 : Int) :=
      mul_lt_mul hsig hunit (two_zpow_pos _) (by positivity)
    norm_num at hlt hsize
    linarith

/-- A finite word below 2^23 has an integral value below 2^24. -/
theorem roundInt_lt (m : Rnd) {w : Word} (h : IsFinite w) (hsmall : Claims.sizeOf w < 2 ^ 23) :
    (roundInt m w.msb (sigOf w) (expOf w)).natAbs < 2 ^ 24 := by
  have hvalue := scaleRat_value (sigOf w) 1 (expOf w)
  rw [Nat.cast_one, div_one, ← sizeOf_eq h] at hvalue
  have hden : 0 < (scaleRat (sigOf w) 1 (expOf w)).2 := scaleRat_den_pos _ one_pos _
  have hfloor : (scaleRat (sigOf w) 1 (expOf w)).1 / (scaleRat (sigOf w) 1 (expOf w)).2 < 2 ^ 23 := by
    have hle := (Nat.cast_div_le (α := ℚ) (m := (scaleRat (sigOf w) 1 (expOf w)).1) (n := (scaleRat (sigOf w) 1 (expOf w)).2)).trans_lt
      (hvalue.trans_lt hsmall)
    exact_mod_cast hle
  have hround := roundQuot_le_succ_div m w.msb (scaleRat (sigOf w) 1 (expOf w)).1 (scaleRat (sigOf w) 1 (expOf w)).2
  unfold roundInt
  dsimp only
  split <;> omega

theorem fRndInt_eq (m : Rnd) (x : Word) : fRndInt m x = match f32v x with
    | .nan => 0x7FC00000
    | .inf _ => x
    | .fin neg n e => if 2 ^ 23 ≤ magnitude .f32 (x.toNat % 2 ^ 31) then x
        else rounded .f32 m (.fin neg (roundInt m neg n e).natAbs 0) := by
  unfold fRndInt
  obtain h | h | h := kinds x
  · rw [f32v_nan h]
    rfl
  · rw [f32v_inf h]
  · rw [f32v_fin h]
    simp only [expOf_nonneg_iff h]
    refine if_ctx_congr Iff.rfl (fun _ => rfl) fun hsmall => ?_
    rw [roundRat_integer .rn m _ (roundInt_lt m h (not_le.mp hsmall))]
    rfl

/-- A sum of finite values is finite. -/
theorem fsum_fin (m : Rnd) {ts : List FVal} (hnan : ts.any FVal.isNan = false) (hinf : ts.any FVal.isInf = false) :
    ∃ s a e, fsum m ts = .fin s a e := by
  simp only [fsum, hnan, hinf, Bool.false_eq_true, if_false]
  split
  · split
    · exact ⟨_, _, _, rfl⟩
    · split
      · exact ⟨_, _, _, rfl⟩
      · exact ⟨_, _, _, rfl⟩
  · exact ⟨_, _, _, rfl⟩

theorem fFrac_eq (m : Rnd) (x : Word) : fFrac m x = match f32v x with
    | .fin neg n e =>
      let v := fsum m [.fin neg n e, FVal.ofInt (-roundInt .rd neg n e)]
      if v.isZero then 0 else if toF32 m v = 0x3F800000 then 0x3F7FFFFF else toF32 m v
    | _ => 0x7FC00000 := by
  unfold fFrac
  obtain h | h | h := kinds x
  · rw [f32v_nan h]
    rfl
  · rw [f32v_inf h]
    rfl
  · rw [f32v_fin h]
    obtain ⟨u, b, f, hsum⟩ := fsum_fin m (ts := [.fin x.msb (sigOf x) (expOf x), FVal.ofInt (-roundInt .rd x.msb (sigOf x) (expOf x))])
      rfl rfl
    simp only [hsum, FVal.isZero, beq_iff_eq]
    rfl

/-- Settles O7: the sign forms act bit by bit, in each half of a pair; the parts agree on each kind of word. -/
theorem floatSignsAndParts : Obligations.FloatSignsAndParts := by
  refine ⟨fun h t d a b => ⟨?_, ?_, ?_⟩, fun h m d a b => ⟨?_, ?_, ?_⟩⟩
  · exact completes1 (fun _ => rfl) fun hw x => by rw [perHalf_codeAbs (band hw).1]; rfl
  · exact completes1 (fun _ => rfl) fun hw x => by rw [perHalf_codeNeg (band hw).1]; rfl
  · exact completes2 (fun _ => rfl) fun hw x y => by rw [perHalf_codeSgn (band hw).1]; rfl
  · exact completes1 (fun _ => rfl) fun _ x => by rw [fRndInt_eq]; rfl
  · exact completes1 (fun _ => rfl) fun _ x => by rw [fFrac_eq]; rfl
  · exact completes2 (fun _ => rfl) fun _ x y => rfl

end Sys2Proof.Proofs

/-! PROOFS. Chapter 09, floating-point arithmetic on words and halves (06 R146 to R149, R151; part of O6). -/

namespace Sys2Proof.Proofs

open Sys2Proof.Machine Sys2Proof.Safety Sys2Proof.Claims Sys2Proof.Laws

/-! ## Codes in words (06 R137, R151) -/

/-- A function on codes and the statement's agree where the first two are codes of a type's format. -/
def AgreeOnCodes (t : Ty) (g : FForm → Nat → Nat → Nat → Nat) (k : Nat → Nat → Nat → Nat) : Prop :=
  ∀ a b c, a < 2 ^ ((fformOf t).signPos + 1) → b < 2 ^ ((fformOf t).signPos + 1) → g (fformOf t) a b c = k a b c

/-- The machine's halves are the statement's. -/
theorem perHalf_eq_onHalves {t : Ty} (ht : t.isFloat3 = true) {g : FForm → Nat → Nat → Nat → Nat} {k : Nat → Nat → Nat → Nat}
    (hg : AgreeOnCodes t g k) (x y z : DWord) :
    (perHalf t g (x.setWidth 32) (y.setWidth 32) (z.setWidth 32)).setWidth 64 = onHalves t k x y z := by
  have hword : ∀ n : Nat, (BitVec.ofNat 32 n).setWidth 64 = ((n % 2 ^ 32 : Nat) : DWord) := fun n => by
    rw [← setWidth_ofNat_word (Nat.mod_lt n (Nat.two_pow_pos 32))]
    congr 1
    exact BitVec.eq_of_toNat_eq (by simp)
  have hx := (x.setWidth 32).isLt
  have hy := (y.setWidth 32).isLt
  by_cases hf : t = .f32
  · subst hf
    rw [onHalves, if_pos rfl]
    simp only [perHalf, hword, Claims.count, ← hg _ _ _ hx hy]
    rfl
  · have hpos : (fformOf t).signPos = 15 := by cases t <;> simp_all [Ty.isFloat3, fformOf, FForm.signPos]
    have hlo : ∀ n : Nat, n % 65536 < 2 ^ ((fformOf t).signPos + 1) := fun n => by rw [hpos]; exact Nat.mod_lt n (by decide)
    have hhi : ∀ n : Nat, n < 2 ^ 32 → n / 65536 < 2 ^ ((fformOf t).signPos + 1) := fun n hn => by rw [hpos]; omega
    rw [onHalves, if_neg hf]
    simp only [Claims.count, ← hg _ _ _ (hlo _) (hlo _), ← hg _ _ _ (hhi _ hx) (hhi _ hy), ← hword]
    cases t with
    | f32 => exact absurd rfl hf
    | _ => rfl

/-! ## Minima and maxima (06 R149) -/

theorem isNan_decode (f : FForm) (c : Nat) : (f.decode c).isNan = nanOf f c := by
  have hdec : (f.decode c).isNan = decide (f.maxCode < c % 2 ^ f.signPos ∧ f.infCode ≠ some (c % 2 ^ f.signPos)) := by
    unfold FForm.decode
    dsimp only
    split
    next h =>
      split
      next hinf => simp_all [FVal.isNan]
      next hinf => simp_all [FVal.isNan]
    next h =>
      rw [decide_eq_false (fun hc => h hc.1)]
      split <;> rfl
  rw [hdec]
  rw [Bool.eq_iff_iff]
  cases f <;> simp [nanOf, FForm.maxCode, FForm.infCode, FForm.signPos, FForm.frac] <;> omega

/-- The key orders codes, and no two of a format's codes have one key. -/
theorem key_injective {f : FForm} {a b : Nat} (ha : a < 2 ^ (f.signPos + 1)) (hb : b < 2 ^ (f.signPos + 1)) (h : f.key a = f.key b) :
    a = b := by
  have hsign : ∀ c < 2 ^ (f.signPos + 1), c.testBit f.signPos = decide (2 ^ f.signPos ≤ c) := fun c hc => by
    have hpow : 2 ^ (f.signPos + 1) = 2 ^ f.signPos * 2 := pow_succ ..
    rw [Nat.testBit_eq_decide_div_mod_eq]
    refine decide_eq_decide.mpr ?_
    by_cases hge : 2 ^ f.signPos ≤ c
    · have hone : c / 2 ^ f.signPos = 1 := Nat.div_eq_of_lt_le (by omega) (by omega)
      simp [hone, hge]
    · simp [Nat.div_eq_of_lt (not_le.mp hge), hge]
  have hmod : ∀ c < 2 ^ (f.signPos + 1), 2 ^ f.signPos ≤ c → c % 2 ^ f.signPos = c - 2 ^ f.signPos := fun c hc hge => by
    have hpow : 2 ^ (f.signPos + 1) = 2 ^ f.signPos * 2 := pow_succ ..
    rw [Nat.mod_eq_sub_mod hge, Nat.mod_eq_of_lt (by omega)]
  unfold FForm.key at h
  rw [hsign a ha, hsign b hb] at h
  simp only [decide_eq_true_eq] at h
  split at h <;> split at h
  next h1 h2 =>
    rw [hmod a ha h1, hmod b hb h2] at h
    omega
  all_goals omega

theorem fminmax_eq_extreme {f : FForm} (isMax prefer : Bool) {a b : Nat} (ha : a < 2 ^ (f.signPos + 1)) (hb : b < 2 ^ (f.signPos + 1)) :
    fminmax f isMax prefer a b = extreme f isMax prefer a b := by
  have horder : ∀ c, f.key c = Claims.orderOf f c := fun c => by
    unfold FForm.key Claims.orderOf
    split <;> omega
  unfold fminmax extreme
  rw [isNan_decode, isNan_decode, ← horder, ← horder]
  cases nanOf f a with
  | true => cases nanOf f b <;> rfl
  | false =>
    cases nanOf f b with
    | true => rfl
    | false =>
      cases isMax with
      | true => simp
      | false =>
        obtain h | h | h := lt_trichotomy (f.key a) (f.key b)
        · simp [h, h.not_gt]
        · simp [key_injective ha hb h]
        · simp [h, h.not_gt]

/-! ## Completions (09 R206, R207, R209) -/

section
variable {t : Ty} {i : Instr} {h : Hdr} {d : Reg} {a b : Src} {g : FForm → Nat → Nat → Nat → Nat} {k : Nat → Nat → Nat}

theorem completes_fun2 (hexec : ∀ s, exec i s = .next (s.runLanes i h fun s l => s.fun2 l d t a b g))
    (hwf : WellFormed i = true → t.isFloat3 = true) (hg : AgreeOnCodes t g fun x y _ => k x y) :
    Completes2 i h d a b fun x y => onHalves t (fun x y _ => k x y) x y 0 :=
  completes2 hexec fun hw x y => perHalf_eq_onHalves (hwf hw) hg x y 0

theorem completes_funI {imm : Word} (hexec : ∀ s, exec i s = .next (s.runLanes i h fun s l => s.funI l d t a imm g))
    (hwf : WellFormed i = true → t.isFloat3 = true) (hg : AgreeOnCodes t g fun x y _ => k x y) :
    Completes1 i h d a fun x => onHalves t (fun x y _ => k x y) x (imm.setWidth 64) 0 :=
  completes1 hexec fun hw x => by
    have himm : (imm.setWidth 64).setWidth 32 = imm := by simp
    rw [← perHalf_eq_onHalves (hwf hw) hg x (imm.setWidth 64) 0, himm]
    rfl

end

theorem agree_fminmax (t : Ty) (isMax prefer : Bool) :
    AgreeOnCodes t (fun f x y _ => fminmax f isMax prefer x y) fun x y _ => extreme (fformOf t) isMax prefer x y :=
  fun _ _ _ ha hb => fminmax_eq_extreme isMax prefer ha hb

theorem floatBin_completes {k : Hdr → Ty → Rnd → Reg → Src → Src → Instr} {g : FForm → Rnd → Nat → Nat → Nat} (hk : FloatBin k g)
    (h : Hdr) (t : Ty) (m : Rnd) (d : Reg) (a b : Src) :
    Completes2 (k h t m d a b) h d a b fun x y => onHalves t (fun x y _ => g (fformOf t) m x y) x y 0 := by
  cases hk with
  | fadd => exact completes_fun2 (g := codeAdd m) (fun _ => rfl) (fun hw => (band hw).1) fun _ _ _ _ _ => rfl
  | fmul => exact completes_fun2 (g := codeMul m) (fun _ => rfl) (fun hw => (band hw).1) fun _ _ _ _ _ => rfl

theorem floatMin_completes {k : Hdr → Ty → Reg → Src → Src → Instr} {g : FForm → Nat → Nat → Nat} (hk : FloatMin k g)
    (h : Hdr) (t : Ty) (d : Reg) (a b : Src) :
    Completes2 (k h t d a b) h d a b fun x y => onHalves t (fun x y _ => g (fformOf t) x y) x y 0 := by
  cases hk with
  | fmin => exact completes_fun2 (fun _ => rfl) (fun hw => (band hw).1) (agree_fminmax t false false)
  | fmax => exact completes_fun2 (fun _ => rfl) (fun hw => (band hw).1) (agree_fminmax t true false)
  | fminn => exact completes_fun2 (fun _ => rfl) (fun hw => (band hw).1) (agree_fminmax t false true)
  | fmaxn => exact completes_fun2 (fun _ => rfl) (fun hw => (band hw).1) (agree_fminmax t true true)

theorem floatBinXi_completes {k : Hdr → Ty → Rnd → Reg → Src → Word → Instr} {g : FForm → Rnd → Nat → Nat → Nat} (hk : FloatBinXi k g)
    (h : Hdr) (t : Ty) (m : Rnd) (d : Reg) (a : Src) (i : Word) :
    Completes1 (k h t m d a i) h d a fun x => onHalves t (fun x y _ => g (fformOf t) m x y) x (i.setWidth 64) 0 := by
  cases hk with
  | faddXi => exact completes_funI (g := codeAdd m) (fun _ => rfl) (fun hw => (band hw).1) fun _ _ _ _ _ => rfl
  | fmulXi => exact completes_funI (g := codeMul m) (fun _ => rfl) (fun hw => (band hw).1) fun _ _ _ _ _ => rfl

theorem floatMinXi_completes {k : Hdr → Ty → Reg → Src → Word → Instr} {g : FForm → Nat → Nat → Nat} (hk : FloatMinXi k g)
    (h : Hdr) (t : Ty) (d : Reg) (a : Src) (i : Word) :
    Completes1 (k h t d a i) h d a fun x => onHalves t (fun x y _ => g (fformOf t) x y) x (i.setWidth 64) 0 := by
  cases hk with
  | fminXi => exact completes_funI (fun _ => rfl) (fun hw => (band hw).1) (agree_fminmax t false false)
  | fmaxXi => exact completes_funI (fun _ => rfl) (fun hw => (band hw).1) (agree_fminmax t true false)

theorem ffma_completes (h : Hdr) (t : Ty) (m : Rnd) (d : Reg) (a b c : Src) :
    Completes3 (.ffma h t m d a b c) h d a b c (onHalves t fun x y z =>
      let f := fformOf t
      rounded f m (fsum m [(f.decode x).mul (f.decode y), f.decode z])) :=
  completes3 (fun _ => rfl) fun hw x y z => perHalf_eq_onHalves (band hw).1 (fun _ _ _ _ _ => rfl) x y z

theorem floatUn_completes {k : Hdr → Rnd → Reg → Src → Instr} {g : Rnd → Word → Word} (hk : FloatUn k g)
    (h : Hdr) (m : Rnd) (d : Reg) (a : Src) : Completes1 (k h m d a) h d a (onWord (g m)) := by
  cases hk <;> exact completes1 (fun _ => rfl) fun _ _ => rfl

end Sys2Proof.Proofs

/-! PROOFS. Chapter 06, quotients and roots rounded once (06 R145, R150, R152; part of O6). -/

namespace Sys2Proof.Proofs

open Sys2Proof.Machine Sys2Proof.Safety Sys2Proof.Claims Sys2Proof.Laws

/-! ## Rounding of real magnitudes (06 R145) -/

section
variable {K : Type} [Field K] [LinearOrder K] [IsStrictOrderedRing K] [FloorRing K]

/-- A number lies in the binade from 2^i on only where its logarithm is i. -/
theorem log_of_binade {a : K} {i : Int} (hlo : 2 ^ i ≤ a) (hhi : a < 2 ^ (i + 1)) : Int.log 2 a = i := by
  have ha : 0 < a := (zpow_pos two_pos i).trans_le hlo
  have hle : i ≤ Int.log 2 a := (Int.zpow_le_iff_le_log one_lt_two ha).mp (by exact_mod_cast hlo)
  have hlt : Int.log 2 a < i + 1 := (Int.lt_zpow_iff_log_lt one_lt_two ha).mp (by exact_mod_cast hhi)
  omega

end

theorem log_ratCast {a : ℚ} (ha : 0 < a) : Int.log 2 (a : ℝ) = Int.log 2 a := by
  have hlo : (2 : ℚ) ^ Int.log 2 a ≤ a := mod_cast Int.zpow_log_le_self one_lt_two ha
  have hhi : a < (2 : ℚ) ^ (Int.log 2 a + 1) := mod_cast Int.lt_zpow_succ_log_self one_lt_two a
  refine log_of_binade ?_ ?_
  · simpa using (Rat.cast_le (K := ℝ)).mpr hlo
  · simpa using (Rat.cast_lt (K := ℝ)).mpr hhi

/-- A rational is rounded as the real that it is. -/
theorem chosen_ratCast (f : FForm) (m : Rnd) (neg : Bool) {a : ℚ} (ha : 0 < a) : chosen f m neg (a : ℝ) = (chosen f m neg a : ℚ) := by
  have hstep : (2 : ℝ) ^ (max (Int.log 2 a) (1 - f.bias) - f.frac) = ((2 ^ (max (Int.log 2 a) (1 - f.bias) - f.frac) : ℚ) : ℝ) := by
    push_cast
    rfl
  unfold chosen
  simp only [log_ratCast ha, hstep]
  generalize (2 : ℚ) ^ (max (Int.log 2 a) (1 - f.bias) - (f.frac : Int)) = q
  simp only [← Rat.cast_div, Rat.floor_cast, ← Rat.cast_intCast (α := ℝ), ← Rat.cast_mul, ← Rat.cast_add, ← Rat.cast_sub, Rat.cast_lt,
    Rat.cast_inj]
  cases m <;> split_ifs <;> rfl

/-! ## The word of a code -/

theorem codeWord_toNat (neg : Bool) {c : Nat} (hc : c < 2 ^ 31) :
    (BitVec.ofNat 32 (FForm.f32.signed neg c)).toNat = c + if neg then 2 ^ 31 else 0 := by
  rw [BitVec.toNat_ofNat, FForm.signed, show FForm.f32.signPos = 31 from rfl]
  cases neg
  · exact Nat.mod_eq_of_lt (by simp; omega)
  · exact Nat.mod_eq_of_lt (by simp; omega)

theorem codeWord_magBits (neg : Bool) {c : Nat} (hc : c < 2 ^ 31) : magBits (BitVec.ofNat 32 (FForm.f32.signed neg c)) = c := by
  rw [magBits, codeWord_toNat neg hc]
  split <;> omega

theorem codeWord_msb (neg : Bool) {c : Nat} (hc : c < 2 ^ 31) : (BitVec.ofNat 32 (FForm.f32.signed neg c)).msb = neg := by
  rw [BitVec.msb_eq_decide, codeWord_toNat neg hc]
  cases neg
  · simp; omega
  · simp

theorem codeWord_withSign (neg : Bool) {c : Nat} (hc : c < 2 ^ 31) : BitVec.ofNat 32 (FForm.f32.signed neg c) = withSign neg c := by
  refine BitVec.eq_of_toNat_eq ?_
  rw [codeWord_toNat neg hc]
  cases neg
  · simp [withSign]
    omega
  · have hor : c ||| 2147483648 = c + 2147483648 := by
      rw [Nat.lor_comm, Nat.add_comm]
      exact (Nat.two_pow_add_eq_or_of_lt (i := 31) hc 1).symm
    simp only [withSign, if_true, BitVec.toNat_or, BitVec.natCast_eq_ofNat, BitVec.toNat_ofNat, Nat.reducePow]
    rw [Nat.mod_eq_of_lt (by omega)]
    exact hor.symm

/-- A word that rounds a rational rounds every real for which Round chooses the same magnitude. -/
theorem rounds_of_chosen {m : Rnd} {neg : Bool} {num den : Nat} {e : Int} {v : ℝ} (hnum : 0 < num) (hden : 0 < den)
    (h : chosen .f32 m neg v = (chosen .f32 m neg (num / den * 2 ^ e : ℚ) : ℚ)) :
    Rounds m neg v (BitVec.ofNat 32 (roundRat .f32 false m neg num den e)) := by
  have hround := roundingRule .f32 false m neg num den e hnum hden
  unfold Rounds
  rw [h]
  simp only [Rat.cast_lt, Rat.cast_inj]
  dsimp only [gt_iff_lt] at hround
  split
  case isTrue hover =>
    exact congrArg (BitVec.ofNat 32) ((if_pos hover).mp hround)
  case isFalse hfin =>
    obtain ⟨c, hc, hcode, hval⟩ := (if_neg hfin).mp hround
    have hlt : c < 2 ^ 31 := hc.trans_lt (by decide)
    rw [hcode]
    refine ⟨?_, ?_, codeWord_msb neg hlt⟩
    · rw [← hval, Claims.sizeOf]
      exact congrArg (magnitude .f32) (codeWord_magBits neg hlt)
    · exact (codeWord_magBits neg hlt).trans_le hc

/-- A rational rounded once. -/
theorem rounds_ratCast (m : Rnd) (neg : Bool) {num den : Nat} (e : Int) (hnum : 0 < num) (hden : 0 < den) :
    Rounds m neg ((num / den * 2 ^ e : ℚ) : ℝ) (BitVec.ofNat 32 (roundRat .f32 false m neg num den e)) :=
  rounds_of_chosen hnum hden (chosen_ratCast _ _ _ (by positivity))

/-! ## A real known between two neighbours (06 R150)

A magnitude strictly between r and r + 1 units, r large enough that half a step of the format is a whole number of units, is rounded as
every other magnitude between them. -/

/-- The exponent of the format's step at r units of 2^j. -/
def cellStep (f : FForm) (r : Nat) (j : Int) : Int := max (Nat.log 2 r + j) (1 - f.bias) - f.frac

/-- The half steps in r units of 2^j. -/
def halfSteps (f : FForm) (r : Nat) (j : Int) : Nat := r / 2 ^ (cellStep f r j - 1 - j).toNat

/-- Round goes to the upper neighbour of a value past an even or odd number of half steps. -/
def roundsUp (m : Rnd) (neg odd : Bool) : Bool :=
  match m with
  | .rn => odd
  | .rz => false
  | .rd => neg
  | .ru => !neg

section
variable {K : Type} [Field K] [LinearOrder K] [IsStrictOrderedRing K] [FloorRing K]

/-- Round of a magnitude that lies past k half steps w and before the next. -/
theorem chosen_of_halfSteps (f : FForm) (m : Rnd) (neg : Bool) {v w : K} (hw : 0 < w) {d : Nat} {odd : Bool}
    (hstep : (2 : K) ^ (max (Int.log 2 v) (1 - f.bias) - f.frac) = 2 * w)
    (hlo : d * (2 * w) + (if odd then w else 0) < v) (hhi : v < d * (2 * w) + (if odd then w else 0) + w) :
    chosen f m neg v = (if roundsUp m neg odd then d * (2 * w) + 2 * w else d * (2 * w)) := by
  have hodd : (0 : K) ≤ if odd then w else 0 := ite_nonneg hw.le le_rfl
  have hodd' : (if odd then w else 0) ≤ w := by split <;> [exact le_rfl; exact hw.le]
  have hfloor : ⌊v / (2 * w)⌋ = d := by
    rw [Int.floor_eq_iff, le_div_iff₀ (by linarith), div_lt_iff₀ (by linarith), add_one_mul]
    push_cast
    constructor <;> linarith
  unfold chosen
  simp only [hstep, hfloor, Int.cast_natCast]
  rw [if_neg (by linarith)]
  cases m with
  | rn =>
    cases odd with
    | true =>
      simp only [if_true] at hlo hhi
      simp only [roundsUp, if_true]
      rw [if_neg (by linarith), if_pos (by linarith)]
    | false =>
      simp only [Bool.false_eq_true, if_false] at hlo hhi
      simp only [roundsUp, Bool.false_eq_true, if_false]
      rw [if_pos (by linarith)]
  | rz => rfl
  | rd => rfl
  | ru => cases neg <;> rfl

theorem chosen_cell (f : FForm) (m : Rnd) (neg : Bool) {v : K} {r : Nat} {j : Int} (hr : 2 ^ (f.frac + 1) ≤ r)
    (hlo : r * 2 ^ j < v) (hhi : v < (r + 1) * 2 ^ j) :
    chosen f m neg v =
      ((halfSteps f r j / 2 + if roundsUp m neg (halfSteps f r j % 2 = 1) then 1 else 0 : Nat) : K) * 2 ^ cellStep f r j := by
  have hunit : (0 : K) < 2 ^ j := zpow_pos two_pos j
  have hr0 : r ≠ 0 := (lt_of_lt_of_le (Nat.two_pow_pos _) hr).ne'
  have hlog : Int.log 2 v = Nat.log 2 r + j := by
    have hle : (2 : K) ^ Nat.log 2 r ≤ r := mod_cast Nat.pow_log_le_self 2 hr0
    have hlt : (r : K) + 1 ≤ 2 ^ (Nat.log 2 r + 1) := mod_cast Nat.lt_pow_succ_log_self one_lt_two r
    refine log_of_binade ?_ ?_
    · rw [zpow_add₀ two_ne_zero, zpow_natCast]
      exact (mul_le_mul_of_nonneg_right hle hunit.le).trans hlo.le
    · rw [add_right_comm, zpow_add₀ two_ne_zero _ j]
      exact hhi.trans_le (mul_le_mul_of_nonneg_right (mod_cast hlt) hunit.le)
  have hfrac : (f.frac : Int) + 1 ≤ Nat.log 2 r := mod_cast Nat.le_log_of_pow_le one_lt_two hr
  obtain ⟨p, hp⟩ := Int.eq_ofNat_of_zero_le (show 0 ≤ cellStep f r j - 1 - j by unfold cellStep; omega)
  have hw : (2 : K) ^ cellStep f r j = 2 * (2 ^ p * 2 ^ j) := by
    rw [← zpow_natCast, ← zpow_add₀ two_ne_zero, ← zpow_one_add₀ two_ne_zero]
    congr 1
    omega
  have hk : halfSteps f r j = r / 2 ^ p := by rw [halfSteps, hp, Int.toNat_natCast]
  have hsplit : ((halfSteps f r j / 2 : Nat) : K) * (2 * (2 ^ p * 2 ^ j)) + (if halfSteps f r j % 2 = 1 then 2 ^ p * 2 ^ j else 0) =
      (halfSteps f r j * 2 ^ p : Nat) * 2 ^ j := by
    have hmod : (halfSteps f r j : K) = 2 * (halfSteps f r j / 2 : Nat) + if halfSteps f r j % 2 = 1 then 1 else 0 := by
      conv_lhs => rw [← Nat.div_add_mod (halfSteps f r j) 2]
      obtain h | h := Nat.mod_two_eq_zero_or_one (halfSteps f r j) <;> simp [h]
    push_cast [hmod]
    split <;> ring
  have hbelow : ((halfSteps f r j * 2 ^ p : Nat) : K) ≤ r := by
    rw [hk]
    exact_mod_cast Nat.div_mul_le_self r (2 ^ p)
  have habove : (r : K) + 1 ≤ (halfSteps f r j * 2 ^ p : Nat) + 2 ^ p := by
    rw [hk]
    have h := Nat.lt_div_mul_add (a := r) (Nat.two_pow_pos p)
    exact_mod_cast h
  rw [chosen_of_halfSteps f m neg (d := halfSteps f r j / 2) (odd := decide (halfSteps f r j % 2 = 1))
    (mul_pos (pow_pos two_pos p) hunit) (by rw [hlog, ← hw]; rfl)]
  · rw [hw]
    split <;> push_cast <;> ring
  · simp only [decide_eq_true_eq]
    rw [hsplit]
    exact (mul_le_mul_of_nonneg_right hbelow hunit.le).trans_lt hlo
  · simp only [decide_eq_true_eq]
    rw [hsplit, ← add_mul]
    exact hhi.trans_le (mul_le_mul_of_nonneg_right habove hunit.le)

end

/-- A root known by r units and a sticky bit is rounded as it stands. -/
theorem rounds_sticky (m : Rnd) (neg : Bool) {v : ℝ} {r : Nat} {j : Int} (exact : Prop) [Decidable exact] (hr : 2 ^ 24 ≤ r)
    (hexact : exact → v = r * 2 ^ j) (hlo : ¬exact → r * 2 ^ j < v) (hhi : v < (r + 1) * 2 ^ j) :
    Rounds m neg v (BitVec.ofNat 32 (roundRat .f32 false m neg (2 * r + if exact then 0 else 1) 1 (j - 1))) := by
  have hhalf : ∀ n : ℚ, (2 * n : ℚ) * 2 ^ (j - 1) = n * 2 ^ j := fun n => by
    rw [zpow_sub_one₀ two_ne_zero]
    ring
  refine rounds_of_chosen (by omega) one_pos ?_
  by_cases h : exact
  · have hvalue : (((2 * r + if exact then 0 else 1 : Nat) : ℚ) / (1 : Nat) * 2 ^ (j - 1) : ℚ) = r * 2 ^ j := by
      rw [if_pos h, ← hhalf]
      push_cast
      ring
    have hpos : (0 : ℚ) < r * 2 ^ j := mul_pos (by exact_mod_cast (show 0 < r by omega)) (two_zpow_pos j)
    rw [hvalue, ← chosen_ratCast .f32 m neg hpos, hexact h]
    congr 1
    push_cast
    rfl
  · have hvalue : (((2 * r + if exact then 0 else 1 : Nat) : ℚ) / (1 : Nat) * 2 ^ (j - 1) : ℚ) = (r + 1 / 2) * 2 ^ j := by
      rw [if_neg h, ← hhalf]
      push_cast
      ring
    have hunit := two_zpow_pos j
    rw [hvalue, chosen_cell .f32 m neg hr (hlo h) hhi, chosen_cell .f32 m neg (K := ℚ) (r := r) (j := j) hr]
    · rw [Rat.cast_mul, Rat.cast_natCast, Rat.cast_zpow, Rat.cast_ofNat]
    · exact mul_lt_mul_of_pos_right (by linarith) hunit
    · exact mul_lt_mul_of_pos_right (by linarith) hunit

end Sys2Proof.Proofs

/-! PROOFS. Chapter 06, `fdiv`, `frcp`, `fsqrt` and `frsq` (06 R150, R152; part of O6). -/

namespace Sys2Proof.Proofs

open Sys2Proof.Machine Sys2Proof.Safety Sys2Proof.Claims Sys2Proof.Laws

/-! ## Zeros, infinities and their words -/

theorem not_zero_of_nan {w : Word} (h : isNaN w = true) : isZero w = false := by
  rw [isNaN_iff] at h
  rw [← Bool.not_eq_true, isZero_iff]
  omega

theorem not_zero_of_inf {w : Word} (h : isInf w = true) : isZero w = false := by
  rw [isInf_iff] at h
  rw [← Bool.not_eq_true, isZero_iff]
  omega

theorem not_inf_of_nan {w : Word} (h : isNaN w = true) : isInf w = false := by
  rw [isNaN_iff] at h
  rw [← Bool.not_eq_true, isInf_iff]
  omega

theorem isFinite_of_zero {w : Word} (h : isZero w = true) : IsFinite w := by
  rw [isZero_iff] at h
  unfold IsFinite
  omega

/-- A word is its sign on its lower bits. -/
theorem eq_withSign (w : Word) : w = withSign w.msb (magBits w) := by
  refine BitVec.eq_of_toNat_eq ?_
  rw [← codeWord_withSign w.msb (magBits_lt w), codeWord_toNat w.msb (magBits_lt w), magBits]
  have h := w.isLt
  rw [BitVec.msb_eq_decide]
  by_cases hs : 2 ^ 31 ≤ w.toNat
  · rw [decide_eq_true (by omega), if_pos rfl]
    omega
  · rw [decide_eq_false (by omega), if_neg nofun]
    omega

theorem infWord (neg : Bool) : BitVec.ofNat 32 (FForm.f32.infResult false neg) = withSign neg 0x7F800000 := by cases neg <;> rfl
theorem zeroWord (neg : Bool) : BitVec.ofNat 32 (FForm.f32.signed neg 0) = withSign neg 0 := by cases neg <;> rfl
theorem nanWord : BitVec.ofNat 32 FForm.f32.nanCode = 0x7FC00000 := rfl

/-! ## Quotients -/

theorem sig_pos {w : Word} (h : isZero w = false) : 0 < sigOf w := by
  rw [Nat.pos_iff_ne_zero, ne_eq, sigOf_eq_zero, h]
  exact Bool.false_ne_true

theorem fdivRound_fin (m : Rnd) {s u : Bool} {a b : Nat} {e f : Int} (hb : b ≠ 0) :
    fdivRound .f32 m (.fin s a e) (.fin u b f) = roundRat .f32 false m (s != u) a b (e - f) := by
  rw [fdivRound, if_neg hb]

/-- The quotient of two values in units of powers of two. -/
theorem quotient_value {a b : Nat} {e f : Int} : ((a : ℚ) / b * 2 ^ (e - f)) = a * 2 ^ e / (b * 2 ^ f) := by
  rw [zpow_sub₀ two_ne_zero, mul_div_mul_comm]

theorem divides_fdivRound (m : Rnd) (x y : Word) : Divides m x y (BitVec.ofNat 32 (fdivRound .f32 m (f32v x) (f32v y))) := by
  unfold Divides
  obtain hx | hx | hx := kinds x
  · rw [f32v_nan hx, if_pos (.inl hx)]
    rfl
  · obtain hy | hy | hy := kinds y
    · rw [f32v_nan hy, if_pos (.inr (.inl hy))]
      rw [f32v_inf hx]
      rfl
    · rw [f32v_inf hx, f32v_inf hy, if_pos (.inr (.inr (.inl ⟨hx, hy⟩)))]
      rfl
    · rw [f32v_inf hx, f32v_fin hy, if_neg (by simp [not_nan_of_inf hx, hy.not_nan, hy.not_inf, not_zero_of_inf hx]), if_pos (.inl hx)]
      exact infWord _
  · obtain hy | hy | hy := kinds y
    · rw [f32v_nan hy, if_pos (.inr (.inl hy)), f32v_fin hx]
      rfl
    · rw [f32v_inf hy, f32v_fin hx, if_neg (by simp [not_nan_of_inf hy, hx.not_nan, hx.not_inf, not_zero_of_inf hy]),
        if_neg (by simp [hx.not_inf, not_zero_of_inf hy]), if_pos (.inr hy)]
      exact zeroWord _
    · rw [f32v_fin hx, f32v_fin hy]
      cases hzx : isZero x <;> cases hzy : isZero y
      · rw [if_neg (by simp [hx.not_nan, hy.not_nan, hx.not_inf]), if_neg (by simp [hx.not_inf]), if_neg (by simp [hy.not_inf]),
          fdivRound_fin m (sig_pos hzy).ne', sizeOf_eq hx, sizeOf_eq hy, ← quotient_value]
        exact rounds_ratCast m _ _ (sig_pos hzx) (sig_pos hzy)
      · rw [if_neg (by simp [hx.not_nan, hy.not_nan, hx.not_inf]), if_pos (.inr rfl), fdivRound, if_pos (sigOf_eq_zero.mpr hzy),
          if_neg (sig_pos hzx).ne']
        exact infWord _
      · rw [if_neg (by simp [hx.not_nan, hy.not_nan, hx.not_inf]), if_neg (by simp [hx.not_inf]), if_pos (.inl rfl),
          fdivRound_fin m (sig_pos hzy).ne', sigOf_eq_zero.mpr hzx, roundRat, if_pos rfl]
        exact zeroWord _
      · rw [if_pos (by simp), fdivRound, if_pos (sigOf_eq_zero.mpr hzy), if_pos (sigOf_eq_zero.mpr hzx)]
        rfl

theorem reciprocal_sfRcp (x : Word) : Reciprocal x (sfRcp x) := by
  unfold Reciprocal sfRcp
  obtain hx | hx | hx := kinds x
  · rw [f32v_nan hx, if_pos hx]
    rfl
  · rw [f32v_inf hx, if_neg (by simp [not_nan_of_inf hx]), if_neg (by simp [not_zero_of_inf hx]), if_pos hx]
    exact (zeroWord _).trans (by simp)
  · rw [f32v_fin hx, if_neg (by simp [hx.not_nan])]
    cases hz : isZero x
    · rw [if_neg nofun, if_neg (by simp [hx.not_inf]), fdivRound_fin .rn (sig_pos hz).ne', sizeOf_eq hx]
      have hvalue : (1 / (sigOf x * 2 ^ expOf x) : ℚ) = ((1 : Nat) / sigOf x * 2 ^ (0 - expOf x) : ℚ) := by
        rw [quotient_value, Nat.cast_one, zpow_zero, mul_one]
      rw [hvalue, Bool.false_bne]
      exact rounds_ratCast .rn _ _ one_pos (sig_pos hz)
    · rw [if_pos rfl, fdivRound, if_pos (sigOf_eq_zero.mpr hz), if_neg one_ne_zero, Bool.false_bne]
      exact infWord _

/-! ## Integer roots -/

/-- Newton's step from above stays above the root. -/
theorem sqrt_le_newton (n : Nat) {x : Nat} (hx : 0 < x) : n.sqrt ≤ (x + n / x) / 2 := by
  rw [Nat.le_div_iff_mul_le two_pos]
  have hdiv : 2 * n.sqrt - x ≤ n / x := by
    rw [Nat.le_div_iff_mul_le hx]
    refine le_trans ?_ (Nat.sqrt_le' n)
    obtain h | h := le_total (2 * n.sqrt) x
    · simp [Nat.sub_eq_zero_of_le h]
    · obtain ⟨k, hk⟩ := Nat.exists_eq_add_of_le h
      rw [hk, Nat.add_sub_cancel_left]
      nlinarith [sq_nonneg ((x : Int) - k)]
  omega

/-- Newton's step halves the distance from the root. -/
theorem newton_sub_sqrt_le {n x : Nat} (hx : n.sqrt < x) : (x + n / x) / 2 - n.sqrt ≤ (x - n.sqrt) / 2 := by
  have hdiv : n / x < n.sqrt + 1 := by
    rw [Nat.div_lt_iff_lt_mul (by omega)]
    calc n < (n.sqrt + 1) ^ 2 := Nat.lt_succ_sqrt' n
      _ = (n.sqrt + 1) * (n.sqrt + 1) := sq _
      _ ≤ (n.sqrt + 1) * x := Nat.mul_le_mul_left _ hx
  omega

theorem isqrtAux_eq_sqrt {n : Nat} (hn : 0 < n) (fuel : Nat) {x : Nat} (hlo : n.sqrt ≤ x) (hhi : x - n.sqrt < 2 ^ fuel) :
    isqrtAux n (fuel + 1) x = n.sqrt := by
  induction fuel generalizing x with
  | zero =>
    obtain rfl : x = n.sqrt := by omega
    rw [isqrtAux, if_neg (not_lt.mpr (sqrt_le_newton n (Nat.sqrt_pos.mpr hn)))]
  | succ fuel ih =>
    rw [isqrtAux]
    obtain rfl | hlt := hlo.eq_or_lt
    · rw [if_neg (not_lt.mpr (sqrt_le_newton n (Nat.sqrt_pos.mpr hn)))]
    · have hnext := newton_sub_sqrt_le hlt
      rw [pow_succ] at hhi
      rw [if_pos (by omega)]
      exact ih (sqrt_le_newton n (by omega)) (by omega)

/-- The machine's root is the integer root. -/
theorem isqrt_eq_sqrt (n : Nat) : isqrt n = n.sqrt := by
  unfold isqrt
  split
  case isTrue h => rw [h, Nat.sqrt_zero]
  case isFalse h =>
    have hpos := Nat.sqrt_pos.mpr (Nat.pos_of_ne_zero h)
    have hroot : n.sqrt < 2 ^ (n.log2 / 2 + 1) := by
      rw [Nat.sqrt_lt', ← pow_mul]
      exact Nat.lt_log2_self.trans_le (Nat.pow_le_pow_right two_pos (by omega))
    have hstart : 2 ^ (n.log2 / 2 + 1) ≤ 2 ^ (n.log2 + 1) := Nat.pow_le_pow_right two_pos (by omega)
    exact isqrtAux_eq_sqrt (Nat.pos_of_ne_zero h) (n.log2 + 1) hroot.le (by omega)

/-! ## Roots (06 R150, R152) -/

/-- The root of T × 4^j, where r units are the root of T from below, rounded with a sticky bit. -/
theorem rounds_sqrt (m : Rnd) {t : ℝ} {r : Nat} (j : Int) (exact : Prop) [Decidable exact] (hr : 2 ^ 24 ≤ r) (hexact : exact → (r : ℝ) ^ 2 = t)
    (hlo : ¬exact → (r : ℝ) ^ 2 < t) (hhi : t < (r + 1) ^ 2) :
    Rounds m false (Real.sqrt (t * 2 ^ (2 * j)))
      (BitVec.ofNat 32 (roundRat .f32 false m false (2 * r + if exact then 0 else 1) 1 (j - 1))) := by
  have hunit : (0 : ℝ) < 2 ^ j := zpow_pos two_pos j
  have hroot : Real.sqrt (t * 2 ^ (2 * j)) = Real.sqrt t * 2 ^ j := by
    rw [Real.sqrt_mul' _ (by positivity), mul_comm 2 j, zpow_mul, zpow_ofNat, Real.sqrt_sq hunit.le]
  rw [hroot]
  refine rounds_sticky m false exact hr (fun h => ?_) (fun h => ?_) ?_
  · rw [← hexact h, Real.sqrt_sq (Nat.cast_nonneg r)]
  · exact mul_lt_mul_of_pos_right (Real.lt_sqrt_of_sq_lt (hlo h)) hunit
  · exact mul_lt_mul_of_pos_right ((Real.sqrt_lt' (by positivity)).mpr hhi) hunit

/-- A value in units of an even power of two. -/
theorem sizeOf_even {w : Word} (h : IsFinite w) :
    ((Claims.sizeOf w : ℚ) : ℝ) = (sigOf w * 2 ^ (expOf w % 2).toNat : Nat) * 2 ^ (2 * (expOf w / 2)) := by
  obtain ⟨b, hb⟩ := Int.eq_ofNat_of_zero_le (Int.emod_nonneg (expOf w) two_ne_zero)
  rw [sizeOf_eq h, hb, Int.toNat_natCast]
  push_cast
  rw [mul_assoc, ← zpow_natCast, ← zpow_add₀ two_ne_zero]
  congr 2
  omega

theorem roots_fsqrtRound (m : Rnd) (x : Word) : Roots m x (BitVec.ofNat 32 (fsqrtRound .f32 m (f32v x))) := by
  unfold Roots
  obtain hx | hx | hx := kinds x
  · rw [f32v_nan hx, if_neg (by simp [not_zero_of_nan hx]), if_pos (.inl hx)]
    rfl
  · rw [f32v_inf hx, if_neg (by simp [not_zero_of_inf hx])]
    cases hs : x.msb
    · rw [if_neg (by simp [not_nan_of_inf hx]), if_pos hx, eq_withSign x, hs, isInf_iff.mp hx]
      rfl
    · rw [if_pos (.inr rfl)]
      rfl
  · rw [f32v_fin hx]
    cases hz : isZero x
    · rw [if_neg nofun]
      cases hs : x.msb
      · rw [if_neg (by simp [hx.not_nan]), if_neg (by simp [hx.not_inf])]
        simp only [fsqrtRound, if_neg (sig_pos hz).ne', Bool.false_eq_true, if_false, isqrt_eq_sqrt]
        generalize hn : sigOf x * 2 ^ (128 + (expOf x % 2).toNat) = n
        have hvalue : ((Claims.sizeOf x : ℚ) : ℝ) = n * 2 ^ (2 * (expOf x / 2 - 64)) := by
          rw [sizeOf_even hx, ← hn]
          push_cast
          rw [pow_add, mul_sub, zpow_sub₀ two_ne_zero]
          norm_num
          ring
        have hbig : 2 ^ 128 ≤ n := by
          rw [← hn, pow_add]
          nlinarith [sig_pos hz, Nat.two_pow_pos (expOf x % 2).toNat]
        have hr : 2 ^ 24 ≤ n.sqrt := by
          rw [Nat.le_sqrt']
          omega
        have hexp : expOf x / 2 - 65 = expOf x / 2 - 64 - 1 := by omega
        rw [hvalue, hexp]
        refine rounds_sqrt m _ (n.sqrt * n.sqrt = n) hr (fun h => ?_) (fun h => ?_) ?_
        · exact_mod_cast (sq _).trans h
        · exact_mod_cast lt_of_le_of_ne (Nat.sqrt_le' n) fun hc => h ((sq _).symm.trans hc)
        · exact_mod_cast Nat.lt_succ_sqrt' n
      · rw [if_pos (.inr rfl)]
        simp only [fsqrtRound, if_neg (sig_pos hz).ne', if_true]
        rfl
    · rw [if_pos rfl, fsqrtRound, if_pos (sigOf_eq_zero.mpr hz), zeroWord]
      conv_rhs => rw [eq_withSign x, isZero_iff.mp hz]
      rfl

/-- The root of 2^256 / k from the integer quotient's root, with a sticky bit that looks at the whole quotient. -/
theorem rounds_inverse_root {k : Nat} (j : Int) (hpos : 0 < k) (hsmall : k < 2 ^ 25) :
    Rounds .rn false (Real.sqrt ((2 ^ 256 / k : ℝ) * 2 ^ (2 * j)))
      (BitVec.ofNat 32 (roundRat .f32 false .rn false
        (2 * (2 ^ 256 / k).sqrt + if (2 ^ 256 / k).sqrt * (2 ^ 256 / k).sqrt * k = 2 ^ 256 then 0 else 1) 1 (j - 1))) := by
  have hk : (0 : ℝ) < k := mod_cast hpos
  have hr : 2 ^ 24 ≤ (2 ^ 256 / k).sqrt := by
    rw [Nat.le_sqrt', Nat.le_div_iff_mul_le hpos]
    calc (2 ^ 24) ^ 2 * k ≤ (2 ^ 24) ^ 2 * 2 ^ 25 := Nat.mul_le_mul_left _ hsmall.le
      _ ≤ 2 ^ 256 := by norm_num
  have hlo : (2 ^ 256 / k).sqrt ^ 2 * k ≤ 2 ^ 256 := (Nat.le_div_iff_mul_le hpos).mp (Nat.sqrt_le' _)
  have hhi : 2 ^ 256 < ((2 ^ 256 / k).sqrt + 1) ^ 2 * k := (Nat.div_lt_iff_lt_mul hpos).mp (Nat.lt_succ_sqrt' _)
  generalize (2 ^ 256 / k).sqrt = r at hr hlo hhi ⊢
  refine rounds_sqrt .rn j (r * r * k = 2 ^ 256) hr (fun h => ?_) (fun h => ?_) ?_
  · rw [eq_div_iff hk.ne', sq]
    exact_mod_cast h
  · rw [lt_div_iff₀ hk]
    exact_mod_cast lt_of_le_of_ne hlo fun hc => h (by rw [← hc, sq])
  · rw [div_lt_iff₀ hk]
    exact_mod_cast hhi

theorem reciprocalRoot_sfRsq (x : Word) : ReciprocalRoot x (sfRsq x) := by
  unfold ReciprocalRoot sfRsq
  obtain hx | hx | hx := kinds x
  · rw [f32v_nan hx, if_neg (by simp [not_zero_of_nan hx]), if_pos (.inl hx)]
    rfl
  · rw [f32v_inf hx, if_neg (by simp [not_zero_of_inf hx])]
    cases hs : x.msb
    · rw [if_neg (by simp [not_nan_of_inf hx]), if_pos hx]
      rfl
    · rw [if_pos (.inr rfl)]
      rfl
  · rw [f32v_fin hx]
    cases hz : isZero x
    · rw [if_neg nofun]
      cases hs : x.msb
      · rw [if_neg (by simp [hx.not_nan]), if_neg (by simp [hx.not_inf])]
        simp only [if_neg (sig_pos hz).ne', Bool.false_eq_true, if_false, isqrt_eq_sqrt]
        generalize hk : sigOf x * 2 ^ (expOf x % 2).toNat = k
        have hvalue : 1 / Real.sqrt ((Claims.sizeOf x : ℚ) : ℝ) =
            Real.sqrt ((2 ^ 256 / k : ℝ) * 2 ^ (2 * (-(expOf x / 2) - 128))) := by
          rw [one_div, ← Real.sqrt_inv, sizeOf_even hx, hk]
          congr 1
          rw [mul_sub, zpow_sub₀ two_ne_zero, mul_neg, zpow_neg]
          norm_num
          field_simp
        have hpos : 0 < k := hk ▸ Nat.mul_pos (sig_pos hz) (Nat.two_pow_pos _)
        have hsmall : k < 2 ^ 25 := by
          have hpar : 2 ^ (expOf x % 2).toNat ≤ 2 ^ 1 := Nat.pow_le_pow_right two_pos (by omega)
          have hsig := sigOf_lt x
          rw [← hk]
          nlinarith
        have hexp : -(expOf x / 2) - 129 = -(expOf x / 2) - 128 - 1 := by omega
        rw [hvalue, hexp]
        exact rounds_inverse_root _ hpos hsmall
      · rw [if_pos (.inr rfl)]
        simp only [if_neg (sig_pos hz).ne', if_true]
        rfl
    · rw [if_pos rfl]
      simp only [if_pos (sigOf_eq_zero.mpr hz)]
      exact infWord _

end Sys2Proof.Proofs

/-! PROOFS. Chapter 06, the exact values of the special functions (06 R153), and the settling of O6. -/

namespace Sys2Proof.Proofs

open Sys2Proof.Machine Sys2Proof.Safety Sys2Proof.Claims Sys2Proof.Laws

/-! ## Values and their words -/

theorem IsFinite.of_toNat_lt {w : Word} (h : w.toNat < 0x7F800000) : IsFinite w := (Nat.mod_le _ _).trans_lt h

theorem msb_of_toNat_lt {w : Word} (h : w.toNat < 0x7F800000) : w.msb = false := by
  rw [BitVec.msb_eq_decide]
  exact decide_eq_false (by omega)

/-- The word of an exact value. -/
theorem exactWord (m : Rnd) (neg : Bool) {n : Nat} {k : Int} (hpos : 0 < n) (hn : n < 2 ^ 24) (hk : -149 ≤ k)
    (hmax : (n * 2 ^ k : ℚ) ≤ 2 ^ 127) :
    let w := BitVec.ofNat 32 (roundRat .f32 false m neg n 1 k)
    magBits w < 0x7F800000 ∧ w.msb = neg ∧ Claims.sizeOf w = n * 2 ^ k := by
  have hbig : (2 : ℚ) ^ 127 ≤ magnitude .f32 FForm.f32.maxCode := by
    rw [maxCode_value_f32]
    norm_num
  obtain ⟨c, hc, hcode, hval⟩ := roundRat_exact .f32 false m neg hpos hn hk (hmax.trans hbig)
  have hlt : c < 2 ^ 31 := hc.trans_lt (by decide)
  dsimp only
  rw [hcode, codeWord_magBits neg hlt, codeWord_msb neg hlt, ← hval, Claims.sizeOf]
  exact ⟨Nat.lt_of_le_of_lt hc (by decide), rfl, congrArg (magnitude .f32) (codeWord_magBits neg hlt)⟩

/-- Rounding down is the floor. -/
theorem roundInt_rd (s : Bool) (a : Nat) (e : Int) : roundInt .rd s a e = ⌊signedValue s a e⌋ := by
  have hvalue := scaleRat_value a 1 e
  have hpos : 0 < (scaleRat a 1 e).2 := scaleRat_den_pos _ one_pos _
  rw [Nat.cast_one, div_one] at hvalue
  unfold roundInt signedValue
  dsimp only
  rw [← hvalue]
  generalize (scaleRat a 1 e).1 = p at hvalue ⊢
  generalize (scaleRat a 1 e).2 = q at hvalue hpos ⊢
  have hq : (0 : ℚ) < q := mod_cast hpos
  have hsplit := Nat.div_add_mod p q
  have hmod := Nat.mod_lt p hpos
  symm
  cases s
  · rw [if_neg nofun, if_neg nofun, Rat.floor_natCast_div_natCast]
    simp [roundQuot]
  · rw [if_pos rfl, if_pos rfl, Int.floor_eq_iff, ← neg_div, le_div_iff₀ hq, div_lt_iff₀ hq]
    simp only [roundQuot, if_true]
    generalize p / q = k at hsplit ⊢
    generalize p % q = r at hsplit hmod ⊢
    split
    case isTrue hr =>
      rw [hr, add_zero] at hsplit
      have hsplit' : (q : ℚ) * k = p := mod_cast hsplit
      push_cast
      constructor <;> nlinarith
    case isFalse hr =>
      have hsplit' : (q : ℚ) * k + r = p := mod_cast hsplit
      have hmod' : (r : ℚ) < q := mod_cast hmod
      have hr' : (0 : ℚ) < r := mod_cast Nat.pos_of_ne_zero hr
      push_cast
      constructor <;> nlinarith

/-! ## Fixed point -/

/-- A finite value's magnitude in units of 2^−400. -/
def fixSize (w : Word) : Nat := sigOf w * 2 ^ (expOf w + 400).toNat

theorem expOf_ge (w : Word) : -149 ≤ expOf w := by
  unfold expOf
  omega

theorem scaleRat_fix (w : Word) : scaleRat (sigOf w) 1 (expOf w + 400) = (fixSize w, 1) := by
  have h := expOf_ge w
  rw [scaleRat, if_pos (by omega), fixSize]

theorem fixOne_value : (fixOne : ℚ) = 2 ^ 400 := Int.cast_pow 2 400

theorem fixSize_value {w : Word} (h : IsFinite w) : (fixSize w : ℚ) = Claims.sizeOf w * fixOne := by
  rw [fixOne_value]
  obtain ⟨n, hn⟩ := Int.eq_ofNat_of_zero_le (show 0 ≤ expOf w + 400 by have := expOf_ge w; omega)
  rw [sizeOf_eq h, fixSize, hn, Int.toNat_natCast, Nat.cast_mul, Nat.cast_pow, Nat.cast_ofNat, mul_assoc, ← zpow_natCast,
    ← zpow_natCast, ← zpow_add₀ two_ne_zero]
  congr 2
  exact hn.symm

theorem fixOf_eq (w : Word) : fixOf w.msb (sigOf w) (expOf w) = if w.msb then -(fixSize w : Int) else fixSize w := by
  rw [fixOf, scaleRat_fix, Nat.div_one]

theorem fixMod2_eq (w : Word) : fixMod2 (sigOf w) (expOf w) = (fixSize w % 2 ^ 401 : Nat) := by
  rw [fixMod2, scaleRat_fix, Nat.div_one]

/-- The fixed-point form of a finite value is exact. -/
theorem fixOf_value {w : Word} (h : IsFinite w) : (fixOf w.msb (sigOf w) (expOf w) : ℚ) = valueOf w * fixOne := by
  rw [fixOf_eq, valueOf]
  split
  · rw [Int.cast_neg, Int.cast_natCast, fixSize_value h, neg_mul]
  · rw [Int.cast_natCast, fixSize_value h]

/-! ## `fex2` -/

theorem powerOfTwo_sfEx2 (x : Word) : PowerOfTwo x (sfEx2 x) := by
  refine ⟨fun h => ?_, fun h => ?_, fun hx hbig => ?_, fun n hlo hhi (hx : IsFinite x) hn => ?_⟩
  · rw [sfEx2, f32v_nan h]
    rfl
  · rw [sfEx2, f32v_inf h]
    rfl
  · have hfin := IsFinite.of_toNat_lt hx
    rw [sfEx2, f32v_fin hfin]
    simp only [roundInt_rd, ← valueOf_eq hfin]
    exact if_pos (Int.le_floor.mpr (by exact_mod_cast hbig))
  · have hfrac : fixOf x.msb (sigOf x) (expOf x) - n * fixOne = 0 := by
      have h := fixOf_value hx
      rw [hn] at h
      rw [sub_eq_zero]
      exact_mod_cast h
    have hmax : ((1 : Nat) * 2 ^ n : ℚ) ≤ 2 ^ 127 := by
      rw [Nat.cast_one, one_mul]
      exact_mod_cast zpow_le_zpow_right₀ (one_le_two (α := ℚ)) hhi
    obtain ⟨hfin, hneg, hsize⟩ := exactWord .rn false one_pos (by norm_num) hlo hmax
    rw [sfEx2, f32v_fin hx]
    simp only [roundInt_rd, ← valueOf_eq hx, hn, Int.floor_intCast, hfrac, if_true]
    rw [if_neg (by omega), if_neg (by omega), valueOf, hneg, if_neg nofun, hsize, Nat.cast_one, one_mul]
    refine ⟨rfl, ?_⟩
    rwa [magBits, Nat.mod_eq_of_lt (BitVec.toNat_lt_of_msb_false hneg)] at hfin

/-! ## `flg2` -/

theorem ofInt_word {n : Int} (hlo : -149 ≤ n) (hhi : n ≤ 127) :
    valueOf (toF32 .rn (FVal.ofInt n)) = n ∧ magBits (toF32 .rn (FVal.ofInt n)) < 0x7F800000 ∧ (n = 0 → toF32 .rn (FVal.ofInt n) = 0) := by
  by_cases h0 : n = 0
  · subst h0
    have hword : toF32 .rn (FVal.ofInt 0) = 0 := by decide
    rw [hword]
    refine ⟨?_, by decide, fun _ => rfl⟩
    rw [valueOf, if_neg (by decide), sizeOf_eq (by unfold IsFinite; decide), sigOf_eq_zero.mpr (by decide), Nat.cast_zero,
      zero_mul, Int.cast_zero]
  · have hsmall : n.natAbs ≤ 149 := by omega
    have hmax : (n.natAbs * 2 ^ (0 : Int) : ℚ) ≤ 2 ^ 127 := by
      have h : (n.natAbs : ℚ) ≤ 149 := mod_cast hsmall
      rw [zpow_zero, mul_one]
      exact h.trans (by norm_num)
    obtain ⟨hfin, hneg, hsize⟩ := exactWord .rn (decide (n < 0)) (by omega) (by omega) (by norm_num) hmax
    have hword : toF32 .rn (FVal.ofInt n) = BitVec.ofNat 32 (roundRat .f32 false .rn (decide (n < 0)) n.natAbs 1 0) := rfl
    rw [hword]
    refine ⟨?_, hfin, fun h => absurd h h0⟩
    rw [valueOf, hneg, hsize, zpow_zero, mul_one]
    split
    next h =>
      have habs : (n.natAbs : Int) = -n := by
        have := of_decide_eq_true h
        omega
      rw [← Int.cast_natCast, habs]
      push_cast
      ring
    next h =>
      have habs : (n.natAbs : Int) = n := by
        have := of_decide_eq_false (Bool.not_eq_true _ ▸ h)
        omega
      rw [← Int.cast_natCast, habs]

/-- The significand of a power of two is one itself. -/
theorem sigOf_power {x : Word} (hx : IsFinite x) (hpos : x.msb = false) {n : Int} (h : valueOf x = 2 ^ n) :
    ∃ j : Nat, sigOf x = 2 ^ j ∧ j + expOf x = n := by
  rw [valueOf_eq hx, signedValue, hpos, if_neg nofun] at h
  have hsig : 1 ≤ sigOf x := by
    rw [Nat.one_le_iff_ne_zero]
    intro h0
    rw [h0, Nat.cast_zero, zero_mul] at h
    exact (two_zpow_pos n).ne h
  have hle : expOf x ≤ n := by
    rw [← zpow_le_zpow_iff_right₀ (one_lt_two (α := ℚ)), ← h]
    exact le_mul_of_one_le_left (two_zpow_pos _).le (mod_cast hsig)
  obtain ⟨j, hj⟩ := Int.eq_ofNat_of_zero_le (sub_nonneg.mpr hle)
  refine ⟨j, ?_, by omega⟩
  have hsig' : (sigOf x : ℚ) = 2 ^ j := by
    rw [← zpow_natCast, ← hj, zpow_sub₀ two_ne_zero, eq_div_iff (two_zpow_pos _).ne', h]
  exact_mod_cast hsig'

theorem logarithm_sfLg2 (x : Word) : Logarithm x (sfLg2 x) := by
  refine ⟨fun h => ?_, fun h => ?_, fun h hs => ?_, fun hz hs => ?_, fun n hlo hhi hx hn => ?_⟩
  · rw [sfLg2, f32v_nan h]
    rfl
  · rw [sfLg2, f32v_fin (isFinite_of_zero h)]
    simp only [if_pos (sigOf_eq_zero.mpr h)]
    rfl
  · rw [sfLg2, f32v_inf h, hs]
    rfl
  · rw [sfLg2]
    obtain h | h | h := kinds x
    · rw [f32v_nan h]
      rfl
    · rw [f32v_inf h, hs]
      rfl
    · rw [f32v_fin h, hs]
      simp only [if_neg (sig_pos hz).ne', if_true]
      rfl
  · have hfin := IsFinite.of_toNat_lt hx
    have hneg := msb_of_toNat_lt hx
    obtain ⟨j, hsig, hexp⟩ := sigOf_power hfin hneg hn
    rw [sfLg2, f32v_fin hfin, hneg]
    simp only [hsig, Nat.log2_two_pow, (Nat.two_pow_pos j).ne', if_false, if_true, hexp, Bool.false_eq_true]
    exact ofInt_word hlo hhi

/-! ## `fsin` and `fcos` by quarters of a turn -/

/-- Half of one. -/
def fixHalf : Int := 2 ^ 399

theorem fixHalf_pos : 0 < fixHalf := pow_pos two_pos 399

theorem fixOne_eq : fixOne = 2 * fixHalf := pow_succ' 2 399

theorem two_mul_fixOne : 2 * fixOne = 4 * fixHalf := by
  rw [fixOne_eq]
  ring

theorem mul_fixHalf_emod (a b : Int) : a * fixHalf % (b * fixHalf) = a % b * fixHalf := by
  rw [mul_comm a, mul_comm b, mul_comm _ fixHalf]
  exact Int.mul_emod_mul_of_pos a b fixHalf_pos

/-- The place in a turn of a value of h half units. -/
theorem fixMod2_quarters {x : Word} (hx : IsFinite x) {h : Nat} (hh : Claims.sizeOf x = h / 2) :
    fixMod2 (sigOf x) (expOf x) = (h % 4 : Nat) * fixHalf := by
  have hsize : (fixSize x : Int) = h * fixHalf := by
    have hval := fixSize_value hx
    have hhalf : (h / 2 * fixOne : ℚ) = h * fixHalf := by
      rw [fixOne_eq]
      push_cast
      ring
    rw [hh, hhalf] at hval
    exact_mod_cast hval
  have hturn : ((2 ^ 401 : Nat) : Int) = 4 * fixHalf := by
    rw [Int.natCast_pow, ← two_mul_fixOne]
    exact pow_succ' 2 400
  rw [fixMod2_eq, Int.natCast_emod, hsize, hturn, mul_fixHalf_emod, Int.natCast_emod]
  rfl

/-- The sines of a turn's quarters. -/
theorem fixSinTurn_quarters : fixSinTurn (0 * fixHalf) = 0 ∧ fixSinTurn (1 * fixHalf) = fixOne ∧ fixSinTurn (2 * fixHalf) = 0 ∧
    fixSinTurn (3 * fixHalf) = -fixOne := by
  have hpos := fixHalf_pos
  simp only [fixSinTurn, fixOne_eq]
  generalize fixHalf = u at *
  refine ⟨?_, ?_, ?_, ?_⟩ <;> split_ifs <;> omega

theorem sfSin_halves {x : Word} (hx : IsFinite x) {h : Nat} (hh : Claims.sizeOf x = h / 2) :
    sfSin x = if h % 2 = 0 then withSign x.msb 0 else withSign (x.msb != decide (h % 4 = 3)) 0x3F800000 := by
  obtain ⟨-, hone, -, hthree⟩ := fixSinTurn_quarters
  have hpos : 0 < fixOne := fixOne_eq ▸ Int.mul_pos two_pos fixHalf_pos
  have hwhole : ((h % 4 : Nat) * fixHalf % fixOne = 0) ↔ h % 2 = 0 := by
    rw [fixOne_eq, mul_fixHalf_emod, mul_eq_zero, or_iff_left fixHalf_pos.ne']
    omega
  rw [sfSin, f32v_fin hx]
  simp only [fixMod2_quarters hx hh, hwhole]
  split
  next => exact zeroWord _
  next heven =>
    obtain hq | hq : h % 4 = 1 ∨ h % 4 = 3 := by omega
    · have hneg : -fixOne ≠ fixOne := by omega
      rw [hq, Nat.cast_one, hone]
      cases x.msb <;> simp [hneg, withSign]
    · have hneg : -fixOne ≠ fixOne := by omega
      rw [hq, Nat.cast_ofNat, hthree]
      cases x.msb <;> simp [hneg, withSign]

theorem sfCos_halves {x : Word} (hx : IsFinite x) {h : Nat} (hh : Claims.sizeOf x = h / 2) :
    sfCos x = if h % 2 = 1 then 0 else withSign (decide (h % 4 = 2)) 0x3F800000 := by
  obtain ⟨hzero, hone, htwo, hthree⟩ := fixSinTurn_quarters
  have hpos : 0 < fixOne := fixOne_eq ▸ Int.mul_pos two_pos fixHalf_pos
  have hneg : -fixOne ≠ fixOne := by omega
  have hturn : ((h % 4 : Nat) * fixHalf + fixOne / 2) % (2 * fixOne) = ((h + 1) % 4 : Nat) * fixHalf := by
    have hsum : (h % 4 : Nat) * fixHalf + fixOne / 2 = ((h % 4 : Nat) + 1) * fixHalf := by
      rw [fixOne_eq, Int.mul_ediv_cancel_left _ two_ne_zero]
      ring
    rw [hsum, two_mul_fixOne, mul_fixHalf_emod]
    congr 1
    omega
  rw [sfCos, f32v_fin hx]
  simp only [fixMod2_quarters hx hh, hturn]
  obtain hq | hq | hq | hq : h % 4 = 0 ∨ h % 4 = 1 ∨ h % 4 = 2 ∨ h % 4 = 3 := by omega
  · rw [if_neg (show ¬h % 2 = 1 by omega), show (h + 1) % 4 = 1 by omega, hq, Nat.cast_one, hone]
    simp [hpos.ne', withSign]
  · rw [if_pos (show h % 2 = 1 by omega), show (h + 1) % 4 = 2 by omega, Nat.cast_ofNat, htwo]
    rfl
  · rw [if_neg (show ¬h % 2 = 1 by omega), show (h + 1) % 4 = 3 by omega, hq, Nat.cast_ofNat, hthree]
    simp [hpos.ne', hneg, withSign]
  · rw [if_pos (show h % 2 = 1 by omega), show (h + 1) % 4 = 0 by omega, Nat.cast_zero, hzero]
    rfl

/-- A signed number of half units has its magnitude's halves. -/
theorem sizeOf_halves {x : Word} {k : Int} (h : valueOf x = k / 2) : Claims.sizeOf x = (k.natAbs : Nat) / 2 := by
  have hnonneg : 0 ≤ Claims.sizeOf x := by
    unfold Claims.sizeOf magnitude
    split <;> positivity
  have habs : Claims.sizeOf x = |valueOf x| := by
    unfold valueOf
    split
    · rw [abs_neg, abs_of_nonneg hnonneg]
    · rw [abs_of_nonneg hnonneg]
  rw [habs, h, abs_div, Nat.cast_natAbs, Int.cast_abs, abs_of_pos (two_pos (α := ℚ))]

/-- The sign of an odd number of half units is the word's. -/
theorem msb_of_halves {x : Word} {k : Int} (h : valueOf x = k / 2) (hk : k ≠ 0) : x.msb = decide (k < 0) := by
  have hsize := sizeOf_halves h
  have hpos : (0 : ℚ) < k.natAbs := mod_cast Int.natAbs_pos.mpr hk
  rw [valueOf, hsize] at h
  cases hs : x.msb
  · rw [hs, if_neg nofun] at h
    have hk' : (0 : ℚ) < k := by linarith
    exact (decide_eq_false (by exact_mod_cast hk'.le.not_gt)).symm
  · rw [hs, if_pos rfl] at h
    have hk' : (k : ℚ) < 0 := by linarith
    exact (decide_eq_true (by exact_mod_cast hk')).symm

theorem value_of_integer {x : Word} {n : Int} (h : valueOf x = n) : valueOf x = (2 * n : Int) / 2 := by
  rw [h]
  push_cast
  ring

theorem value_of_half {x : Word} {n : Int} (h : valueOf x = n + 1 / 2) : valueOf x = (2 * n + 1 : Int) / 2 := by
  rw [h]
  push_cast
  ring

theorem sine_sfSin (x : Word) : Sine x (sfSin x) := by
  refine ⟨fun h => ?_, fun n hx => ⟨fun h => ?_, fun h => ?_⟩⟩
  · rw [sfSin]
    obtain h | h := h
    · rw [f32v_nan h]
      rfl
    · rw [f32v_inf h]
      rfl
  · rw [sfSin_halves hx (sizeOf_halves (value_of_integer h)), if_pos (by omega)]
  · have hhalf := value_of_half h
    rw [sfSin_halves hx (sizeOf_halves hhalf), if_neg (by omega), msb_of_halves hhalf (by omega), alternating]
    congr 1
    rw [Bool.eq_iff_iff]
    simp
    omega

theorem cosine_sfCos (x : Word) : Cosine x (sfCos x) := by
  refine ⟨fun h => ?_, fun n hx => ⟨fun h => ?_, fun h => ?_⟩⟩
  · rw [sfCos]
    obtain h | h := h
    · rw [f32v_nan h]
      rfl
    · rw [f32v_inf h]
      rfl
  · rw [sfCos_halves hx (sizeOf_halves (value_of_integer h)), if_neg (by omega), alternating]
    congr 1
    exact decide_eq_decide.mpr (by omega)
  · rw [sfCos_halves hx (sizeOf_halves (value_of_half h)), if_pos (by omega)]

theorem tangent_sfTanh (x : Word) : Tangent x (sfTanh x) := by
  refine ⟨fun h => ?_, fun h => ?_, fun h => ?_⟩
  · rw [sfTanh, f32v_nan h]
    rfl
  · rw [sfTanh, f32v_fin (isFinite_of_zero h)]
    simp only [if_pos (sigOf_eq_zero.mpr h)]
  · rw [sfTanh, f32v_inf h]
    exact codeWord_withSign x.msb (by decide)

/-! ## The settling -/

/-- The function of a one-source instruction of the table of R207. -/
def specialOf : Instr → Rnd → Word → Word
  | .fsqrt .. => fun m x => BitVec.ofNat 32 (fsqrtRound .f32 m (f32v x))
  | .frcp .. => fun _ x => sfRcp x
  | .frsq .. => fun _ x => sfRsq x
  | .fex2 .. => fun _ x => sfEx2 x
  | .flg2 .. => fun _ x => sfLg2 x
  | .fsin .. => fun _ x => sfSin x
  | .fcos .. => fun _ x => sfCos x
  | .ftanh .. => fun _ x => sfTanh x
  | _ => fun _ x => x

theorem eq_specialOf {k : Hdr → Rnd → Reg → Src → Instr} {g : Rnd → Word → Word} (hg : FloatUn k g) (h : Hdr) (m : Rnd) (d : Reg)
    (a : Src) : g = specialOf (k h m d a) := by
  cases hg <;> rfl

/-- Each special function takes its exact values. -/
theorem floatValue_holds {k : Hdr → Rnd → Reg → Src → Instr} {g : Rnd → Word → Word} {p : Rnd → Word → Word → Prop}
    (hg : FloatUn k g) (hp : FloatValue k p) (m : Rnd) (x : Word) : p m x (g m x) := by
  rw [eq_specialOf hg bare m (.g 0 false) Src.unused]
  cases hp with
  | fsqrt => exact roots_fsqrtRound m x
  | frcp => exact reciprocal_sfRcp x
  | frsq => exact reciprocalRoot_sfRsq x
  | fex2 => exact powerOfTwo_sfEx2 x
  | flg2 => exact logarithm_sfLg2 x
  | fsin => exact sine_sfSin x
  | fcos => exact cosine_sfCos x
  | ftanh => exact tangent_sfTanh x

/-- Settles O6: each form completes with the statement's function on words or halves, and the values of the special functions are those of
the procedure or of the exact points. -/
theorem floatResults : Obligations.FloatResults := by
  refine ⟨fun k g => floatBin_completes, fun k g => floatMin_completes, fun k g => floatBinXi_completes, fun k g => floatMinXi_completes,
    fun k g hg => ⟨floatUn_completes hg, fun p hp => floatValue_holds hg hp⟩, divides_fdivRound, fun h m d a b => ?_, fun h m d a b => ?_,
    ffma_completes, fun h t m d a b c => ?_⟩
  · exact completes2 (fun _ => rfl) fun _ _ _ => rfl
  · exact completes2 (fun _ => rfl) fun _ _ _ => rfl
  · exact completes3 (fun _ => rfl) fun _ _ _ _ => rfl

end Sys2Proof.Proofs

/-! PROOFS. Chapter 09, the frame of classes 0 to 3 and `srd` (O14). -/

namespace Sys2Proof.Proofs

open Sys2Proof.Machine Sys2Proof.Safety Sys2Proof.Claims Sys2Proof.Laws

/-! ## What a lane's destinations let change of a thread -/

/-- `b` is `a` but for PC, readiness, and the registers and predicates of `dst`. -/
structure ThreadFrame (dst : List WRef) (a b : Thread) : Prop where
  same : b = { a with
    pc := b.pc, st := b.st, stamp := b.stamp, snap := b.snap, read := b.read, readDenied := b.readDenied, regs := b.regs
    preds := b.preds, pempty := b.pempty }
  regs : ∀ n, WRef.g n ∉ dst → b.reg n = a.reg n
  preds : ∀ n, n < 16 → WRef.p n ∉ dst → b.pred n = a.pred n ∧ b.predEmpty n = a.predEmpty n

theorem threadFrame_moveTo (dst : List WRef) (t : Thread) (pc : Word) : ThreadFrame dst t (t.moveTo pc) :=
  ⟨rfl, fun _ _ => rfl, fun _ _ _ => ⟨rfl, rfl⟩⟩

theorem threadFrame_ready (dst : List WRef) (t : Thread) (stamp : Nat) : ThreadFrame dst t { t with st := .ready, stamp := stamp } :=
  ⟨rfl, fun _ _ => rfl, fun _ _ _ => ⟨rfl, rfl⟩⟩

theorem threadFrame_setReg {dst : List WRef} {n : Nat} (h : WRef.g n ∈ dst) (t : Thread) (w : RegWord) : ThreadFrame dst t (t.setReg n w) :=
  ⟨rfl, fun _ hm => reg_setReg_other t w fun hmn => hm (hmn ▸ h), fun _ _ _ => ⟨rfl, rfl⟩⟩

theorem threadFrame_setPred {dst : List WRef} {n : Nat} (h : WRef.p n ∈ dst) (t : Thread) (b : Bool) : ThreadFrame dst t (t.setPred n b) := by
  refine ⟨?_, fun _ _ => ?_, fun m hm hdst => pred_setPred_other t b (fun hmn => hdst (hmn ▸ h)) hm⟩
  · unfold Thread.setPred
    split <;> rfl
  · unfold Thread.setPred
    split <;> rfl

/-! ## Frames compose -/

theorem laneFrame_issues (s : State) (iss : Issue) (rest : List Issue) (dst : List WRef) : LaneFrame s { s with issues := rest } iss dst :=
  ⟨rfl, fun _ => rfl, fun _ => rfl, fun _ _ => rfl, rfl, .inl rfl, fun _ _ => rfl, fun _ => rfl, fun _ _ _ => rfl, fun _ _ _ _ => ⟨rfl, rfl⟩,
    fun _ => rfl, fun _ _ _ => rfl⟩

theorem laneFrame_refl (s : State) (iss : Issue) (dst : List WRef) : LaneFrame s s iss dst := laneFrame_issues s iss s.issues dst

section
variable {s t u : State} {iss : Issue} {dst : List WRef}

theorem laneFrame_group (h : LaneFrame s t iss dst) (x : Nat) : (t.thread iss.core x).group = (s.thread iss.core x).group := by
  rw [h.lanes x]

theorem laneFrame_trans (a : LaneFrame s t iss dst) (b : LaneFrame t u iss dst) : LaneFrame s u iss dst where
  rest := by
    have h := b.rest
    rw [a.rest] at h
    exact h
  mem c := (b.mem c).trans (a.mem c)
  hostMem c := (b.hostMem c).trans (a.hostMem c)
  cores c hc := (b.cores c hc).trans (a.cores c hc)
  core := by
    have h := b.core
    rw [a.core] at h
    exact h
  latch := b.latch.elim (fun h => a.latch.imp h.trans h.trans) .inr
  others x hx := (b.others x hx).trans (a.others x hx)
  lanes x := by
    have h := b.lanes x
    rw [a.lanes x] at h
    exact h
  regs x n hn := (b.regs x n hn).trans (a.regs x n hn)
  preds x n hn hd := by
    obtain ⟨hpred, hempty⟩ := a.preds x n hn hd
    obtain ⟨hpred', hempty'⟩ := b.preds x n hn hd
    exact ⟨hpred'.trans hpred, hempty'.trans hempty⟩
  groups g := by
    have h := b.groups g
    rw [a.groups g] at h
    exact h
  sregs g n h := (b.sregs g n (h.imp_right fun hx x hm => laneFrame_group a x ▸ hx x hm)).trans (a.sregs g n h)

theorem laneFrame_nextUnit (h : LaneFrame s t iss dst) : t.nextUnit = s.nextUnit := by rw [h.rest]

theorem laneFrame_foldl {α : Type} {f : State → α → State} {l : List α} (hf : ∀ s, ∀ a ∈ l, LaneFrame s (f s a) iss dst) (s : State) :
    LaneFrame s (l.foldl f s) iss dst :=
  List.foldlRecOn (motive := fun u => LaneFrame s u iss dst) l f (laneFrame_refl s iss dst) fun u hu a ha => laneFrame_trans hu (hf u a ha)

end

/-! ## The state's operations within a frame -/

section
variable {iss : Issue} {dst : List WRef}

theorem laneFrame_modThread (s : State) {x : Nat} (hx : x ∈ iss.lanes) {f : Thread → Thread}
    (hf : ThreadFrame dst (s.thread iss.core x) (f (s.thread iss.core x))) : LaneFrame s (s.modThread iss.core x f) iss dst := by
  have hthreads : ∀ y, ThreadFrame dst (s.thread iss.core y) ((s.modThread iss.core x f).thread iss.core y) := fun y => by
    by_cases hy : y = x
    · subst hy
      rwa [thread_modThread]
    · rw [thread_modThread_other s f (.inr hy)]
      exact ⟨rfl, fun _ _ => rfl, fun _ _ _ => ⟨rfl, rfl⟩⟩
  have honly := onlyThreads_modThread s iss.core x f
  refine ⟨rfl, fun _ => rfl, fun _ => rfl, fun c hc => core_modCore_other _ _ hc, ?_, ?_, fun y hy => ?_, fun y => (hthreads y).same,
    fun y => (hthreads y).regs, fun y => (hthreads y).preds, fun g => ?_, fun g n _ => by rw [honly.group]⟩
  · rw [honly.2 iss.core]
  · rw [honly.2 iss.core]
    exact .inl rfl
  · exact thread_modThread_other s f (.inr fun h => hy (h ▸ hx))
  · rw [honly.group]

theorem laneFrame_goesOn (s : State) {x : Nat} (hx : x ∈ iss.lanes) (pc : Word) (y : Bool) :
    LaneFrame s (s.goesOn iss.core x pc y) iss dst := by
  unfold State.goesOn State.ready
  refine laneFrame_trans (laneFrame_modThread s hx (f := fun t => t.moveTo pc) (threadFrame_moveTo dst _ pc)) ?_
  exact laneFrame_modThread _ hx (threadFrame_ready dst _ _)

theorem laneFrame_waits (s : State) {x : Nat} (hx : x ∈ iss.lanes) (w : Wait) : LaneFrame s (s.waits iss.core x w) iss dst :=
  laneFrame_modThread s hx ⟨rfl, fun _ _ => rfl, fun _ _ _ => ⟨rfl, rfl⟩⟩

theorem laneFrame_releaseA (s : State) (n : Nat) (g : Option (Nat × Nat)) : LaneFrame s (s.releaseA iss.core n g) iss dst := by
  have hthread := fun x => thread_releaseA s iss.core n iss.core x g
  have hgroup := fun k => group_releaseA s iss.core n g iss.core k
  cases g with
  | none => exact laneFrame_refl s iss dst
  | some g =>
    refine ⟨rfl, fun _ => rfl, fun _ => rfl, fun c hc => core_modCore_other _ _ hc, ?_, ?_, fun x _ => hthread x, fun x => ?_,
      fun x n _ => by rw [hthread], fun x n _ _ => by rw [hthread]; exact ⟨rfl, rfl⟩, fun k => ?_, fun k n _ => by rw [hgroup]⟩
    · rw [State.releaseA, core_modCore]
    · rw [State.releaseA, core_modCore]
      cases (s.core iss.core).latchA with
      | none => exact .inl rfl
      | some l =>
        simp only [Option.filter]
        split
        · exact .inl rfl
        · exact .inr rfl
    · rw [hthread]
    · rw [hgroup]

theorem laneFrame_setSreg (s : State) {x n : Nat} (hx : x ∈ iss.lanes) (hn : WRef.s n ∈ dst) {g : Nat × Nat}
    (hg : (s.thread iss.core x).group = some g) (w : RegWord) :
    LaneFrame s (s.modGroup iss.core g.1 fun k => { k with sregs := Tbl.set k.sregs n w }) iss dst := by
  have hthread := fun y => thread_modGroup s iss.core g.1 iss.core y fun k => { k with sregs := Tbl.set k.sregs n w }
  refine ⟨rfl, fun _ => rfl, fun _ => rfl, fun c hc => core_modCore_other _ _ hc, ?_, ?_, fun y _ => hthread y, fun y => by rw [hthread],
    fun y m _ => by rw [hthread], fun y m _ _ => by rw [hthread]; exact ⟨rfl, rfl⟩, fun k => ?_, fun k m h => ?_⟩
  · rw [core_modGroup]
  · rw [core_modGroup]
    exact .inl rfl
  · by_cases hk : k = g.1
    · rw [hk, group_modGroup]
    · rw [group_modGroup_other s _ (.inr hk)]
  · by_cases hk : k = g.1
    · subst hk
      have hne : m ≠ n := fun hmn => h.elim (fun hd => hd (hmn ▸ hn)) fun hd => hd x hx (congrArg (Option.map Prod.fst) hg)
      rw [group_modGroup]
      exact tbl_get_set_other _ _ _ hne
    · rw [group_modGroup_other s _ (.inr hk)]

theorem laneFrame_writeWord (s : State) {x : Nat} (hx : x ∈ iss.lanes) {r : WRef} (hr : r ∈ dst) (v : Word) :
    LaneFrame s (s.writeWord iss.core x r v) iss dst := by
  unfold State.writeWord State.setWord
  split
  · exact laneFrame_refl s iss dst
  · cases r with
    | g n =>
      exact laneFrame_trans (laneFrame_modThread s hx (f := fun t => t.setReg n _) (threadFrame_setReg hr _ _))
        (laneFrame_releaseA _ n _)
    | p n => exact laneFrame_modThread s hx (f := fun t => t.setPred n _) (threadFrame_setPred hr _ _)
    | s n =>
      dsimp only
      split
      next g hg => exact laneFrame_setSreg s hx hr hg _
      next => exact laneFrame_refl s iss dst

end

/-! ## Outcomes of lanes -/

/-- A lane of an issue. -/
def LaneIn (iss : Issue) (l : Lane) : Prop := l.core = iss.core ∧ l.ctx ∈ iss.lanes

/-- What the outcome does to a state stays within the frame of `dst`. -/
def Within (dst : List WRef) (l : Lane) (o : LaneOut) : Prop :=
  ∀ iss (s : State), LaneIn iss l → LaneFrame s (s.applyOut l o) iss dst

section
variable {dst : List WRef} {l : Lane}

theorem within_wait (w : Wait) : Within dst l (.wait w) := fun iss s ⟨hc, hx⟩ => by
  rw [State.applyOut, hc]
  exact laneFrame_waits s hx w

theorem within_trap (t : Trap) : Within dst l (.trap t) := fun iss s _ => laneFrame_refl s iss dst

theorem within_write {ws : List (WRef × Word)} (hws : ∀ e ∈ ws, e.1 ∈ dst) (pc : Option Word) : Within dst l (.write ws pc) :=
  fun iss s ⟨hc, hx⟩ => by
    rw [State.applyOut, State.complete, hc]
    exact laneFrame_trans (laneFrame_foldl (fun u e he => laneFrame_writeWord u hx (hws e he) e.2) s) (laneFrame_goesOn _ hx _ _)

theorem within_readCheck {s : State} {rs : List (WRef × Bool)} {o : LaneOut} (h : s.readCheck l rs = some o) : Within dst l o := by
  unfold State.readCheck at h
  dsimp only at h
  split at h
  · obtain rfl := Option.some.inj h
    exact within_trap _
  · split at h
    · obtain rfl := Option.some.inj h
      exact within_wait _
    · obtain ⟨t, -, rfl⟩ := Option.map_eq_some_iff.mp h
      exact within_trap t

theorem within_destCheck {s : State} {rs : List WRef} {o : LaneOut} (h : s.destCheck l rs = some o) : Within dst l o := by
  unfold State.destCheck at h
  dsimp only at h
  split at h
  · exact absurd h nofun
  · obtain rfl := Option.some.inj h
    exact within_wait _

/-- A lane reads and checks, then does what stays within the frame. -/
theorem within_checked (s : State) (rs : List (WRef × Bool)) (ds : List WRef) {o : LaneOut} (ho : Within dst l o) :
    Within dst l (match s.readCheck l rs with
      | some e => e
      | none => match s.destCheck l ds with
        | some e => e
        | none => o) := by
  split
  next h => exact within_readCheck h
  next =>
    split
    next h => exact within_destCheck h
    next => exact ho

theorem within_compute (s : State) (xs : List Src) (ds : List WRef) {f : List DWord → LaneOut} (hf : ∀ vs, Within dst l (f vs)) :
    Within dst l (s.compute l xs ds f) := within_checked s _ ds (hf _)

theorem destWrites_refs {d : Reg} {v : DWord} {e : WRef × Word} (h : e ∈ destWrites d v) : e.1 ∈ Reg.refs d := by
  unfold destWrites at h
  split at h
  next a b hrefs =>
    obtain rfl | rfl : e = _ ∨ e = _ := by simpa using h
    · simp [hrefs]
    · simp [hrefs]
  next a rest _ hrefs =>
    obtain rfl := List.mem_singleton.mp h
    simp [hrefs]
  next => exact absurd h List.not_mem_nil

theorem within_dest (d : Reg) (v : DWord) (pc : Option Word) : Within (Reg.refs d) l (.write (destWrites d v) pc) :=
  within_write (fun _ => destWrites_refs) pc

end

end Sys2Proof.Proofs

/-! PROOFS. Chapter 09, what each instruction of classes 0 to 3 and `srd` may write (O14). -/

namespace Sys2Proof.Proofs

open Sys2Proof.Machine Sys2Proof.Safety Sys2Proof.Claims Sys2Proof.Laws

/-! ## Units that park, and units that do not -/

theorem nextUnit_park (s : State) (u : FUnit) : (s.park u false).nextUnit = s.nextUnit + 1 := by
  have hthreads : (threadsParked s u).nextUnit = s.nextUnit + 1 := by rw [(onlyThreads_threadsParked s u).1]
  exact (congrArg State.nextUnit (park_only s u).1).trans hthreads

/-- A unit has parked, or the state changed within the frame of the issue's destinations. -/
def ParksOr (iss : Issue) (dst : List WRef) (s t : State) : Prop := s.nextUnit < t.nextUnit ∨ LaneFrame s t iss dst

section
variable {iss : Issue} {dst : List WRef} {s t u : State}

theorem parksOr_trans (a : ParksOr iss dst s t) (b : ParksOr iss dst t u) : ParksOr iss dst s u := by
  obtain a | a := a
  · exact .inl (b.elim a.trans fun h => (laneFrame_nextUnit h).symm ▸ a)
  · exact b.imp (fun h => laneFrame_nextUnit a ▸ h) (laneFrame_trans a)

theorem parksOr_foldl {α : Type} {f : State → α → State} {l : List α} (hf : ∀ s, ∀ a ∈ l, ParksOr iss dst s (f s a)) (s : State) :
    ParksOr iss dst s (l.foldl f s) :=
  List.foldlRecOn (motive := ParksOr iss dst s) l f (.inr (laneFrame_refl s iss dst)) fun _ hu a ha => parksOr_trans hu (hf _ a ha)

theorem parksOr_parkLanes (s : State) (ls : List Lane) (e : Trap) (bad : List Nat) (pc : Word) (r : Resume) :
    ParksOr iss dst s (s.parkLanes ls e bad pc r) := by
  cases ls with
  | nil => exact .inr (laneFrame_refl s iss dst)
  | cons l ls => exact .inl ((nextUnit_park s _).symm ▸ Nat.lt_succ_self _)

end

/-! ## An issue whose lanes' outcomes stay within the frame -/

/-- An instruction is executed lane by lane, and each lane's outcome stays within the frame of `dst`. -/
def LanesWithin (i : Instr) (h : Hdr) (dst : List WRef) : Prop :=
  ∃ (f : State → Lane → LaneOut) (whole : Bool),
    (∀ s, exec i s = .next (s.runUnits i h fun s ls => s.runActive ls f whole)) ∧ ∀ s l, Within dst l (f s l)

theorem lanesWithin_runLanes {i : Instr} {h : Hdr} {dst : List WRef} {f : State → Lane → LaneOut}
    (hexec : ∀ s, exec i s = .next (s.runLanes i h f)) (hf : ∀ s l, Within dst l (f s l)) : LanesWithin i h dst := ⟨f, false, hexec, hf⟩

section
variable {iss : Issue} {dst : List WRef}

theorem laneFrame_passLane (h : Hdr) (s : State) {l : Lane} (hl : LaneIn iss l) : LaneFrame s (State.passLane h s l) iss dst := by
  obtain ⟨hc, hx⟩ := hl
  unfold State.passLane
  rw [hc]
  split
  · exact laneFrame_waits s hx _
  · split
    · exact laneFrame_refl s iss dst
    · exact laneFrame_goesOn s hx _ _

/-- Outcomes that are held back for another's retry wait; the others stay. -/
theorem within_holdOuts {outs : List (Lane × LaneOut)} (h : ∀ o ∈ outs, LaneIn iss o.1 ∧ Within dst o.1 o.2) :
    ∀ o ∈ holdOuts outs, LaneIn iss o.1 ∧ Within dst o.1 o.2 := by
  unfold holdOuts
  split
  · intro o ho
    obtain ⟨p, hp, rfl⟩ := List.mem_map.mp ho
    obtain ⟨hin, hwithin⟩ := h p hp
    split
    · exact ⟨hin, within_wait _⟩
    · exact ⟨hin, hwithin⟩
  · exact h

theorem parksOr_runActive {f : State → Lane → LaneOut} (hf : ∀ s l, Within dst l (f s l)) (whole : Bool) (s : State) {ls : List Lane}
    (hls : ∀ l ∈ ls, LaneIn iss l) : ParksOr iss dst s (s.runActive ls f whole) := by
  have houts : ∀ o ∈ ls.map fun l => (l, f s l), LaneIn iss o.1 ∧ Within dst o.1 o.2 := fun o ho => by
    obtain ⟨l, hl, rfl⟩ := List.mem_map.mp ho
    exact ⟨hls l hl, hf s l⟩
  have hheld : ∀ o ∈ if whole then holdOuts (ls.map fun l => (l, f s l)) else ls.map fun l => (l, f s l),
      LaneIn iss o.1 ∧ Within dst o.1 o.2 := by
    split
    · exact within_holdOuts houts
    · exact houts
  unfold State.runActive
  dsimp only
  split
  next =>
    exact .inr (laneFrame_foldl (fun u o ho => by
      obtain ⟨hin, hwithin⟩ := hheld o ho
      exact hwithin iss u hin) s)
  next => exact parksOr_parkLanes s ls _ _ _ _

theorem parksOr_runUnit (i : Instr) (h : Hdr) {f : State → Lane → LaneOut} (hf : ∀ s l, Within dst l (f s l)) (whole : Bool) (s : State)
    {ls : List Lane} (hls : ∀ l ∈ ls, LaneIn iss l) :
    ParksOr iss dst s (State.runUnit i h (fun s ls => s.runActive ls f whole) s ls) := by
  cases ls with
  | nil => exact .inr (laneFrame_refl s iss dst)
  | cons l ls =>
    unfold State.runUnit
    dsimp only
    split
    · exact parksOr_parkLanes s _ _ _ _ _
    · refine parksOr_trans (.inr (laneFrame_foldl (fun u k hk => laneFrame_passLane h u (hls k hk)) s)) ?_
      exact parksOr_runActive hf whole _ fun k hk => hls k (List.mem_of_mem_filter hk)

end

theorem laneIn_laneOf (s : State) (iss : Issue) (hints : BitVec 9) : ∀ l ∈ iss.lanes.map (s.laneOf iss hints), LaneIn iss l := fun l hl => by
  obtain ⟨x, hx, rfl⟩ := List.mem_map.mp hl
  exact ⟨rfl, hx⟩

/-- An instruction whose lanes stay within the frame does so, unless a unit parks. -/
theorem laneFrame_of_lanesWithin {i : Instr} {h : Hdr} {dst : List WRef} (hi : LanesWithin i h dst) {s t : State} {iss : Issue}
    {rest : List Issue} (hs : s.issues = iss :: rest) (ht : exec i s = .next t) (hn : t.nextUnit = s.nextUnit) : LaneFrame s t iss dst := by
  obtain ⟨f, whole, hexec, hf⟩ := hi
  obtain rfl := Host.Outcome.next.inj ((hexec s).symm.trans ht)
  have hrun : ParksOr iss dst s (s.runUnits i h fun s ls => s.runActive ls f whole) := by
    unfold State.runUnits
    rw [hs]
    refine parksOr_trans (.inr (laneFrame_issues s iss rest dst)) (parksOr_foldl (fun u ls hls => ?_) _)
    exact parksOr_runUnit i h hf whole u fun l hl => laneIn_laneOf _ iss h.hints l (of_mem_unitsOf hls hl)
  exact hrun.resolve_left hn.not_gt

/-! ## The shapes -/

section
variable {i : Instr} {h : Hdr} {t : Ty} {d : Reg} {a b c : Src} {p : PReg}

theorem lanesWithin_un {g : DWord → DWord} (hexec : ∀ s, exec i s = .next (s.runLanes i h fun s l => s.un l d a g)) :
    LanesWithin i h (Reg.refs d) := lanesWithin_runLanes hexec fun s _ => within_compute s _ _ fun _ => within_dest d _ _

theorem lanesWithin_bin {g : DWord → DWord → DWord} (hexec : ∀ s, exec i s = .next (s.runLanes i h fun s l => s.bin l d a b g)) :
    LanesWithin i h (Reg.refs d) := lanesWithin_runLanes hexec fun s _ => within_compute s _ _ fun _ => within_dest d _ _

theorem lanesWithin_tern {g : DWord → DWord → DWord → DWord}
    (hexec : ∀ s, exec i s = .next (s.runLanes i h fun s l => s.tern l d a b c g)) : LanesWithin i h (Reg.refs d) :=
  lanesWithin_runLanes hexec fun s _ => within_compute s _ _ fun _ => within_dest d _ _

theorem lanesWithin_ternIf {used : Bool} {g : DWord → DWord → DWord → DWord}
    (hexec : ∀ s, exec i s = .next (s.runLanes i h fun s l => s.ternIf used l d a b c g)) : LanesWithin i h (Reg.refs d) := by
  refine lanesWithin_runLanes hexec fun s l => ?_
  cases used
  · exact within_compute s _ _ fun _ => within_dest d _ _
  · exact within_compute s _ _ fun _ => within_dest d _ _

theorem lanesWithin_carry {g : DWord → DWord → Bool → DWord × Bool}
    (hexec : ∀ s, exec i s = .next (s.runLanes i h fun s l => s.carry l d a b p g)) :
    LanesWithin i h (.p p.toNat :: Reg.refs d) :=
  lanesWithin_runLanes hexec fun s _ => within_checked s _ _ (within_write (fun e he => by
    obtain he | he := List.mem_append.mp he
    · exact List.mem_cons_of_mem _ (destWrites_refs he)
    · obtain rfl := List.mem_singleton.mp he
      exact List.mem_cons_self) none)

theorem within_pred {l : Lane} (n : Nat) (v : Word) : Within [.p n] l (.write [(.p n, v)] none) :=
  within_write (fun e he => by
    obtain rfl := List.mem_singleton.mp he
    exact List.mem_singleton_self _) none

theorem lanesWithin_cmp2 {g : DWord → DWord → Bool} (hexec : ∀ s, exec i s = .next (s.runLanes i h fun s l => s.cmp2 l p a b g)) :
    LanesWithin i h [.p p.toNat] := lanesWithin_runLanes hexec fun s _ => within_compute s _ _ fun _ => within_pred _ _

theorem lanesWithin_predOp {qs : List PReg} {g : List Bool → Bool}
    (hexec : ∀ s, exec i s = .next (s.runLanes i h fun s l => s.predOp l p qs g)) : LanesWithin i h [.p p.toNat] :=
  lanesWithin_runLanes hexec fun s _ => within_checked s _ _ (within_pred _ _)

theorem within_jump {dst : List WRef} {l : Lane} (pc : Option Word) : Within dst l (.write [] pc) :=
  within_write (fun _ he => absurd he List.not_mem_nil) pc

theorem within_link {l : Lane} (pc : Option Word) : Within [.g 15] l (.write (linkWrite l) pc) :=
  within_write (fun e he => by
    obtain rfl := List.mem_singleton.mp he
    exact List.mem_singleton_self _) pc

end

/-! ## The instructions -/

section
variable {h : Hdr} {t : Ty} {m : Rnd} {d : Reg} {a b c : Src} {i : Word}

theorem lanesWithin_intBin {k : Hdr → Ty → Reg → Src → Src → Instr} {g : Ty → DWord → DWord → DWord} (hk : IntBin k g) :
    LanesWithin (k h t d a b) h (Reg.refs d) := by
  cases hk <;> exact lanesWithin_bin fun _ => rfl

theorem lanesWithin_intImm {k : Hdr → Ty → Reg → Src → Word → Instr} {g : Ty → DWord → DWord → DWord} (hk : IntImm k g) :
    LanesWithin (k h t d a i) h (Reg.refs d) := by
  cases hk <;> exact lanesWithin_un fun _ => rfl

theorem lanesWithin_intUn {k : Hdr → Ty → Reg → Src → Instr} {g : Ty → DWord → DWord} (hk : IntUn k g) :
    LanesWithin (k h t d a) h (Reg.refs d) := by
  cases hk <;> exact lanesWithin_un fun _ => rfl

theorem lanesWithin_intTern {k : Hdr → Ty → Reg → Src → Src → Src → Instr} {g : Ty → DWord → DWord → DWord → DWord} (hk : IntTern k g) :
    LanesWithin (k h t d a b c) h (Reg.refs d) := by
  cases hk <;> exact lanesWithin_tern fun _ => rfl

theorem lanesWithin_shift {k : Hdr → Ty → Reg → Src → Src → Instr} {g : Ty → DWord → DWord → DWord} (hk : Shift k g) :
    LanesWithin (k h t d a b) h (Reg.refs d) := by
  cases hk <;> exact lanesWithin_bin fun _ => rfl

theorem lanesWithin_bitUn {k : Hdr → Ty → Reg → Src → Instr} {g : Ty → DWord → DWord} (hk : BitUn k g) :
    LanesWithin (k h t d a) h (Reg.refs d) := by
  cases hk <;> exact lanesWithin_un fun _ => rfl

theorem lanesWithin_floatBin {k : Hdr → Ty → Rnd → Reg → Src → Src → Instr} {g : FForm → Rnd → Nat → Nat → Nat} (hk : FloatBin k g) :
    LanesWithin (k h t m d a b) h (Reg.refs d) := by
  cases hk <;> exact lanesWithin_bin fun _ => rfl

theorem lanesWithin_floatMin {k : Hdr → Ty → Reg → Src → Src → Instr} {g : FForm → Nat → Nat → Nat} (hk : FloatMin k g) :
    LanesWithin (k h t d a b) h (Reg.refs d) := by
  cases hk <;> exact lanesWithin_bin fun _ => rfl

theorem lanesWithin_floatBinXi {k : Hdr → Ty → Rnd → Reg → Src → Word → Instr} {g : FForm → Rnd → Nat → Nat → Nat} (hk : FloatBinXi k g) :
    LanesWithin (k h t m d a i) h (Reg.refs d) := by
  cases hk <;> exact lanesWithin_un fun _ => rfl

theorem lanesWithin_floatMinXi {k : Hdr → Ty → Reg → Src → Word → Instr} {g : FForm → Nat → Nat → Nat} (hk : FloatMinXi k g) :
    LanesWithin (k h t d a i) h (Reg.refs d) := by
  cases hk <;> exact lanesWithin_un fun _ => rfl

theorem lanesWithin_floatUn {k : Hdr → Rnd → Reg → Src → Instr} {g : Rnd → Word → Word} (hk : FloatUn k g) :
    LanesWithin (k h m d a) h (Reg.refs d) := by
  cases hk <;> exact lanesWithin_un fun _ => rfl

end

theorem lanesWithin_sel {h : Hdr} {d : Reg} {a b : Src} {p : PReg} : LanesWithin (.sel h d a b p) h (Reg.refs d) :=
  lanesWithin_runLanes (fun _ => rfl) fun s l => by
    split
    · exact within_wait _
    · exact within_checked s _ _ (within_dest d _ _)

theorem lanesWithin_qpack {h : Hdr} {d a : Reg} {b : Src} {c : Reg} : LanesWithin (.qpack h d a b c) h (Reg.refs d ++ Reg.refs c) :=
  lanesWithin_runLanes (fun _ => rfl) fun s l => within_checked s _ _ (by
    dsimp only
    split
    · exact within_trap _
    · refine within_write (fun e he => ?_) none
      exact List.mem_append.mpr ((List.mem_append.mp he).imp destWrites_refs destWrites_refs))

theorem lanesWithin_qunpack {h : Hdr} {m : Rnd} {d : Reg} {a b : Src} : LanesWithin (.qunpack h m d a b) h (eightRefs d) :=
  lanesWithin_runLanes (fun _ => rfl) fun s l => within_compute s _ _ fun vs => by
    dsimp only
    split
    · exact within_trap _
    · refine within_write (fun e he => ?_) none
      obtain ⟨p, hp, rfl⟩ := List.mem_map.mp he
      exact List.fst_mem_of_mem_zipIdx hp

theorem lanesWithin_pmovPut {h : Hdr} {d : Reg} {a : Src} : LanesWithin (.pmovPut h d a) h ((List.range 16).map WRef.p) :=
  lanesWithin_runLanes (fun _ => rfl) fun s l => within_checked s _ _ (within_write (fun e he => by
    obtain ⟨n, hn, rfl⟩ := List.mem_map.mp he
    exact List.mem_map_of_mem (List.mem_of_mem_filter hn)) none)

theorem lanesWithin_ret {h : Hdr} : LanesWithin (.ret h) h [] :=
  lanesWithin_runLanes (fun _ => rfl) fun s l => by
    split
    next ho => exact within_readCheck ho
    next => exact within_jump _

theorem lanesWithin_yield {h : Hdr} : LanesWithin (.yield h) h [] :=
  lanesWithin_runLanes (fun _ => rfl) fun _ l iss s ⟨hc, hx⟩ => by
    rw [State.applyOut, hc]
    exact laneFrame_goesOn s hx _ true

theorem lanesWithin_srd {h : Hdr} {wide : Bool} {d : Reg} {num : Word} : LanesWithin (.srd h wide d num) h (Reg.refs d) :=
  ⟨_, true, fun _ => rfl, fun s l => by
    split
    · exact within_trap _
    · exact within_compute s _ _ fun _ => within_dest d _ _⟩

/-- Each instruction writes its destinations alone. -/
theorem lanesWithin_of_writes {i : Instr} {h : Hdr} {dst : List WRef} (hi : Writes i h dst) : LanesWithin i h dst := by
  cases hi with
  | intBin hk => exact lanesWithin_intBin hk
  | intImm hk => exact lanesWithin_intImm hk
  | intUn hk => exact lanesWithin_intUn hk
  | intTern hk => exact lanesWithin_intTern hk
  | shift hk => exact lanesWithin_shift hk
  | bitUn hk => exact lanesWithin_bitUn hk
  | floatBin hk => exact lanesWithin_floatBin hk
  | floatMin hk => exact lanesWithin_floatMin hk
  | floatBinXi hk => exact lanesWithin_floatBinXi hk
  | floatMinXi hk => exact lanesWithin_floatMinXi hk
  | floatUn hk => exact lanesWithin_floatUn hk
  | addc | subb => exact lanesWithin_carry fun _ => rfl
  | bfi | lea | ffma | fdot2 | bsel => exact lanesWithin_tern fun _ => rfl
  | cvtPack | pack => exact lanesWithin_ternIf fun _ => rfl
  | div | rem | bfe | fsub | fdiv | fsgn | fscale | unpack => exact lanesWithin_bin fun _ => rfl
  | mov | fabs | fneg | frnd | ffrc | cvt => exact lanesWithin_un fun _ => rfl
  | movi => exact lanesWithin_runLanes (fun _ => rfl) fun s _ => within_compute s _ _ fun _ => within_dest _ _ _
  | sel => exact lanesWithin_sel
  | qpack => exact lanesWithin_qpack
  | qunpack => exact lanesWithin_qunpack
  | setp | fsetp | fclass => exact lanesWithin_cmp2 fun _ => rfl
  | predBin hk => cases hk <;> exact lanesWithin_predOp fun _ => rfl
  | pnot | pmov => exact lanesWithin_predOp fun _ => rfl
  | pmovGet => exact lanesWithin_runLanes (fun _ => rfl) fun s _ => within_checked s _ _ (within_dest _ _ _)
  | pmovPut => exact lanesWithin_pmovPut
  | bra => exact lanesWithin_runLanes (fun _ => rfl) fun _ _ => within_jump _
  | braInd => exact lanesWithin_runLanes (fun _ => rfl) fun s _ => within_compute s _ _ fun _ => within_jump _
  | call => exact lanesWithin_runLanes (fun _ => rfl) fun s _ => within_compute s _ _ fun _ => within_link _
  | callInd => exact lanesWithin_runLanes (fun _ => rfl) fun s _ => within_compute s _ _ fun _ => within_link _
  | ret => exact lanesWithin_ret
  | yield => exact lanesWithin_yield
  | nop => exact lanesWithin_runLanes (fun _ => rfl) fun _ _ => within_jump _
  | srd => exact lanesWithin_srd

/-- Settles O14: every lane's outcome stays within the frame of the destinations, and a unit that parks takes a number. -/
theorem valueFrame : Obligations.ValueFrame :=
  fun _ _ _ hi _ _ _ _ hs ht hn => laneFrame_of_lanesWithin (lanesWithin_of_writes hi) hs ht hn

end Sys2Proof.Proofs
